-- ==== Sys2Proof/Word.lean ====
section
/-! DEFINITION. The plain data words of the model: bytes, 32-bit registers, 64-bit words, and the sparse
maps the state is made of. -/

namespace Sys2Proof

/-- A byte of memory or of a frame. -/
abbrev Byte := BitVec 8

/-- A 32-bit register (R64, R368). -/
abbrev Word := BitVec 32

/-- A 64-bit word: an instruction word (R59), a register pair (R66), an address. -/
abbrev DWord := BitVec 64

/-- A sparse map from a number to a value. In canonical form its keys rise strictly and no entry holds
the map's default value, so that equal maps are equal data. -/
abbrev SMap (α : Type) := List (Nat × α)

end Sys2Proof
end

