-- ==== Sys2Proof/Syntax.lean ====
section
/-! DEFINITION. The commands of the block: one constructor for every row of spec/opcode_table.json, and the
plain data they carry (group references, Silk frames, what the surroundings bring). -/

namespace Sys2Proof

/-- A group slot of a cell: the device cell number (device block × 16 + cell) and the slot (R11, R32). -/
structure GRef where
  cell : Nat
  slot : Nat
  deriving DecidableEq, Repr

/-- An error unit of Table 11-1, by level: device cell, device block, region, chip. -/
inductive UnitRef where
  | ceu (cell : Nat)
  | beu (block : Nat)
  | geu (region : Nat)
  | chip
  deriving DecidableEq, Repr

/-- The upset that a protected 64-bit word met since it was last checked: nothing, or the bits of `mask`
flipped in word number `word` of the access, or in several words. It comes from outside: the spec names no cause of
an upset. -/
inductive Upset where
  | none
  | flip (word : Nat) (mask : DWord)
  | flips (l : List (Nat × DWord))
  deriving DecidableEq, Repr

/-- The words of an upset, with the bits that it flipped in each. -/
def Upset.list : Upset → List (Nat × DWord)
  | .none => []
  | .flip w m => [(w, m)]
  | .flips l => l

/-- The IPv6 and UDP fields of a host frame (R244). -/
structure IpUdp where
  tclass  : Byte := 0
  flow    : BitVec 20 := 0
  nextHdr : Byte := 17
  hops    : Byte := 64
  src     : BitVec 128 := 0
  dst     : BitVec 128 := 0
  sport   : BitVec 16 := 0
  dport   : BitVec 16 := 0
  deriving DecidableEq, Repr

/-- What stands in front of a frame's Silk link header (R243, R244): MAC addresses, 802.1Q tag, EtherType and, on the
host port, the IPv6 and UDP headers. `fh` is the flowlet hash that the frame was given with its hop (R256). -/
structure Envelope where
  dstMac    : BitVec 48 := 0
  srcMac    : BitVec 48 := 0
  tagged    : Bool := true
  pcp       : BitVec 3 := 0
  dei       : Bool := false
  vid       : BitVec 12 := 0
  etherType : BitVec 16 := 0x88B5
  ip        : Option IpUdp := none
  fh        : BitVec 16 := 0
  deriving DecidableEq, Repr

/-- The link header of Table 8-2, field by field; `rsv` holds its reserved bits [49:48] and [3:0]. -/
structure LinkHdr where
  ver     : BitVec 4
  ftype   : BitVec 2
  lane    : BitVec 3
  ackv    : Bool
  crv     : Bool
  crlane  : BitVec 3
  lseq    : BitVec 16
  ackseq  : BitVec 16
  credits : BitVec 12
  rsv     : BitVec 6
  deriving DecidableEq, Repr

/-- The transaction header of Table 8-4; `rsv` holds bits [17:0] of word 2. -/
structure TxHdr where
  op      : BitVec 6
  rsp     : Bool
  enc     : Bool
  status  : BitVec 8
  dst     : BitVec 16
  src     : BitVec 16
  tag     : BitVec 16
  job     : BitVec 16
  window  : BitVec 8
  offset  : BitVec 40
  epoch   : BitVec 16
  len     : BitVec 12
  aop     : BitVec 4
  ttl     : BitVec 8
  ch      : BitVec 4
  last    : Bool
  cacheok : Bool
  rsv     : BitVec 18
  deriving DecidableEq, Repr

/-- A Silk transaction frame (R243, R246, R248): its two headers, its payload and the 16-byte trailer of an
encrypted frame (R321; empty when ENC = 0), and what stands in front of them. -/
structure Frame where
  link    : LinkHdr
  tx      : TxHdr
  payload : List Byte
  trailer : List Byte
  env     : Envelope := {}
  deriving DecidableEq, Repr

/-- A link header that says nothing: that of a link control frame with neither ACKV nor CRV. -/
def ctlLink : LinkHdr :=
  { ver := 1, ftype := 1, lane := 0, ackv := false, crv := false, crlane := 0, lseq := 0, ackseq := 0, credits := 0, rsv := 0 }

/-- The headers of a link control frame (R246, R248). -/
structure CtlHdr where
  link : LinkHdr := ctlLink
  env  : Envelope := {}
  deriving DecidableEq, Repr

/-- A HELLO link control frame (R248, R251): node id, port number and initial credits of the seven lanes. -/
structure Hello where
  hdr     : CtlHdr := {}
  node    : BitVec 16
  port    : Nat
  credits : List Nat
  deriving DecidableEq, Repr

/-- What a corrupted frame tells (R242, R249, R258): the frame, where its headers had arrived and it was already being
passed on, and the lanes whose FEC codewords were corrected or could not be. -/
structure Corrupt where
  cut    : Option Frame := none
  corr   : List Nat := []
  uncorr : List Nat := []
  deriving DecidableEq, Repr

/-- The kinds of Table 8-13 that a receiver finds below the transaction header (0x08 and 0x09 are found by
the rows of the frames themselves too). -/
inductive Violation where
  | etherType          -- kind 0x01
  | linkHeader         -- kind 0x02
  | overCredit         -- kind 0x03
  | tooLong            -- kind 0x04
  | pfc                -- kind 0x05
  | ipv6Ext            -- kind 0x06
  | badAck             -- kind 0x07
  | badHeader          -- kind 0x08
  | strayResponse      -- kind 0x09
  deriving DecidableEq, Repr

/-- A rail of Table 12-3: one of region `r`'s, or one of the shared area's. -/
inductive Rail where
  | region (r : Nat)
  | shared
  deriving DecidableEq, Repr

/-- The straps sampled at the rise of RST_N (R384). -/
structure Straps where
  bootMode : BitVec 2
  hostPhy  : BitVec 2
  deriving DecidableEq, Repr

/-- What the reset sequence meets outside the package, or in the silicon, in the phase that ends (Table
12-7): the contents of the flash, as pieces with their addresses (none when no flash answers), the regions that fail release or training, the cells that fail the self-test, whether a
shared-area self-test fails, and whether a host boot ran out of time. -/
structure BootInput where
  flash       : Option (List (Nat × List Byte))
  relFail     : List Nat
  trainFail   : List Nat
  cellFail    : List Nat
  sharedFail  : Bool
  hostTimeout : Bool
  deriving DecidableEq, Repr

/-- The commands: every row of spec/opcode_table.json. A Brias instruction names the group that issues it
and brings its base word `w` (and extended word `x`) as fetch delivered them (R59, R101). -/
inductive Instr where
  /-- IADD (R72). Integer add of two 32-bit values per active thread. -/
  | iadd (g : GRef) (w : DWord)
  /-- ISUB (R72). Integer subtract per active thread. -/
  | isub (g : GRef) (w : DWord)
  /-- IMUL (R72). Low 32 bits of an integer product per active thread. -/
  | imul (g : GRef) (w : DWord)
  /-- IMULHI (R72). High 32 bits of a signed or unsigned 64-bit product per active thread. -/
  | imulhi (g : GRef) (w : DWord)
  /-- IMAD (R72). Integer multiply-add, keeping the low 32 bits, per active thread. -/
  | imad (g : GRef) (w : DWord)
  /-- IMIN (R72). Signed or unsigned integer minimum per active thread. -/
  | imin (g : GRef) (w : DWord)
  /-- IMAX (R72). Signed or unsigned integer maximum per active thread. -/
  | imax (g : GRef) (w : DWord)
  /-- IABS (R72). Integer absolute value per active thread. -/
  | iabs (g : GRef) (w : DWord)
  /-- AND (R72). Bitwise AND per active thread. -/
  | iand (g : GRef) (w : DWord)
  /-- OR (R72). Bitwise OR per active thread. -/
  | ior (g : GRef) (w : DWord)
  /-- XOR (R72). Bitwise XOR per active thread. -/
  | ixor (g : GRef) (w : DWord)
  /-- ANDN (R72). a AND NOT b per active thread. -/
  | andn (g : GRef) (w : DWord)
  /-- SHL (R72). Shift left per active thread. -/
  | shl (g : GRef) (w : DWord)
  /-- SHR (R72). Logical or arithmetic shift right per active thread. -/
  | shr (g : GRef) (w : DWord)
  /-- POPC (R72). Count of 1 bits per active thread. -/
  | popc (g : GRef) (w : DWord)
  /-- CLZ (R72). Count of leading zeros per active thread. -/
  | clz (g : GRef) (w : DWord)
  /-- BREV (R72). Bit reversal per active thread. -/
  | brev (g : GRef) (w : DWord)
  /-- ISETP (R72). Integer compare that writes predicate bits of active threads. -/
  | isetp (g : GRef) (w : DWord)
  /-- SEL (R72). Per-thread select between two sources by a predicate. -/
  | sel (g : GRef) (w : DWord)
  /-- IADD64 (R72). 64-bit add of register pairs per active thread. -/
  | iadd64 (g : GRef) (w : DWord)
  /-- MOV (R72). Copy of a register or a sign-extended immediate per active thread. -/
  | mov (g : GRef) (w : DWord)
  /-- BSHUF (R72). Fixed byte rearrangement of two sources per active thread. -/
  | bshuf (g : GRef) (w : DWord)
  /-- FADD (R73). fp32 add with rounding mode and sticky flags. -/
  | fadd (g : GRef) (w : DWord)
  /-- FMUL (R73). fp32 multiply with rounding mode and sticky flags. -/
  | fmul (g : GRef) (w : DWord)
  /-- FFMA (R73). fp32 fused multiply-add with one rounding. -/
  | ffma (g : GRef) (w : DWord)
  /-- FMIN (R73). IEEE minimumNumber per active thread. -/
  | fmin (g : GRef) (w : DWord)
  /-- FMAX (R73). IEEE maximumNumber per active thread. -/
  | fmax (g : GRef) (w : DWord)
  /-- FSETP (R73). Float compare that writes predicate bits. -/
  | fsetp (g : GRef) (w : DWord)
  /-- FRCP (R75). Reciprocal within 1 ulp with special cases. -/
  | frcp (g : GRef) (w : DWord)
  /-- FRSQ (R75). Reciprocal square root within 1 ulp. -/
  | frsq (g : GRef) (w : DWord)
  /-- FSQRT (R73). Correctly rounded square root. -/
  | fsqrt (g : GRef) (w : DWord)
  /-- FEX2 (R75). Base-2 exponential within 1 ulp. -/
  | fex2 (g : GRef) (w : DWord)
  /-- FLG2 (R75). Base-2 logarithm within 1 ulp. -/
  | flg2 (g : GRef) (w : DWord)
  /-- FSIN (R75). Sine within 1 ulp. -/
  | fsin (g : GRef) (w : DWord)
  /-- FCOS (R75). Cosine within 1 ulp. -/
  | fcos (g : GRef) (w : DWord)
  /-- HFMA2 (R73). Two independent 16-bit fused multiply-adds per register. -/
  | hfma2 (g : GRef) (w : DWord)
  /-- CVT (R141). Converts one element per thread between formats, optionally stochastically. -/
  | cvt (g : GRef) (w : DWord)
  /-- CVT_MX (R144). Converts two 32-element MX blocks with their scales. -/
  | cvtMx (g : GRef) (w : DWord)
  /-- TID (R69). Writes each active thread's number. -/
  | tid (g : GRef) (w : DWord)
  /-- SHFL (R80). Reads a register of another thread of the group. -/
  | shfl (g : GRef) (w : DWord)
  /-- VOTE (R80). ANY, ALL or BALLOT over active threads. -/
  | vote (g : GRef) (w : DWord)
  /-- READLANE (R80). Copies one thread's register to a scalar register. -/
  | readlane (g : GRef) (w : DWord)
  /-- LDS (R81). Scratch load per active thread. -/
  | lds (g : GRef) (w : DWord)
  /-- STS (R81). Scratch store per active thread. -/
  | sts (g : GRef) (w : DWord)
  /-- LD (R83). Context virtual load per active thread. -/
  | ld (g : GRef) (w : DWord)
  /-- ST (R83). Context virtual store per active thread; an upset that its merges meet (R231). -/
  | st (g : GRef) (w : DWord) (u : Upset)
  /-- ATOM_ADD (R83). Atomic integer or float add at the coherence point. -/
  | atomAdd (g : GRef) (w : DWord)
  /-- ATOM_MIN (R83). Atomic minimum at the coherence point. -/
  | atomMin (g : GRef) (w : DWord)
  /-- ATOM_MAX (R83). Atomic maximum at the coherence point. -/
  | atomMax (g : GRef) (w : DWord)
  /-- ATOM_SWAP (R83). Atomic swap at the coherence point. -/
  | atomSwap (g : GRef) (w : DWord)
  /-- ATOM_CAS (R83). Atomic compare-and-swap at the coherence point. -/
  | atomCas (g : GRef) (w : DWord)
  /-- SILK_LD (R86). Remote load split into Silk requests per 256-byte span. -/
  | silkLd (g : GRef) (w x : DWord)
  /-- SILK_ST (R86). Remote store split into Silk requests. -/
  | silkSt (g : GRef) (w x : DWord)
  /-- SILK_ATOM (R86). One remote atomic request per active thread. -/
  | silkAtom (g : GRef) (w x : DWord)
  /-- SILK_INV (R86). Remote sharer invalidation per 4 KiB region touched. -/
  | silkInv (g : GRef) (w x : DWord)
  /-- SILK_PUT (R88). Starts a bulk put on a collective engine channel. -/
  | silkPut (g : GRef) (w x : DWord)
  /-- SILK_GET (R88). Starts a bulk get on a collective engine channel. -/
  | silkGet (g : GRef) (w x : DWord)
  /-- RTRIG (R89). Sends one remote procedure trigger with a 64-byte argument. -/
  | rtrig (g : GRef) (w x : DWord)
  /-- MX_TAG (R120). Starts a new problem at a base slot, dissolving overlapped problems. -/
  | mxTag (g : GRef) (w x : DWord)
  /-- MX_ZERO (R109). Zeroes accumulators, flags and KPOS of named problems. -/
  | mxZero (g : GRef) (w x : DWord)
  /-- MX_LOADC (R118). Loads C into a problem's enabled accumulators. -/
  | mxLoadc (g : GRef) (w x : DWord)
  /-- MX_LOAD (R118). Loads input rows and scales into the row buffers, optionally transposed. -/
  | mxLoad (g : GRef) (w x : DWord)
  /-- MX_WCAST (R112). Places a weight stream on a broadcast channel. -/
  | mxWcast (g : GRef) (w x : DWord)
  /-- MX_STREAM (R108). One pass of K reduction positions over named problems. -/
  | mxStream (g : GRef) (w x : DWord)
  /-- MX_DRAIN (R124). Converts and writes or accumulates a problem's accumulators. -/
  | mxDrain (g : GRef) (w x : DWord)
  /-- ACT_FWD (R131). Applies an activation function to enabled accumulators. -/
  | actFwd (g : GRef) (w x : DWord)
  /-- ACT_BWD (R173). Multiplies accumulators by the activation derivative from saved outputs. -/
  | actBwd (g : GRef) (w x : DWord)
  /-- S_ADD (R90). Scalar add. -/
  | sAdd (g : GRef) (w : DWord)
  /-- S_SUB (R90). Scalar subtract. -/
  | sSub (g : GRef) (w : DWord)
  /-- S_MUL (R90). Scalar multiply, low 32 bits. -/
  | sMul (g : GRef) (w : DWord)
  /-- S_AND (R90). Scalar AND. -/
  | sAnd (g : GRef) (w : DWord)
  /-- S_OR (R90). Scalar OR. -/
  | sOr (g : GRef) (w : DWord)
  /-- S_XOR (R90). Scalar XOR. -/
  | sXor (g : GRef) (w : DWord)
  /-- S_SHL (R90). Scalar shift left. -/
  | sShl (g : GRef) (w : DWord)
  /-- S_SHR (R90). Scalar shift right. -/
  | sShr (g : GRef) (w : DWord)
  /-- S_MOV (R90). Scalar copy or immediate load. -/
  | sMov (g : GRef) (w : DWord)
  /-- S_SETP (R90). Scalar compare writing a whole predicate. -/
  | sSetp (g : GRef) (w : DWord)
  /-- S_ADD64 (R90). Scalar pair add. -/
  | sAdd64 (g : GRef) (w : DWord)
  /-- S_RDSPR (R91). Reads a special register. -/
  | sRdspr (g : GRef) (w : DWord)
  /-- S_WRSPR (R91). Writes a writable special register. -/
  | sWrspr (g : GRef) (w : DWord)
  /-- NOP (R69). Whole-group instruction with no effect. -/
  | nop (g : GRef) (w : DWord)
  /-- BRA (R46). Branch that may diverge and push the reconvergence stack. -/
  | bra (g : GRef) (w : DWord)
  /-- JMPR (R94). Jump to an address in a scalar pair. -/
  | jmpr (g : GRef) (w : DWord)
  /-- CALL (R94). Saves the return address and jumps. -/
  | call (g : GRef) (w : DWord)
  /-- RET (R94). Jumps to an address in a scalar pair. -/
  | ret (g : GRef) (w : DWord)
  /-- EXIT (R45). Clears executing threads from the live mask; the group exits when it is empty. -/
  | exit (g : GRef) (w : DWord)
  /-- BAR (R49). Arrives at a block barrier and waits for its completion. -/
  | bar (g : GRef) (w : DWord)
  /-- FENCE (R96). Waits for earlier memory and Silk instructions at a scope. -/
  | fence (g : GRef) (w : DWord)
  /-- WAIT (R95). Waits until a memory word meets a condition or a timeout. -/
  | wait (g : GRef) (w : DWord)
  /-- TRAP (R97). Freezes the group with TRAP and a code. -/
  | trap (g : GRef) (w : DWord)
  /-- LOAD_DATA_RETURN (R41). Data of a load or atomic returns and the outstanding write clears. -/
  | loadDataReturn (g : GRef) (k : Nat) (u : Upset)
  /-- MEMORY_PATH_FAULT (R99). Address checks end with a fault found after issue; the group is frozen. -/
  | memoryPathFault (g : GRef) (k : Nat)
  /-- WAIT_POLL_READ (R95). Every 256 ACLK a waiting group reads its word. -/
  | waitPollRead (g : GRef)
  /-- WAIT_READ_RETURN (R95). A WAIT read returns and may end the wait with pd set. -/
  | waitReadReturn (g : GRef)
  /-- FENCE_COMPLETE (R220). Earlier accesses reach the scope's point and caches are invalidated. -/
  | fenceComplete (g : GRef)
  /-- GROUP_SET_ADMIT (R36). The head group set of a block's launch queue is admitted or judged never admissible. -/
  | groupSetAdmit (b : Nat)
  /-- MX_ENTRY_START (R121). An array queue entry starts on its engine. -/
  | mxEntryStart (g : GRef)
  /-- MX_ENTRY_COMPLETE (R125). An array instruction completes on its engine. -/
  | mxEntryComplete (g : GRef) (k : Nat)
  /-- WCAST_BEAT_GRANT (R114). The broadcast engine grants one beat of a channel to all subscribers. -/
  | wcastBeatGrant (b c : Nat)
  /-- WCAST_STALL (R117). A channel stall timeout freezes the channel. -/
  | wcastStall (b c : Nat)
  /-- ACC_FOLD_GROUP (R227). The accumulate port locks, reads, folds and writes one group. -/
  | accFoldGroup (r : Nat) (u : Upset)
  /-- SCRUB_READ (R233). The scrubber reads and corrects a Layer Store word or HBM3E sector. -/
  | scrubRead (r : Nat) (hbm : Bool) (o : Nat) (u : Upset)
  /-- TLB_INV_RANGE (R238). Starts invalidating a context's translations of a page range. -/
  | tlbInvRange (v : Word)
  /-- TLB_INV_ALL (R238). Starts invalidating every translation of a context. -/
  | tlbInvAll (v : Word)
  /-- TLB_INV_DONE (R238). An invalidation completes and BUSY falls. -/
  | tlbInvDone
  /-- GEN_WRITE (R239). A new mapping generation makes held translations stale. -/
  | genWrite (n : Nat) (v : Word)
  /-- ICACHE_INVALIDATE (R240). Invalidates a block instruction cache. -/
  | icacheInvalidate (b : Nat) (v : Word)
  /-- MEM_ECC_CLEAR (R241). Clears the region's memory ECC counts. -/
  | memEccClear (r : Nat) (v : Word)
  /-- ANT_CLEAR_ALL (R160). Clears every Antenna entry and COLLISIONS. -/
  | antClearAll (r : Nat) (v : Word)
  /-- ANT_CLEAR_ONE (R160). Clears one Antenna entry. -/
  | antClearOne (r : Nat) (v : Word)
  /-- ANT_ENTRY_WORD0_READ (R160). Reading word 0 of an entry latches its shadow. -/
  | antEntryWord0Read (r n : Nat)
  /-- STEP_START (R195). A step begins: table read, placement, accumulators zeroed, references taken. -/
  | stepStart (r : Nat)
  /-- FWD_TASK (R191). A forward task starts for a micro-batch and submits its launches. -/
  | fwdTask (r : Nat)
  /-- RECOMP_TASK (R175). A muted recompute task starts. -/
  | recompTask (r : Nat)
  /-- BWD_TASK (R172). A backward task starts its gradient launches. -/
  | bwdTask (r : Nat)
  /-- WPREP_TASK (R186). Narrows an instar into the stream copy area. -/
  | wprepTask (r : Nat)
  /-- FOLD_TASK (R189). A FOLD starts waiting for a free buffer and its ready word. -/
  | foldTask (r : Nat)
  /-- FOLD_APPLY (R201). The FOLD checks the header and writes the new instar. -/
  | foldApply (r : Nat)
  /-- FOLD_TIMEOUT (R202). A waiting FOLD times out and the step stops. -/
  | foldTimeout (r : Nat)
  /-- COLL_TASK (R194). Starts one collective on the collective engine with the current epoch. -/
  | collTask (r : Nat)
  /-- RING_TASK (R199). Starts a sequence ring. -/
  | ringTask (r : Nat)
  /-- RING_HOP_SEND (R199). Sends a ring hop once the consumed word allows it. -/
  | ringHopSend (r c : Nat)
  /-- SEND_TASK (R200). Sends a reduced gradient with its header to the host. -/
  | sendTask (r : Nat)
  /-- END_TASK (R203). Waits for the step's tasks and writes the step report. -/
  | endTask (r : Nat)
  /-- SKIPPER_TASK_COMPLETE (R191). A task's launches, transfers and copies complete. -/
  | skipperTaskComplete (r q t m : Nat)
  /-- STEP_BOUNDARY (R196). The last region ends its step; STEP applies or increments and logs clear. -/
  | stepBoundary (n : Nat)
  /-- CHRYSALIS_SHARD_SEND (R358). The copy engine hashes and sends shard frames to the slot. -/
  | chrysalisShardSend (r k : Nat)
  /-- RESTORE (R361). Checks loaded shard hashes against a manifest and may set state. -/
  | restore (v : Word)
  /-- REFETCH_GO (R349). Driver signals the page is rewritten; copies remade and the refetch ends. -/
  | refetchGo (r : Nat) (v : Word)
  /-- REFETCH_TIMEOUT (R349). A refetch without GO in time raises TASK_TAINT. -/
  | refetchTimeout (r x : Nat)
  /-- HELLO (R251). Peer announces node id, port and credits; link becomes up. -/
  | hello (l : Nat) (h : Hello)
  /-- RESUME_FRAME (R250). Peer states its expected LSEQ after a link returns. -/
  | resumeFrame (l : Nat) (h : CtlHdr) (lseq : BitVec 16)
  /-- RETRY_FRAME (R249). Peer requests a resend from an LSEQ. -/
  | retryFrame (l : Nat) (h : CtlHdr) (lseq : BitVec 16)
  /-- CREDIT (R251). Peer returns lane credits. -/
  | credit (l : Nat) (h : CtlHdr)
  /-- LOCKED (R344). Peer reports lockdown; port excluded from hop choices. -/
  | locked (l : Nat) (h : CtlHdr) (node : BitVec 16)
  /-- LOCKED_REPEAT (R344). In lockdown every port resends LOCKED every 2^20 NCLK. -/
  | lockedRepeat
  /-- REPLAY_TIMEOUT (R249). No ACK advance for 2^14 NCLK; resend from the oldest frame. -/
  | replayTimeout (l : Nat)
  /-- BLOCK_LOCK_LOST (R250). A link loses block lock and keeps its state. -/
  | blockLockLost (l : Nat)
  /-- LINK_RETURN (R250). A link trains up again and sends RESUME. -/
  | linkReturn (l : Nat)
  /-- LINK_DOWN (R250). Link not back within HOLD is declared down and its replay buffer discarded. -/
  | linkDown (l : Nat)
  /-- PFC_RECEIVE (R242). Priority flow control received on the host port pauses a priority. -/
  | pfcReceive (l : Nat) (prios : BitVec 8) (pause : BitVec 8)
  /-- FRAME_FORWARD (R255). A frame not for this device is routed, combined or refused. -/
  | frameForward (l : Nat) (f : Frame)
  /-- FOLD_ENTRY_CLOSE (R268). A fold entry closes to new requesters after 2 µs. -/
  | foldEntryClose (sl k : Nat)
  /-- ROUTE_HOLD_EXPIRE (R256). A frame with no up hop waits out ROUTE_HOLD and is refused. -/
  | routeHoldExpire (sl k : Nat)
  /-- LOAD (R260). Remote load checked and served at the home. -/
  | load (l : Nat) (f : Frame)
  /-- STORE (R260). Remote store checked and applied at the home. -/
  | store (l : Nat) (f : Frame)
  /-- ATOMIC (R261). Remote atomic applied at the coherence point. -/
  | atomic (l : Nat) (f : Frame)
  /-- INV (R267). Home invalidates every sharer of a 4 KiB region. -/
  | inv (l : Nat) (f : Frame)
  /-- RTRIG_REQUEST (R262). Remote trigger queues a handler launch. -/
  | rtrigRequest (l : Nat) (f : Frame)
  /-- PUT (R272). A put frame is checked and written at the home. -/
  | put (l : Nat) (f : Frame)
  /-- GET (R272). A get frame is checked and its data returned. -/
  | get (l : Nat) (f : Frame)
  /-- COLL (R276). A collective frame is applied, forwarded, held or refused by epoch. -/
  | coll (l : Nat) (f : Frame)
  /-- PERMUTE (R275). A Molt data frame is written at the new owner. -/
  | permute (l : Nat) (f : Frame)
  /-- RESP (R87). A response completes a request, possibly with a NAK. -/
  | resp (l : Nat) (f : Frame)
  /-- INVAL (R266). A sharer drops a region's lines and sends INVAL_ACK. -/
  | inval (l : Nat) (f : Frame)
  /-- INVAL_ACK (R266). A home releases held write responses. -/
  | invalAck (l : Nat) (f : Frame)
  /-- EPOCH_DONE (R275). A member reports an epoch drained; may return to stable. -/
  | epochDone (l : Nat) (f : Frame)
  /-- E2E_TIMEOUT (R252). A request without RESP is resent or completes with NAK TIMEOUT. -/
  | e2eTimeout (tag : BitVec 16)
  /-- COMPLETION_CACHE_EXPIRE (R253). A completion cache entry expires after HOLD. -/
  | completionCacheExpire (r k : Nat)
  /-- CE_FRAME_SEND (R272). The collective engine sends a frame when credits allow. -/
  | ceFrameSend (r c : Nat)
  /-- REDUCE_SCATTER (R274). Ring reduce-scatter in a fixed order. -/
  | reduceScatter (r c : Nat)
  /-- ALL_GATHER (R274). Moves chunks to all members unchanged. -/
  | allGather (r c : Nat)
  /-- ALL_REDUCE (R274). Reduce-scatter followed by all-gather. -/
  | allReduce (r c : Nat)
  /-- ALL_TO_ALL (R274). Exchanges chunks among members unchanged. -/
  | allToAll (r c : Nat)
  /-- PERMUTE_COLLECTIVE (R275). Starts a Molt by a permutation map. -/
  | permuteCollective (r c : Nat)
  /-- SILK_PORT_QUAR_CLEAR (R278). Ends a port's quarantine and resets its count. -/
  | silkPortQuarClear (p : Nat)
  /-- QUAR_FORCE (R278). Puts a port into quarantine now. -/
  | quarForce (p : Nat)
  /-- PORT_ENABLE_WRITE (R250). Enabling or disabling a port brings the link up or down. -/
  | portEnableWrite (p : Nat) (v : Word)
  /-- JWIN_WRITE (R270). Writes a job window, rejecting duplicates. -/
  | jwinWrite (n k : Nat) (v : Word)
  /-- CSR_READ (R284). MGMT read of control space registers. -/
  | csrRead (l : Nat) (f : Frame)
  /-- CSR_WRITE (R284). MGMT write of control space registers in order. -/
  | csrWrite (l : Nat) (f : Frame)
  /-- MEM_READ (R284). MGMT read of memory at the coherence point. -/
  | memRead (l : Nat) (f : Frame)
  /-- MEM_WRITE (R284). MGMT write of memory. -/
  | memWrite (l : Nat) (f : Frame)
  /-- QUAR_CLEAR (R284). MGMT command ending a port's quarantine. -/
  | quarClear (l : Nat) (f : Frame)
  /-- COMMAND_START (R294). The queue unit starts the next startable command. -/
  | commandStart
  /-- NOP_COMMAND (R295). Command that completes when started. -/
  | nopCommand (q k : Nat)
  /-- LAUNCH (R296). Places a group set in a block's launch queue. -/
  | launch (q k : Nat)
  /-- FENCE_WAIT (R300). Holds the queue until a fence value or state is reached. -/
  | fenceWait (q k : Nat)
  /-- COPY (R295). Block DMA copy. -/
  | copy (q k : Nat)
  /-- FILL (R295). Block DMA fill with a pattern. -/
  | fill (q k : Nat)
  /-- COLLECTIVE (R273). Starts a collective from a descriptor. -/
  | collective (q k : Nat)
  /-- STEP_LOAD (R194). Loads a step program into named regions, or refuses it. -/
  | stepLoad (q k : Nat)
  /-- STEP_GO (R196). Starts a step, completing at its boundary. -/
  | stepGo (q k : Nat)
  /-- STEP_UNLOAD (R295). Removes step programs. -/
  | stepUnload (q k : Nat)
  /-- MEASURE_OPEN (R304). Opens measurement windows of named blocks. -/
  | measureOpen (q k : Nat)
  /-- MEASURE_CLOSE (R304). Closes windows and dumps counters. -/
  | measureClose (q k : Nat)
  /-- COMMAND_COMPLETE (R297). A command's work ends; status written and signal applied. -/
  | commandComplete (q k : Nat)
  /-- ACTIVATE (R286). Makes a free context slot active and unparks its queues. -/
  | activate (n : Nat)
  /-- FREEZE (R305). Marks a context lost and freezes its queues and masters. -/
  | freeze (n : Nat)
  /-- DISCARD (R305). Completes unstarted commands with DISCARDED. -/
  | discard (n : Nat)
  /-- DRAIN (R305). Invalidates windows and waits for in-flight work to end. -/
  | drain (n : Nat)
  /-- DRAIN_COMPLETE (R305). All work of the context has ended; phase drained. -/
  | drainComplete (n : Nat)
  /-- ABANDON (R305). Moves the context's fences to abandoned. -/
  | abandon (n : Nat)
  /-- FREE (R305). Releases a torn-down context's resources and frees the slot. -/
  | free (n : Nat)
  /-- SUSPEND (R307). Parks and stops a context and starts saving its image. -/
  | suspend (n : Nat)
  /-- SUSPEND_COMPLETE (R307). Save point reached, image written, resources released. -/
  | suspendComplete (n : Nat)
  /-- EVICT (R307). Saves slot registers and frees the slot. -/
  | evict (n : Nat)
  /-- RESUME (R307). Restores a context image and unparks its queues. -/
  | resume (n : Nat)
  /-- PURGE (R306). Ends an evicted context. -/
  | purge (n : Nat)
  /-- FENCE_ALLOC (R298). Makes a free fence live for a CID. -/
  | fenceAlloc (f : Nat) (cid : BitVec 16)
  /-- FENCE_SIGNAL (R298). Raises a live fence's value. -/
  | fenceSignal (f : Nat) (cid : BitVec 16)
  /-- FENCE_FREE (R298). Frees a fence with no waiters. -/
  | fenceFree (f : Nat) (cid : BitVec 16)
  /-- QUEUE_RESUME (R300). Takes a stopped queue out of the stopped state. -/
  | queueResume (q : Nat) (v : Word)
  /-- QUEUE_ENABLE (R290). Enabling a queue resets HEAD and writes it to the ring. -/
  | queueEnable (q : Nat) (v : Word)
  /-- CREATE (R314). Makes a cocoon of idle regions with a fresh memory key. -/
  | create
  /-- BIND (R315). Binds a free context slot to a cocoon. -/
  | bind
  /-- MAP (R316). Maps lower-half pages for a bound context. -/
  | map
  /-- UNMAP (R316). Unmaps lower-half pages and invalidates them. -/
  | unmap
  /-- UNSEAL (R324). Verifies a bundle and starts decrypting its sections. -/
  | secUnseal
  /-- UNSEAL_SECTIONS_DONE (R324). Sections verified; mapped and key slot filled in one cycle. -/
  | unsealSectionsDone
  /-- ATTEST (R326). Writes a signed attestation report. -/
  | attest
  /-- REMOVE (R327). Freezes a cocoon's contexts and revokes its keys. -/
  | remove
  /-- REMOVE_DRAIN_DONE (R327). Drain count reaches zero and the scrub starts. -/
  | removeDrainDone (c : Nat)
  /-- COC_REMOVED (R327). Scrub ends and the cocoon's regions are released. -/
  | cocRemoved (c : Nat)
  /-- ERROR_UNIT_FREE (R340). A unit's handling time ends and it takes the next queued event. -/
  | errorUnitFree (u : UnitRef)
  /-- ERR_CLR (R366). Empties an error unit's capture and counts. -/
  | errClr (u : UnitRef) (v : Word)
  /-- CELL_FENCE (R350). A cell fault or ECC limit fences the cell. -/
  | cellFence (c : Nat) (ext : BitVec 16)
  /-- BLOCK_FENCE (R351). A block shared-logic fault fences its 16 cells. -/
  | blockFence (b : Nat)
  /-- REGION_RETIRE (R352). A region is retired and its ranges become holes. -/
  | regionRetire (r : Nat) (ext : BitVec 16)
  /-- SHARED_FAIL (R343). A logic fault in the shared area halts the device. -/
  | sharedFail (unit : BitVec 4)
  /-- ROOT_UNLOCK (R343). The root PLL loses lock and the device halts. -/
  | rootUnlock
  /-- RAIL_FAULT (R376). A rail outside tolerance or tripped retires a region or holds reset. -/
  | railFault (rail : Rail)
  /-- INPUT_SAMPLE (R377). Monarch samples the 50 V input every 10 µs and applies the response. -/
  | inputSample (vin iin : Nat)
  /-- POWER_CAP_TICK (R380). Every 1 ms the power cap is lowered or raised. -/
  | powerCapTick (watts : Nat)
  /-- THERMAL_CAP_TICK (R381). Every 1 ms the thermal cap follows the hottest junction. -/
  | thermalCapTick (temps : List Nat)
  /-- CLOCK_STEP_PREPARE (R379). Monarch starts preparing one root step toward the effective root. -/
  | clockStepPrepare
  /-- CLOCK_STEP_SWITCH (R379). All clocks switch in one cycle; history and block latches record it. -/
  | clockStepSwitch
  /-- RESET_ASSERT (R383). PWR_GOOD or RST_N low puts the package in reset. -/
  | resetAssert (pwrGood rstN : Bool)
  /-- RESET_RELEASE (R384). RST_N rises, straps are sampled and the reset sequence starts. -/
  | resetRelease (straps : Straps)
  /-- BOOT_PHASE_END (R384). A reset-sequence phase ends and the next begins. -/
  | bootPhaseEnd (b : BootInput)
  /-- HOST_BOOT_DATAGRAM (R388). The ROM takes one image datagram and answers it. -/
  | hostBootDatagram (i : IpUdp) (d : List Byte)
  /-- ENEC (R391). I3C CCC enabling target events. -/
  | enec (ev : Byte)
  /-- DISEC (R391). I3C CCC disabling target events. -/
  | disec (ev : Byte)
  /-- RSTDAA (R391). I3C CCC resetting the dynamic address. -/
  | rstdaa
  /-- ENTDAA (R391). I3C CCC for dynamic address assignment. -/
  | entdaa (a : BitVec 7)
  /-- SETDASA (R391). I3C CCC setting the dynamic address from the static one. -/
  | setdasa (a : BitVec 7)
  /-- GETPID (R391). I3C CCC returning the PID. -/
  | getpid
  /-- GETBCR (R391). I3C CCC returning the BCR. -/
  | getbcr
  /-- GETDCR (R391). I3C CCC returning the DCR. -/
  | getdcr
  /-- GETSTATUS (R391). I3C CCC returning status. -/
  | getstatus
  /-- GETMWL (R391). I3C CCC returning the maximum write length. -/
  | getmwl
  /-- GETMRL (R391). I3C CCC returning the maximum read length. -/
  | getmrl
  /-- RSTACT (R391). I3C CCC for target reset action. -/
  | rstact (a : Byte)
  /-- I3C_CSR_READ (R392). I3C private CSR read request. -/
  | i3cCsrRead (a : BitVec 48) (n : Nat)
  /-- I3C_CSR_WRITE (R392). I3C private CSR write. -/
  | i3cCsrWrite (a : BitVec 48) (ws : List Word)
  /-- I3C_MEMORY_READ (R392). I3C private memory read request. -/
  | i3cMemoryRead (a : BitVec 48) (n : Nat)
  /-- I3C_MEMORY_WRITE (R392). I3C private memory write. -/
  | i3cMemoryWrite (a : BitVec 48) (bs : List Byte)
  /-- I3C_PRIVATE_READ (R392). Returns the status byte and data of the last request. -/
  | i3cPrivateRead
  /-- BYPASS (R393). JTAG BYPASS instruction. -/
  | bypass
  /-- IDCODE (R393). JTAG IDCODE instruction. -/
  | idcode
  /-- SAMPLE_PRELOAD (R393). JTAG SAMPLE/PRELOAD instruction. -/
  | samplePreload (pads : List Bool)
  /-- EXTEST (R393). JTAG EXTEST instruction. -/
  | extest (pads : List Bool)
  /-- CLAMP (R393). JTAG CLAMP instruction. -/
  | clamp
  /-- HIGHZ (R393). JTAG HIGHZ instruction. -/
  | highz
  /-- DEBUG (R393). JTAG debug access carrying an R392 opcode. -/
  | debug (dr : BitVec 96)
  /-- JTAG_TRST (R402). TRST_N low holds the TAP in Test-Logic-Reset. -/
  | jtagTrst (low : Bool)
  /-- DBG_HALT (R394). Writing HALT halts or releases resident groups. -/
  | dbgHalt (c : Nat) (v : Word)
  /-- DBG_STEP (R394). Lets a halted group issue one instruction. -/
  | dbgStep (c : Nat) (v : Word)
  /-- REGISTER_WRITE (R370). Write to a register with no row of its own, applied per field class. -/
  | registerWrite (off : Nat) (v : Word)
  /-- CORRUPTED_FRAME (R249). A frame arrives with a bad FCS or UDP checksum; the receiver discards it and every later frame, and sends one RETRY with the LSEQ it expects. -/
  | corruptedFrame (l : Nat) (c : Corrupt)
  /-- PROTOCOL_VIOLATION (R277). A frame arrives that breaks the Silk or host-port protocol (wrong EtherType, MAC, tag, link header, PAUSE, IPv6 extension header, reserved opcode); it is counted as a violation and dropped, ignored or refused with NAK BADREQ. -/
  | protocolViolation (l : Nat) (f : Frame) (v : Violation)
  deriving DecidableEq, Repr

end Sys2Proof
end

