-- ==== Sys2Proof/Machine/State.lean ====
section
/-! DEFINITION. The state of the device, as plain data: every register group, memory, queue, table and
engine that the spec gives it, the queue of waiting commands, and the state right after reset. Software's
own register fields (access RW) stand in `csr`, word by word; fields that only the device changes are read
from the structured state (Machine/RegView.lean gives every register's view). -/

namespace Sys2Proof.Machine

/-- Why a step stops. -/
inductive Fault where
  /-- A command names a unit, slot, port or index that the device does not have (R10, R11, Table 9-1).
  Raised by every meaning whose operand names a unit. Safe: the machine stops where hardware has nothing
  that could act. -/
  | noSuchUnit
  /-- An upset of more bits than the protection of R230 is described for. Raised by the rows that read a
  protected word. Safe: R230 states neither a correction nor a detection for such an error. -/
  | undescribedUpset
  deriving DecidableEq, Repr

/-- Why an instruction has no meaning. -/
inductive Refusal where
  /-- Raised by an arm of `exec` whose meaning is not written. Safe: nothing is claimed of it. -/
  | notModelled (mnemonic : String)
  deriving DecidableEq, Repr

/-! ### Errors (chapter 11) -/

/-- An event record, Table 11-3. -/
structure Event where
  level   : BitVec 2
  hlevel  : BitVec 2
  sev     : BitVec 2
  esc     : Bool
  qfull   : Bool
  reclass : Bool
  code    : BitVec 16
  unit    : BitVec 16
  ext     : BitVec 16
  seq     : Word
  cseq    : Word
  master  : Word
  cid     : BitVec 16
  addr    : DWord
  deriving DecidableEq, Repr

/-- An error unit (R333, R338, R340): its busy flag with the severity in hand, first-error capture, pending
queue and counts. UNCORR is kept by cells only. -/
structure ErrUnit where
  busy      : Bool := false
  current   : BitVec 2 := 0
  first     : Option Event := none
  queue     : List Event := []
  seq       : Word := 0
  overflow  : BitVec 16 := 0
  escalated : BitVec 8 := 0
  uncorr    : BitVec 8 := 0
  deriving DecidableEq, Repr

/-! ### Groups, arrays and cells (chapters 2, 3, 4) -/

/-- What a resident group is doing (CELL_GROUP_INFO.STATE, Table 2-11). -/
inductive GState where
  | running
  | atBarrier (id : Nat)
  | frozen
  | exiting
  deriving DecidableEq, Repr

/-- An entry of the reconvergence stack (R46, Table 2-7). -/
structure StackEntry where
  rpc      : DWord
  pendPc   : DWord
  pendMask : DWord
  saved    : DWord
  pendDone : Bool
  deriving DecidableEq, Repr

/-- A local load or atomic whose data has not returned, or a local access whose checks found a fault
(R41, R84, R99). `writes` holds the registers to be written, keyed register × 64 + thread; `srcs` tells for
each of them the 64-bit word it was read from (its physical address, or its scratch offset when `scratch` is
set) and the byte offset in it, and `size` and `sx` how many of its bytes it holds and how they were extended;
`hits` are the uncorrectable units that the read met. `silk` marks a SILK.LD that the remote line cache
serves (R264), `cached` lists the words that a cache held, and `inBlk` those of them that the block cache gave. -/
structure Access where
  pc      : DWord
  regs    : List Nat
  writes  : List (Nat × Word)
  srcs    : List (Nat × Nat)
  size    : Nat
  sx      : Bool
  scratch : Bool
  hits    : List Nat
  fault   : Option (BitVec 16 × DWord)
  silk    : Bool := false
  cached  : List Nat := []
  inBlk   : List Nat := []
  deriving DecidableEq, Repr

/-- A WAIT in progress (R95): `made` reads have been made; `inFlight` holds the data of those that have
not returned, oldest first, each with its number. -/
structure WaitRec where
  addr     : DWord
  value    : DWord
  pd       : Nat
  cond     : BitVec 3
  timeout  : Nat
  made     : Nat
  inFlight : List (Nat × DWord)
  deriving DecidableEq, Repr

/-- A FENCE in progress (R96). -/
structure FenceRec where
  scope : BitVec 2
  silk  : Bool
  deriving DecidableEq, Repr

/-- An entry of a group's array queue (R121): the instruction's words and address, the scalar registers it
captured at issue, whether it has started, the physical pieces of each row it checked and the bytes it read
when it started, the scale sideband on its channel, and the reduction positions that a STREAM has added. -/
structure MxEntry where
  pc      : DWord
  w       : DWord
  x       : DWord
  args    : List Word
  started : Bool
  pieces  : List (List (Nat × Nat))
  data    : List Byte
  scales  : List Byte
  kdone   : Nat
  deriving DecidableEq, Repr

/-- A resident thread group (R32–R38, R52, R64, R68, R74, R394). -/
structure Group where
  gid      : Nat
  setId    : Nat
  ctx      : Nat
  cid      : BitVec 16
  index    : Nat
  count    : Nat
  regs     : Nat
  scratchUnits : List Nat
  slots    : BitVec 8
  bars     : Nat
  st       : GState
  code     : BitVec 16
  pc       : DWord
  live     : DWord
  mask     : DWord
  stack    : List StackEntry
  vregs    : SMap Word
  sregs    : SMap Word
  preds    : SMap DWord
  flags    : BitVec 5
  mcountHi : Word
  scratch  : SMap Byte
  halted   : Bool
  stepOne  : Bool
  bpPass   : Bool
  pend     : List Access
  fence    : Option FenceRec
  wait     : Option WaitRec
  mxq      : List MxEntry
  mute     : Bool
  ticket   : Nat
  deriving DecidableEq, Repr

/-- An accumulator with its sticky flags (R102, R135). -/
structure Acc where
  value : Word := 0
  sat   : Bool := false
  inv   : Bool := false
  ovf   : Bool := false
  deriving DecidableEq, Repr

/-- A slot's tag (R105, Table 4-15): the problem that covers the slot, held in full at its base slot. -/
structure Tag where
  owned    : Bool := false
  owner    : Nat := 0
  base     : Bool := false
  baseSlot : Nat := 0
  pk       : BitVec 2 := 0
  qk       : Bool := false
  xr       : Bool := false
  int      : Bool := false
  rows     : Nat := 1
  cols     : Nat := 1
  t        : Word := 0
  ro       : Word := 0
  co       : Word := 0
  ld       : Word := 0
  kpos     : Word := 0
  deriving DecidableEq, Repr

/-- The round-robin pointers of a cell: the four issue ports (R40) and the three array engines (R121). -/
structure RrPtrs where
  lanes   : Nat := 15
  memory  : Nat := 15
  matrix  : Nat := 15
  control : Nat := 15
  compute : Nat := 15
  load    : Nat := 15
  drain   : Nat := 15
  deriving DecidableEq, Repr

/-- A cell (Table 2-1): its resident groups by slot, issue pointers, accumulators (keyed 16 × row + column),
slot tags as the array holds them and as the issue checks of R119 see them, row and scale buffers, the
memory-path line cache (keyed by sector address), and its error unit. `gone` holds groups that left their slots
with accesses under way (slot, and the group as it left): their data or faults are still to come (R54, R99). -/
structure Cell where
  groups    : SMap Group := []
  gone      : List (Nat × Group) := []
  ptrs      : RrPtrs := {}
  accs      : SMap Acc := []
  tags      : SMap Tag := []
  itags     : SMap Tag := []
  rowBuf    : SMap Byte := []
  scaleBuf  : SMap Byte := []
  lineCache : SMap (List Byte) := []
  err       : ErrUnit := {}
  fenced    : Bool := false
  deriving DecidableEq, Repr

/-! ### Blocks -/

/-- Where a group set came from, so that its completion can be reported (R222, R297, R303, R192). -/
inductive Source where
  | command (q k : Nat)
  | handler (ctx entry : Nat) (signal : DWord)
  | skipper (r q t m : Nat)
  deriving DecidableEq, Repr

/-- A group set of a launch (R34, Table 9-7): declaration, launch parameters, the barrier counters it was
given, where its groups were placed (cell within the block, slot; by group index), their identities, which have exited, which have left their
slots, and the code of the first freeze that one of them brought on itself (zero: none). -/
structure GroupSet where
  id      : Nat
  ctx     : Nat
  cid     : BitVec 16
  source  : Source
  entry   : DWord
  groups  : Nat
  regs    : Nat
  scratch : Nat
  slots   : BitVec 8
  bars    : Nat
  mute    : Bool
  icinv   : Bool
  ticket  : Nat
  params  : List Word
  barIds  : List Nat
  placed  : List (Nat × Nat)
  gids    : List Nat
  exited  : List Nat
  left    : List Nat
  fault   : BitVec 16
  drains  : List Nat := []
  deriving DecidableEq, Repr

/-- A barrier counter (Table 2-14) and the set it belongs to. -/
structure Barrier where
  setId    : Nat := 0
  expected : Nat := 0
  done     : Nat := 0
  phase    : Bool := false
  inUse    : Bool := false
  deriving DecidableEq, Repr

/-- A WCAST on a channel (R112–R114, Table 4-7). -/
structure Wcast where
  ctx     : Nat
  cid     : BitVec 16
  cell    : Nat
  slot    : Nat
  fmt     : Nat
  tr      : Bool
  addr    : DWord
  stride  : Nat
  kw      : Nat
  subs    : BitVec 16
  saddr   : DWord
  sstride : Nat
  granted : Nat
  deriving DecidableEq, Repr

/-- A weight broadcast channel: head WCAST and those behind it, oldest first; frozen under R134. -/
structure Channel where
  q      : List Wcast := []
  frozen : Bool := false
  ctx    : Nat := 0
  deriving DecidableEq, Repr

/-- A latch of a root step in a measurement window (Table 12-6, BLK_MSTEP). -/
structure MStep where
  count : DWord := 0
  seq   : BitVec 16 := 0
  deriving DecidableEq, Repr

/-- A block's measurement window (R25, R304, R382). -/
structure Window where
  opened  : Bool := false
  ctx     : Nat := 0
  counter : DWord := 0
  steps   : Nat := 0
  latches : SMap MStep := []
  logAddr : DWord := 0
  logCap  : Nat := 0
  logIdx  : Nat := 0
  logN    : Nat := 0
  deriving DecidableEq, Repr

/-- A block (Table 1-2): launch queue of 32 with the launches that wait for room in it (R37), resident sets, barrier counters, broadcast channels with the grant
pointer (R114), DMA engine, caches, measurement window and error unit. -/
structure Block where
  launchQ   : List GroupSet := []
  arriving  : List GroupSet := []
  sets      : List GroupSet := []
  bars      : SMap Barrier := []
  chans     : SMap Channel := []
  grantPtr  : Nat := 3
  dmaFrozen : Bool := false
  dmaCtx    : Nat := 0
  cache     : SMap (List Byte) := []
  icache    : SMap (List Byte) := []
  win       : Window := {}
  err       : ErrUnit := {}
  fenced    : Bool := false
  deriving DecidableEq, Repr

/-! ### Regions (chapters 5, 6, 7, 8) -/

/-- An Antenna entry (Table 5-11). -/
structure AntEntry where
  id      : Word := 0
  ctx     : Nat := 0
  valid   : Bool := false
  written : DWord := 0
  zeros   : Word := 0
  sats    : Word := 0
  nonfin  : Word := 0
  collide : Word := 0
  deriving DecidableEq, Repr

/-- A region's Antenna table (R157–R160), with the shadow that a read of word 0 latches. -/
structure Antenna where
  entries    : SMap AntEntry := []
  shadow     : Option (Nat × AntEntry) := none
  collisions : BitVec 16 := 0
  deriving DecidableEq, Repr

/-- A ladder record (Table 5-13). -/
structure LadderRec where
  tensor : Word
  step   : Word
  layer  : Nat
  mb     : Nat
  ctx    : Nat
  fromR  : Nat
  dest     : Nat
  bwd    : Bool
  watch  : Bool
  w      : DWord
  sats   : Word
  nonfin : Word
  deriving DecidableEq, Repr

/-- A region's overflow ladder (R161–R166): the log, and the rungs that STICKY promotions hold until the
step ends (layer; 0 for forward tasks, 1 for backward tasks; rung). -/
structure Ladder where
  promotions : Nat := 0
  log        : List LadderRec := []
  overflow   : Bool := false
  stopped    : Bool := false
  sticky     : List (Nat × Nat × Nat) := []
  deriving DecidableEq, Repr

/-- An instar table entry (R186–R189, Table 6-5); `future` holds the references that R188 assigned to
instars the step has yet to make, in order. -/
structure Instar where
  tensor    : Word := 0
  current   : BitVec 16 := 0
  curBuf    : Bool := false
  prevValid : Bool := false
  valid     : Bool := false
  curRefs   : Nat := 0
  prevRefs  : Nat := 0
  future    : List Nat := []
  deriving DecidableEq, Repr

/-- A tensor record of a step program (Table 6-7); `a`–`d` are bytes 16–47 in order. -/
structure TensorRec where
  id      : Word
  kind    : Nat
  mode    : Nat
  instar  : BitVec 16
  elems   : Nat
  a       : DWord
  b       : DWord
  c       : DWord
  d       : DWord
  copies  : DWord
  mask    : DWord
  deriving DecidableEq, Repr

/-- A task descriptor of a step program (Table 6-8). -/
structure TaskDesc where
  kind    : Nat
  rung    : Nat
  overlap : Bool
  final   : Bool
  sect : Nat
  layer   : Nat
  mbsel   : Nat
  keepb   : Nat
  dep0    : Word
  dep1    : Word
  watch   : List Word
  launch  : DWord
  nlaunch : Nat
  xfmt    : Nat
  wfmt    : Nat
  ofmt    : Nat
  tensor  : Nat
  accum   : Nat
  bind    : DWord
  arg     : DWord
  deriving DecidableEq, Repr

/-- A loaded step program (R190, Tables 6-6 to 6-8). -/
structure Program where
  addr     : DWord
  mbCount  : Nat
  inFlight : Nat
  tensors  : List TensorRec
  mbTable  : DWord
  report   : DWord
  keepBase : DWord
  keepHbm  : DWord
  hbmUnits : Nat
  repList  : DWord
  repCount : Nat
  streams  : List (List TaskDesc)
  deriving DecidableEq, Repr

/-- A task stream (R191, Table 6-18): how many runs of its tasks have started, and whether it is frozen. -/
structure Stream where
  pos    : Nat := 0
  frozen : Bool := false
  deriving DecidableEq, Repr

/-- A task that has started: stream, task and micro-batch, the rung it runs at, launches and transfers not yet
completed, whether a D event has repeated or tainted it, whether it is a FOLD that waits (R189, R200), has waited for
its buffer (R203) or has made its instar, whether it has raised FOLD_FLAG, whether it has completed, and the tasks of
its stream that a repeat has still to launch, itself last (R163, R348). `saved` is the working accumulator with its
residue as a backward task found it, `copied` the tasks whose stream copy a promotion has overwritten, `accIds` the
tensor ids drained with ACC = 1 (R163, R164). -/
structure TaskRun where
  q        : Nat
  t        : Nat
  m        : Nat
  rung     : Nat
  open'    : Nat := 0
  repeated : Bool := false
  tainted  : Bool := false
  waiting  : Bool := false
  held     : Bool := false
  applied  : Bool := false
  flagged  : Bool := false
  done     : Bool := false
  steps    : List Nat := []
  saved    : Option (List Byte × List Byte) := none
  copied   : List Nat := []
  accIds   : List Word := []
  deriving DecidableEq, Repr

/-- A kept input's place (R176): keep block, micro-batch, form and address. -/
structure Kept where
  blk  : Nat
  mb   : Nat
  hbm  : Bool
  addr : Nat
  held : Bool
  deriving DecidableEq, Repr

/-- A region's Skipper (R190–R204), with the counters of the step report (Table 6-15). -/
structure Skipper where
  st         : Nat := 0
  ctx        : Nat := 0
  loadReason : Nat := 0
  prog       : Option Program := none
  mbs        : List (Word × Word) := []
  streams    : List Stream := [{}, {}, {}, {}]
  runs       : List TaskRun := []
  kept       : List Kept := []
  keptHbm    : Nat := 0
  keepMax    : Nat := 0
  folds      : Nat := 0
  foldsHeld  : Nat := 0
  foldElems  : Nat := 0
  foldInv    : Bool := false
  foldOvf    : Bool := false
  overlaps   : Nat := 0
  goCmds     : List (Nat × Nat) := []
  deriving DecidableEq, Repr

/-- A fold waiting at the accumulate port (R226–R229): one group of elements of one row of a drain. -/
structure FoldGroup where
  g      : GRef
  gid    : Nat
  ctx    : Nat
  ticket : Nat
  bf16   : Bool
  addr   : Nat
  resid  : Option Nat
  accum  : Option Nat
  vals   : List Word
  deriving DecidableEq, Repr

/-- A Molt forwarding entry (R275): a range of a local window moved to a node, window and offset. -/
structure FwdEntry where
  window : BitVec 8
  off    : Nat
  len    : Nat
  node   : BitVec 16
  nwin   : BitVec 8
  noff   : Nat
  deriving DecidableEq, Repr

/-- A transfer of a collective engine channel: SILK.PUT or SILK.GET (R88, R272), a SEND (R200), a
collective or a sequence ring (R273, R274, Table 8-9), or a Molt (R275). `queue` holds frames ready to go, `sent`
the bytes of a bulk transfer that have gone; `hops` and `hopSent` count ring hops landed and sent; `part` and
`fin` list the positions of partial and of final data that have arrived, `rcvd` their bytes; `due` lists the
ranges that a Molt brings here (window, offset, length), `moved` those that it takes away; `pack` lists the
elements that a packed tensor carries (R181). -/
structure Xfer where
  op      : Nat
  fmt     : Nat
  srcAcc  : Bool
  rank    : Nat
  members : List (BitVec 16 × BitVec 8)
  src     : DWord
  dst     : DWord
  len     : Nat
  roff    : DWord
  doneVa  : DWord
  hold    : DWord
  holdKiB : Nat
  map     : DWord
  ringVa  : DWord
  consVa  : DWord
  ctx     : Nat
  job     : BitVec 16
  epoch   : BitVec 16
  started : Bool
  queue   : List Frame
  sent    : Nat
  hops    : Nat
  hopSent : Nat
  part    : List Nat
  fin     : List Nat
  rcvd    : Nat
  due     : List (BitVec 8 × Nat × Nat)
  moved   : List FwdEntry
  pack    : Option (List Nat)
  cmd     : Option (Nat × Nat)
  task    : Option (Nat × Nat × Nat)
  group   : Option GRef
  deriving DecidableEq, Repr

/-- A collective engine channel (Table 8-21): its transfer, whether it is frozen, the frames that wait for its
collective or epoch, and its last completed transfer, whose frames may still be forwarded to it (R276). -/
structure CeChan where
  busy   : Bool := false
  frozen : Bool := false
  xfer   : Option Xfer := none
  holdUsed : Nat := 0
  held   : List Frame := []
  last   : Option Xfer := none
  deriving DecidableEq, Repr

/-- A COLL or PERMUTE frame that the home has taken, by which its resends are known (R253, R274). -/
structure CollSeen where
  src    : BitVec 16
  tag    : BitVec 16
  epoch  : BitVec 16
  window : BitVec 8
  offset : BitVec 40
  deriving DecidableEq, Repr

/-- A completion cache entry (R253). -/
structure Done where
  src  : BitVec 16
  tag  : BitVec 16
  resp : Frame
  deriving DecidableEq, Repr

/-- The sharers of a 4 KiB region at the home (R265), the INVALs outstanding for it, each with its node and
transaction header, and the RESPs held until they are acknowledged (R266). -/
structure Sharers where
  nodes   : List (BitVec 16) := []
  pending : List (BitVec 16 × TxHdr) := []
  held    : List Frame := []
  deriving DecidableEq, Repr

/-- A pending weight refetch (R349): tensor record, the failing line, the tainted task, and the stream copies made from
the tensor since the event, each with its buffer and format. -/
structure Refetch where
  tensor : Nat
  line   : Nat
  task   : Option (Nat × Nat × Nat)
  copies : List (Bool × Nat) := []
  deriving DecidableEq, Repr

/-- A region (R20): Antenna, ladder, Skipper, instar table, accumulate port, Layer Store registers' counts,
routes, collective engine, Molt state, home agent tables, refetches and error unit. `fwd` holds the forwarding entries
of the ranges moved away, `came` those of the ranges moved here (the new window and offset, then the old owner's node,
window and offset), and `opens` the bytes of them whose partial sums are still open (channel, window, offset, length;
R275, R276). -/
structure Region where
  ant       : Antenna := {}
  ladder    : Ladder := {}
  skip      : Skipper := {}
  instars   : SMap Instar := []
  epoch     : BitVec 16 := 0
  accPort   : List FoldGroup := []
  eccCorr   : BitVec 16 := 0
  eccUncorr : BitVec 16 := 0
  routes    : SMap (BitVec 4) := []
  ce        : SMap CeChan := []
  ceSats    : BitVec 16 := 0
  molt      : BitVec 2 := 0
  moltDone  : List (BitVec 16) := []
  moltNodes : List (BitVec 16) := []
  fwd       : List FwdEntry := []
  came      : List FwdEntry := []
  opens     : List (Nat × BitVec 8 × Nat × Nat) := []
  seen      : List CollSeen := []
  lineCache : SMap (List Byte) := []
  sharers   : SMap Sharers := []
  done      : List Done := []
  refetch   : List Refetch := []
  scrubLs   : Nat := 0
  scrubHbm  : Nat := 0
  pins      : List Nat := []
  err       : ErrUnit := {}
  deriving DecidableEq, Repr

/-! ### Silk (chapter 8) -/

/-- A link: fabric port p at p, host association e at 32 + e (R249–R251, R282); 24 is the host port itself, whose
quarantine, violations and paused priorities stand there for all its associations; 64 is the device itself,
whose queue holds the frames it sends to its own node. `txq` holds the frames that wait to be sent, each
with the link it came by (64 for the device's own), oldest first; `turn` is the C or Q lane served last (R259); `fecCorr`
and `fecUncorr` count the FEC codewords of each of the port's lanes (Table 8-1). -/
structure Link where
  up        : Bool := false
  training  : Bool := false
  lost      : Bool := false
  quar      : Bool := false
  peerLock  : Bool := false
  peerNode  : BitVec 16 := 0
  peerMac   : BitVec 48 := 0
  rxNext    : BitVec 16 := 0
  retrySent : Bool := false
  txNext    : BitVec 16 := 0
  replay    : List Frame := []
  credits   : SMap Nat := []
  owed      : SMap Nat := []
  txq       : List (Nat × Frame) := []
  viol      : BitVec 16 := 0
  violLast  : BitVec 8 := 0
  violWin   : Nat := 0
  paused    : Byte := 0
  turn      : Nat := 4
  fecCorr   : SMap Nat := []
  fecUncorr : SMap Nat := []
  deriving DecidableEq, Repr

/-- Who waits for a request that the device sent (R252, R263): a group's loads (register × 64 + thread with
the byte offset of its data), a group's other requests, each with the address of its instruction, a collective engine channel's frame, the
Chrysalis copy, a frame sent on under Table 8-12, or a notify store of the device itself. -/
inductive Waiter where
  | load (g : GRef) (gid : Nat) (pc : DWord) (dst : List (Nat × Nat)) (cache : Bool)
  | group (g : GRef) (gid : Nat) (pc : DWord)
  | ce (r c : Nat)
  | chry (r k : Nat)
  | fwd (r c : Nat)
  | notify
  deriving DecidableEq, Repr

/-- An outstanding request (R252): its frame, its waiter and the resends made. -/
structure Req where
  frame   : Frame
  ctx     : Nat
  waiter  : Waiter
  resends : Nat
  deriving DecidableEq, Repr

/-- A requester of a combined request (R268): where its response goes, and its operand. -/
structure Joined where
  link    : Nat
  src     : BitVec 16
  tag     : BitVec 16
  operand : DWord
  deriving DecidableEq, Repr

/-- A fan-out record of merged atomics, or a fold entry of loads (R268), named by the forwarded frame. -/
structure Combine where
  frame  : Frame
  isLoad : Bool
  closed : Bool
  sent   : Bool
  joined : List Joined
  deriving DecidableEq, Repr

/-- A flowlet key's state (R256): source, destination and lane; its hop; its generation. -/
structure Flowlet where
  src  : BitVec 16
  dst  : BitVec 16
  lane : BitVec 3
  hop  : Nat
  gen  : Nat
  deriving DecidableEq, Repr

/-- A forwarding slice (R22, R256, R268): open combine records, flowlets (most recently used first) and the
frames that wait for a hop, each with the link it came by. -/
structure Slice where
  recs    : List Combine := []
  flows   : List Flowlet := []
  waiting : List (Nat × Frame) := []
  dropped : Nat := 0
  deriving DecidableEq, Repr

/-- A notify store that waits for a free tag (R301, R339): the context that it is sealed for (64: none), its JOB, its
Silk address and its bytes. -/
structure Note where
  ctx   : Nat
  job   : BitVec 16
  addr  : DWord
  bytes : List Byte
  deriving DecidableEq, Repr

/-- The Silk side of the device: links, outstanding requests by tag, the next tag of each region, slices, and
the Molt data that has arrived in the epoch in force (job, window, offset, length). -/
structure Silk where
  perm    : List (BitVec 16 × BitVec 8 × Nat × Nat) := []
  links   : SMap Link := []
  reqs    : SMap Req := []
  nextTag : SMap Nat := []
  slices  : SMap Slice := []
  outbox  : List Note := []
  revoked : List (Nat × Nat) := []
  deriving DecidableEq, Repr

/-! ### Host objects (chapter 9) -/

/-- A context slot (Table 9-17); `noSignal` is set by FREEZE (Table 9-11), `handlers`
counts the queued or resident launches of each handler entry (R303), and `image` names the save image of a
suspended context (R307). -/
structure Ctx where
  st       : BitVec 2 := 0
  phase    : BitVec 3 := 0
  cause    : BitVec 8 := 0
  noSignal : Bool := false
  handlers : List (Nat × Nat) := []
  image    : Option Nat := none
  deriving DecidableEq, Repr

/-- A command that its queue has started (R294): ring index, its 128 bytes, whether its work was begun, and
the status it ends with once that is known. -/
structure Cmd where
  k      : Nat
  ctx    : Nat
  bytes  : List Byte
  begun  : Bool
  result : Option (BitVec 16 × BitVec 8)
  deriving DecidableEq, Repr

/-- A command queue (R290–R294, Table 9-19). -/
structure Queue where
  head    : Word := 0
  tail    : Word := 0
  running : List Cmd := []
  waiting : Bool := false
  stopped : Bool := false
  frozen  : Bool := false
  parked  : Bool := true
  lastSeq : BitVec 16 := 0
  deriving DecidableEq, Repr

/-- A fence (R298, Table 9-19). -/
structure Fence where
  value   : BitVec 48 := 0
  st      : BitVec 3 := 0
  waiters : Nat := 0
  owner   : BitVec 16 := 0
  deriving DecidableEq, Repr

/-- A saved group set (Table 9-13): its block, declaration, groups by cell and slot, barrier counters. -/
structure SavedSet where
  block  : Nat
  gset   : GroupSet
  groups : List (Nat × Nat × Group)
  bars   : List (Nat × Barrier)
  deriving DecidableEq, Repr

/-- A saved cell image (Table 4-13). -/
structure SavedCell where
  cell     : Nat
  accs     : SMap Acc
  tags     : SMap Tag
  itags    : SMap Tag
  rowBuf   : SMap Byte
  scaleBuf : SMap Byte
  deriving DecidableEq, Repr

/-- A saved Skipper (R197). -/
structure SavedSkip where
  region  : Nat
  skip    : Skipper
  instars : SMap Instar
  epoch   : BitVec 16
  ladder  : Ladder
  deriving DecidableEq, Repr

/-- The image that a suspended or evicted context was saved to (R307, R308): where it was written and its bytes,
and the device's own record of what those bytes stand for, because the layout of some sections is private. -/
structure Image where
  id      : Nat
  addr    : Nat
  content : List Byte
  cid     : BitVec 16
  cocoon  : Option Nat
  valid   : Bool
  evicted : Bool
  sets    : List SavedSet
  cells   : List SavedCell
  skips   : List SavedSkip
  chans   : List (Nat × Nat × Channel)
  ces     : List (Nat × Nat × CeChan)
  ants    : List (Nat × Nat × AntEntry)
  slotRegs : List Word
  pendStep : Option Word
  ht       : Nat := 0
  deriving DecidableEq, Repr

/-- The host objects of Table 9-1, the handler table address in force of each context (Table 9-17: the write
of HT_LO makes both words apply), and the queue unit's round-robin pointer of each priority (R294). -/
structure HostObj where
  ht        : SMap Nat := []
  ctxs      : SMap Ctx := []
  queues    : SMap Queue := []
  fences    : SMap Fence := []
  images    : List Image := []
  ctxBusy   : Option (Nat × Nat) := none
  ctxRej    : Bool := false
  fenceRej  : Bool := false
  lastQueue : SMap Nat := []
  deriving DecidableEq, Repr

/-! ### Security (chapter 10) -/

/-- A leaf that MAP or UNSEAL installed (R316): virtual page, physical address and permissions. -/
structure SecLeaf where
  vpage : Nat
  pa    : Nat
  r     : Bool
  w     : Bool
  x     : Bool
  nc    : Bool
  deriving DecidableEq, Repr

/-- A cocoon slot (R311–R315, Tables 10-11 and 10-12). `plain` lists the HBM3E sectors (address / 32) that
were written through the cocoon key since CREATE: `State.mem` holds their plaintext; it holds every other
byte as stored below the XTS engine (R314, R320). Sectors of Layer Store and block memory written since CREATE
are listed too: the rest of cocoon memory has undefined contents. -/
structure Cocoon where
  st         : BitVec 2 := 0
  regions    : Byte := 0
  unscrubbed : Byte := 0
  key        : BitVec 512 := 0
  signer     : Option (BitVec 256) := none
  bundle     : BitVec 256 := 0
  unseals    : Nat := 0
  upper      : List SecLeaf := []
  plain      : List Nat := []
  step       : Nat := 0
  deriving DecidableEq, Repr

/-- A key slot (R321, R322): its job key, the frame counter of this device, and the highest counter
authenticated from each source. -/
structure KeySlot where
  valid   : Bool := false
  cocoon  : Nat := 0
  job     : BitVec 16 := 0
  key     : BitVec 256 := 0
  fail    : Word := 0
  counter : DWord := 0
  highest : SMap DWord := []
  deriving DecidableEq, Repr

/-- A bundle section being opened (Table 10-8). -/
structure Sect where
  kind   : Nat
  pa     : Nat
  vpage  : Nat
  len    : Nat
  perm   : BitVec 4
  deriving DecidableEq, Repr

/-- An UNSEAL whose sections are being decrypted (R324): what step 8 will install. -/
structure Unsealing where
  cocoon : Nat
  sects  : List Sect
  fails  : Option Nat
  signer : BitVec 256
  bundle : BitVec 256
  job    : BitVec 16
  jobKey : BitVec 256
  slot   : Nat
  deriving DecidableEq, Repr

/-- The security engine (Table 10-12). `unmapping` is the context and page range of an UNMAP that waits for its
invalidation (R316). -/
structure Sec where
  busy     : Bool := false
  result   : Byte := 0
  detail   : Byte := 0
  cocoons  : SMap Cocoon := []
  bound    : SMap (Option Nat) := []
  lower    : List (Nat × SecLeaf) := []
  keys     : SMap KeySlot := []
  masked   : BitVec 16 := 0
  cipher   : BitVec 16 := 0
  unsealing : Option Unsealing := none
  unmapping : Option (Nat × Nat × Nat) := none
  draws    : Nat := 0
  deriving DecidableEq, Repr

/-! ### Chip, clocks, power, boot and sideband (chapters 1, 11, 12) -/

/-- A shard of the Chrysalis in hand (R357, Table 11-9): region and tensor record, tensor id, the captured
instar with the addresses of its master and residue, where the shard lies in the slot, the bytes sent so far,
and its hash once all have gone. -/
structure Shard where
  region : Nat
  index  : Nat
  tensor : Word
  instar : BitVec 16
  buf    : Bool
  master : DWord
  resid  : DWord
  elems  : Nat
  offset : Nat
  sent   : Nat
  hash   : Option (BitVec 256)
  deriving DecidableEq, Repr

/-- The Chrysalis unit (R357–R364, Table 11-13): the Chrysalis in hand with the state that it captured, the bytes
of its manifest that have gone, own events of past steps (newest first) and of this one, the step of the last log
record, and RESTORE's result. -/
structure Chry where
  busy     : Bool := false
  failed   : Bool := false
  slot     : Bool := false
  nextSlot : Bool := false
  k        : Nat := 4
  own      : List Nat := []
  ownCur   : Nat := 0
  steps    : Nat := 0
  last     : Word := 0
  ctx      : Nat := 0
  step     : Word := 0
  seed     : DWord := 0
  epochs   : List (BitVec 16) := []
  regions  : Nat := 0
  logPos   : Word := 0
  shards   : List Shard := []
  manSent  : Nat := 0
  logStep  : Word := 0
  cmdBusy  : Bool := false
  result   : Byte := 0
  index    : BitVec 16 := 0
  deriving DecidableEq, Repr

/-- Chip-level error handling (R338–R344) beside its error unit. -/
structure ChipErr where
  halted : Bool := false
  locked : Bool := false
  lost   : BitVec 16 := 0
  cseq   : Word := 0
  log    : SMap (Option Event) := []
  haltCode : BitVec 16 := 0
  deriving DecidableEq, Repr

/-- A translation that some TLB of the device may hold (R237): context, GEN, first 64 KiB page and number of
pages of its leaf, physical address and permissions. Which TLB holds it, and until when, is not the manual's. -/
structure TlbEntry where
  ctx   : Nat
  gen   : Nat
  vpage : Nat
  pages : Nat
  pa    : Nat
  r     : Bool
  w     : Bool
  x     : Bool
  nc    : Bool
  deriving DecidableEq, Repr

/-- Region service state and cell counts (R30), rejected writes (Table 12-2), held translations and their
invalidation (R237, R238). -/
structure Chip where
  inService : Byte := 0
  retired   : Byte := 0
  excluded  : Byte := 0
  sharedOk  : Bool := false
  released  : Byte := 0
  trained   : Byte := 0
  avail     : SMap Nat := []
  fencedCnt : SMap Nat := []
  rejCount  : BitVec 16 := 0
  rejBit    : Byte := 0
  rejAddr   : Word := 0
  tlb       : List TlbEntry := []
  tlbBusy   : Bool := false
  tlbIgn    : Bool := false
  tlbCtx    : Nat := 0
  tlbAll    : Bool := false
  tlbFrom   : Nat := 0
  tlbPages  : Nat := 0
  err       : ErrUnit := {}
  errs      : ChipErr := {}
  chry      : Chry := {}
  deriving DecidableEq, Repr

/-- A record of the step history (Table 12-6). -/
structure StepRec where
  seq   : BitVec 16 := 0
  root  : BitVec 10 := 0
  cause : BitVec 3 := 0
  deriving DecidableEq, Repr

/-- Monarch's power, clock and thermal state (R377–R382). The `…Run` counters count consecutive samples or
ticks of the conditions that Table 12-4, R380 and R381 hold for a time. -/
structure Mon where
  root     : Nat := 840
  pending  : Bool := false
  next     : Nat := 840
  cause    : BitVec 3 := 0
  powerCap : Nat := 840
  thermCap : Nat := 840
  inputCap : Nat := 840
  trip     : Bool := false
  vin      : Nat := 0
  iin      : Nat := 0
  watts    : Nat := 0
  temps    : SMap Nat := []
  stepSeq  : BitVec 16 := 0
  hist     : SMap StepRec := []
  lowRun   : Nat := 0
  highRun  : Nat := 0
  okRun    : Nat := 0
  coolRun  : Nat := 0
  underRun : Nat := 0
  deriving DecidableEq, Repr

/-- Reset inputs and boot (R383–R389, Table 12-9): `held` and `inputBad` tell whether R376 and R377 hold the
package in reset; `image` gathers the firmware image that host boot is taking. -/
structure Boot where
  pwrGood  : Bool := true
  rstN     : Bool := true
  held     : Bool := false
  inputBad : Bool := false
  inReset  : Bool := false
  straps   : Straps := { bootMode := 0, hostPhy := 0 }
  phase    : BitVec 4 := 1
  source   : BitVec 2 := 0
  fail     : Byte := 0
  failKind : Byte := 0
  hostBoot : Bool := false
  image    : SMap (Option Byte) := []
  images   : Nat := 0
  digests  : SMap (BitVec 256) := []
  deriving DecidableEq, Repr

/-- The I3C target and the JTAG port (R391–R393, R402), and the debug halts since reset (Table 10-9). -/
structure Side where
  i3cDyn   : Option (BitVec 7) := none
  i3cIbi   : Bool := false
  i3cResp  : List Byte := []
  tapReset : Bool := true
  jtagIr   : Nat := 1
  pads     : List Bool := []
  bsrOut   : Bool := false
  highz    : Bool := false
  debugDr  : List Byte := []
  halts    : Word := 0
  deriving DecidableEq, Repr

/-- The identity and configuration fuses (R390, Table 1-11); they survive every reset (R26). -/
structure Fuses where
  stepping  : Byte
  bin       : BitVec 4
  lots      : SMap (BitVec 40)
  wafers    : SMap (BitVec 5)
  xs        : SMap Byte
  ys        : SMap Byte
  dieStep   : Byte
  serial    : DWord
  regionDis : Byte
  macBase   : BitVec 48
  fwKey     : BitVec 256
  seed      : BitVec 256
  deriving DecidableEq, Repr

/-- What a link control frame carries behind its link header (R248). -/
inductive CtlOp where
  | hello (node : BitVec 16) (port : Nat) (credits : List Nat)
  | resume (lseq : BitVec 16)
  | retry (lseq : BitVec 16)
  | credit
  | locked (node : BitVec 16)
  deriving DecidableEq, Repr

/-- Something that leaves the device: a transaction frame, one that is ended with a corrupted FCS (R258), a link control
frame, an I3C in-band interrupt or answer, a JTAG data register, a host-boot answer, a command to the boot flash (R387). -/
inductive Out where
  | frame (link : Nat) (f : Frame)
  | cut (link : Nat) (f : Frame)
  | control (link : Nat) (h : CtlHdr) (op : CtlOp)
  | ibi (mdb : Byte)
  | i3c (bytes : List Byte)
  | jtag (width : Nat) (value : Nat)
  | datagram (i : IpUdp) (bytes : List Byte)
  | qspi (cmd : Byte) (addr len : Nat)
  deriving DecidableEq, Repr

/-- The whole device, and the queue of waiting commands. `mem` holds HBM3E, the Layer Store and the block
memories by physical address (Table 7-2); an unlisted byte reads zero (R411). `ecc` lists the 64-bit words
(by physical address) that hold an uncorrectable error (R231), `scratchEcc` those of cell scratch (device
cell × 8,192 + word). `csr` holds the RW register words that differ from their reset value, keyed by offset
from 0x0800_0000_0000, and `csrPend` the latched values of class B fields that wait for their boundary
(R371). `freeCtr` is the model's own: the number of open values used so far. -/
structure State where
  mem     : List Host.Cell
  ecc     : List Nat
  scratchEcc : List Nat
  csr     : SMap Word
  csrPend : SMap Word
  cells   : SMap Cell
  blocks  : SMap Block
  regions : SMap Region
  silk    : Silk
  host    : HostObj
  sec     : Sec
  chip    : Chip
  mon     : Mon
  boot    : Boot
  side    : Side
  fuses   : Fuses
  nextId  : Nat
  freeCtr : Nat
  out     : List Out
  pending : List Instr
  deriving DecidableEq, Repr

/-- The fuses of the modelled part: GXA-1024-S at stepping A1 (R2, Table 1-11; log entry 4). -/
def Fuses.default : Fuses where
  stepping  := 0x01
  bin       := 0x0
  lots      := []
  wafers    := []
  xs        := []
  ys        := []
  dieStep   := 0x01
  serial    := 0
  regionDis := 0
  macBase   := 0
  fwKey     := 0
  seed      := 0

/-- Reset with given fuses (R26: they alone survive): phase 1 of the reset sequence begins (R384,
Table 12-9), every register at its Reset entry, memory empty, no command waiting. -/
def State.resetWith (f : Fuses) : State where
  mem     := []
  ecc     := []
  scratchEcc := []
  csr     := []
  csrPend := []
  cells   := []
  blocks  := []
  regions := []
  silk    := {}
  host    := {}
  sec     := {}
  chip    := {}
  mon     :=
    let n := if f.bin = 1 then 920 else 840
    { root := n, next := n, powerCap := n, thermCap := n, inputCap := n }
  boot    := {}
  side    := {}
  fuses   := f
  nextId  := 0
  freeCtr := 0
  out     := []
  pending := []

/-- The machine right after reset (R17, R26, R383). -/
def State.reset : State := State.resetWith Fuses.default

end Sys2Proof.Machine
end

