-- ==== Sys2Proof/Config.lean ====
section
/-! DEFINITION. What the spec leaves open, as constants without a body: nothing in Lean can see their values,
so a statement holds whatever they are. Each is named in the assumption log. -/

namespace Sys2Proof.Config

/-- The supply of open values: value number `n` of a run (log entry 5). Each use advances State.freeCtr. -/
opaque freeValue : Nat → DWord

/-- Whether a cached line that was filled earlier is still held when it is looked up: capacity and
replacement of the caches are not the manual's (R217, R221, R101; log entry 6). -/
opaque stillHeld : Nat → Bool

/-- The Reference Vector bits of a function that the manual gives within 1 ulp only: the function's code
and its operand (R75, R131, R173; log entry 7). -/
opaque ulpBits : Nat → Word → Word

/-- ACLK cycles that went by before an observation: the manual gives no rule for how long work takes
in terms of commands (R25; log entry 8). -/
opaque elapsed : Nat → Nat

/-- Columns of a weight tensor, by its tensor id: the step program gives the number of its elements only, and
the mask modes of Table 6-3 count rows and tiles (R180; log entry 32). -/
opaque weightColumns : Word → Nat

/-- SHA3-256 of a byte string (FIPS 202 by name only; log entry 9). -/
opaque sha3 : List Byte → BitVec 256

/-- ML-DSA-44 verification: key, signed digest, signature (R324, R386; log entry 9). -/
opaque mlDsaVerify : List Byte → BitVec 256 → List Byte → Bool

/-- ML-DSA-44 signature under the identity signing key derived from the identity seed (R326; log entry 9). -/
opaque mlDsaSign : BitVec 256 → BitVec 256 → List Byte

/-- The identity ML-DSA-44 public key (1,312 bytes) and ML-KEM-768 encapsulation key (1,184 bytes) made from
the identity seed (Table 10-4; log entry 9). -/
opaque identitySignKey : BitVec 256 → List Byte
opaque identityKemKey : BitVec 256 → List Byte

/-- ML-KEM-768 decapsulation under the seed's key: none when it fails (R324; log entry 9). -/
opaque mlKemDecap : BitVec 256 → List Byte → Option (List Byte)

/-- AES-256 key unwrap (SP 800-38F KW): key-encryption key and wrapped key (R324; log entry 9). -/
opaque aesUnwrap : BitVec 256 → List Byte → Option (BitVec 256)

/-- The bytes that AES-256-GCM decryption gives: key, 96-bit nonce, ciphertext (R321, R324; log entry 9). -/
opaque gcmStream : BitVec 256 → BitVec 96 → List Byte → List Byte

/-- Whether the tag holds: key, nonce, additional data, ciphertext, tag (R321, R324; log entry 9). -/
opaque gcmTagOk : BitVec 256 → BitVec 96 → List Byte → List Byte → List Byte → Bool

/-- AES-256-GCM opening: the plaintext, where the tag holds. -/
def gcmOpen (key : BitVec 256) (nonce : BitVec 96) (aad ct tag : List Byte) : Option (List Byte) :=
  if gcmTagOk key nonce aad ct tag then some (gcmStream key nonce ct) else none

/-- AES-256-GCM sealing: ciphertext and 12-byte tag (R321; log entry 9). -/
opaque gcmSeal : BitVec 256 → BitVec 96 → List Byte → List Byte → List Byte × List Byte

/-- AES-256-XTS over one 32-byte sector: key, sector number PA[47:5], plaintext (R320; log entry 9). -/
opaque xtsSeal : BitVec 512 → Nat → List Byte → List Byte

/-- AES-256-XTS decryption of one 32-byte sector (R314, R320; log entry 9). -/
opaque xtsOpen : BitVec 512 → Nat → List Byte → List Byte

/-- Random keys drawn by the security engine: draw number `n` (R314, R327; log entry 10). -/
opaque randomKey : Nat → BitVec 512

/-- Values of the I3C target that the manual names and does not give: BCR, DCR, maximum write and read
length, GETSTATUS word, PID bits [47:32] with the manufacturer id (R391; log entry 11). -/
opaque i3cBcr : Byte
opaque i3cDcr : Byte
opaque i3cMwl : BitVec 16
opaque i3cMrl : BitVec 24
opaque i3cStatus : Nat → BitVec 16
opaque mipiId : BitVec 16

/-- Gorxel's JEDEC manufacturer code in IDCODE[11:1] (R393; log entry 11). -/
opaque jedecCode : BitVec 11

/-- The measured digest of the boot ROM (Tables 10-6, 10-9), which the manual names and does not give (log entry 11). -/
opaque romDigest : BitVec 256

end Sys2Proof.Config
end

