-- ==== Sys2Proof/Machine/Bits.lean ====
section
/-! DEFINITION. Bit fields, sign extension and byte order (R6, R8, R9). -/

namespace Sys2Proof.Machine

/-- Bits [lo + len - 1 : lo] of `w`, as a number. -/
def fld {n : Nat} (w : BitVec n) (lo len : Nat) : Nat := w.toNat / 2 ^ lo % 2 ^ len

/-- Bit `i` of `w`. -/
def bit {n : Nat} (w : BitVec n) (i : Nat) : Bool := w.getLsbD i

/-- Bits [lo + len - 1 : lo] of a number. -/
def nfld (w lo len : Nat) : Nat := w / 2 ^ lo % 2 ^ len

/-- `w` with bits [lo + len - 1 : lo] replaced by `v`. -/
def setFld {n : Nat} (w : BitVec n) (lo len v : Nat) : BitVec n :=
  BitVec.ofNat n (w.toNat - nfld w.toNat lo len * 2 ^ lo + v % 2 ^ len * 2 ^ lo)

/-- The two's complement value of the low `n` bits of `v`. -/
def sext (n v : Nat) : Int := if v % 2 ^ n < 2 ^ (n - 1) then Int.ofNat (v % 2 ^ n) else Int.ofNat (v % 2 ^ n) - Int.ofNat (2 ^ n)

/-- An integer as an `n`-bit word, modulo 2^n. -/
def wrap (n : Nat) (i : Int) : BitVec n := BitVec.ofInt n i

/-- A Bool as a number. -/
def b2n (b : Bool) : Nat := if b then 1 else 0

/-- The `n` bytes of a number, least significant first (R8). -/
def leBytes : Nat → Nat → List Byte
  | 0, _ => []
  | n + 1, v => BitVec.ofNat 8 v :: leBytes n (v / 256)

/-- A number in `n` bytes, most significant first (R9). -/
def beBytes (n v : Nat) : List Byte := (leBytes n v).reverse

/-- The number that bytes spell, least significant first (R8). -/
def leNat : List Byte → Nat
  | [] => 0
  | b :: r => b.toNat + 256 * leNat r

/-- `len` bytes from position `at'`, missing bytes reading zero. -/
def slice (l : List Byte) (at' len : Nat) : List Byte :=
  let t := (l.drop at').take len
  t ++ List.replicate (len - t.length) 0

/-- A little-endian field of `len` bytes at position `at'` (R8). -/
def leAt (l : List Byte) (at' len : Nat) : Nat := leNat (slice l at' len)

/-- Bytes of a number padded with zeros to a length. -/
def padTo (n : Nat) (l : List Byte) : List Byte := (l ++ List.replicate (n - l.length) 0).take n

/-- All bytes are zero. -/
def allZero (l : List Byte) : Bool := l.all (fun b => decide (b = 0))

/-- Number of 1 bits among the low `n` bits. -/
def popN : Nat → Nat → Nat
  | 0, _ => 0
  | n + 1, v => v % 2 + popN n (v / 2)

/-- Leading zeros of an `n`-bit number. -/
def clzN : Nat → Nat → Nat
  | 0, _ => 0
  | n + 1, v => if v / 2 ^ n % 2 = 1 then 0 else 1 + clzN n v

/-- The low `n` bits in reversed order. -/
def revN : Nat → Nat → Nat
  | 0, _ => 0
  | n + 1, v => v % 2 * 2 ^ n + revN n (v / 2)

/-- The numbers `0 … n - 1` whose bit is set in a mask. -/
def maskBits (n : Nat) (m : Nat) : List Nat := (List.range n).filter (fun i => decide (m / 2 ^ i % 2 = 1))

/-- Saturating increment of an `n`-bit count. -/
def satInc {n : Nat} (v : BitVec n) (d : Nat := 1) : BitVec n :=
  BitVec.ofNat n (min (v.toNat + d) (2 ^ n - 1))

end Sys2Proof.Machine
end

