-- ==== Sys2Proof/Machine/Flags.lean ====
section
/-! DEFINITION. Number formats, exact values, the one rounding of a value to a format and the flags it
raises (R73, R74, R138–R143, R150). A flag set is a number: bit 0 INV, 1 DZ, 2 OVF, 3 UNF, 4 INX. -/

namespace Sys2Proof.Machine

/-- The flag bits of R74 and Table 3-20. -/
def fINV : Nat := 1
def fDZ : Nat := 2
def fOVF : Nat := 4
def fUNF : Nat := 8
def fINX : Nat := 16

/-- Union of two flag sets. -/
def fOr (a b : Nat) : Nat := a ||| b

/-- A binary format of Table 5-1: exponent and fraction widths, bias, whether it has infinities, and its
NaN encodings (0 none, 1 all-ones exponent with a non-zero fraction, 2 only S.1111.111). -/
structure Fmt where
  ew   : Nat
  fw   : Nat
  bias : Nat
  inf  : Bool
  nans : Nat
  deriving DecidableEq, Repr

def fp32 : Fmt := ⟨8, 23, 127, true, 1⟩
def fp16 : Fmt := ⟨5, 10, 15, true, 1⟩
def bf16 : Fmt := ⟨8, 7, 127, true, 1⟩
def e4m3 : Fmt := ⟨4, 3, 7, false, 2⟩
def e5m2 : Fmt := ⟨5, 2, 15, true, 1⟩
def e3m2 : Fmt := ⟨3, 2, 3, false, 0⟩
def e2m3 : Fmt := ⟨2, 3, 1, false, 0⟩
def e2m1 : Fmt := ⟨2, 1, 1, false, 0⟩

/-- The float format of a code of Table 3-11 or Table 4-3. -/
def fmtOf (code : Nat) : Option Fmt :=
  match code with
  | 0x0 => some fp32
  | 0x1 => some fp16
  | 0x2 => some bf16
  | 0x3 => some e4m3
  | 0x4 => some e5m2
  | 0x9 => some e3m2
  | 0xA => some e2m3
  | 0xB => some e2m1
  | 0xC => some e4m3
  | 0xD => some e5m2
  | _ => none

/-- Width of a format in bits. -/
def Fmt.width (f : Fmt) : Nat := 1 + f.ew + f.fw

/-- A decoded value: NaN (signalling or not), infinity, or ± m × 2^e. -/
inductive Val where
  | nan (sig : Bool)
  | inf (neg : Bool)
  | fin (neg : Bool) (m : Nat) (e : Int)
  deriving DecidableEq, Repr

/-- The exponent of one unit in the last place of the smallest numbers. -/
def Fmt.qmin (f : Fmt) : Int := 1 - Int.ofNat f.bias - Int.ofNat f.fw

/-- Decodes the low bits of `b` in format `f` (Table 5-1, R140). -/
def decodeVal (f : Fmt) (b : Nat) : Val :=
  let fr := b % 2 ^ f.fw
  let ex := b / 2 ^ f.fw % 2 ^ f.ew
  let neg := decide (b / 2 ^ (f.fw + f.ew) % 2 = 1)
  let top := 2 ^ f.ew - 1
  if ex = top ∧ f.nans = 1 ∧ fr ≠ 0 then .nan (decide (fr < 2 ^ (f.fw - 1)))
  else if ex = top ∧ f.inf = true ∧ fr = 0 then .inf neg
  else if ex = top ∧ f.nans = 2 ∧ fr = 2 ^ f.fw - 1 then .nan false
  else if ex = 0 then .fin neg fr f.qmin
  else .fin neg (2 ^ f.fw + fr) (f.qmin + Int.ofNat ex - 1)

/-- The canonical NaN of a format (R140). -/
def canonNan (f : Fmt) : Nat :=
  if f.nans = 2 then 2 ^ (f.ew + f.fw) - 1
  else (2 ^ f.ew - 1) * 2 ^ f.fw + 2 ^ (f.fw - 1)

/-- Sign bit of a format. -/
def signBit (f : Fmt) (neg : Bool) : Nat := if neg then 2 ^ (f.ew + f.fw) else 0

/-- The infinity of a format. -/
def infBits (f : Fmt) (neg : Bool) : Nat := signBit f neg + (2 ^ f.ew - 1) * 2 ^ f.fw

/-- The largest finite encoding of a format, without sign. -/
def maxBits (f : Fmt) : Nat :=
  if f.nans = 1 then (2 ^ f.ew - 1) * 2 ^ f.fw - 1
  else if f.nans = 2 then 2 ^ (f.ew + f.fw) - 2
  else 2 ^ (f.ew + f.fw) - 1

/-- Rounding modes of Tables 3-6 and 3-10; a stochastic mode brings its random word (R150). -/
inductive Rm where
  | near
  | zero
  | down
  | up
  | stoch (w : Nat)
  deriving DecidableEq, Repr

/-- The rounding mode of a two-bit RM field (Table 3-6). -/
def rmOf (c : Nat) : Rm :=
  match c with
  | 0 => .near
  | 1 => .zero
  | 2 => .down
  | _ => .up

/-- Whether a magnitude with remainder `r` of `2^s` above `lo` rounds away from zero. -/
def roundsUp (rm : Rm) (neg : Bool) (lo r s : Nat) : Bool :=
  match rm with
  | .near => decide (2 ^ s < 2 * r) || (decide (2 * r = 2 ^ s) && decide (lo % 2 = 1))
  | .zero => false
  | .down => neg && decide (r ≠ 0)
  | .up => !neg && decide (r ≠ 0)
  | .stoch w => decide (w * 2 ^ s < r * 2 ^ 32)

/-- Rounds m × 2^e to a multiple of 2^q: the multiple, and whether it was inexact. -/
def roundAt (rm : Rm) (neg : Bool) (m : Nat) (e q : Int) : Nat × Bool :=
  if q ≤ e then (m * 2 ^ (e - q).toNat, false)
  else
    let s := (q - e).toNat
    let lo := m / 2 ^ s
    let r := m % 2 ^ s
    (if roundsUp rm neg lo r s then lo + 1 else lo, decide (r ≠ 0))

/-- The exponent of the leading bit of m × 2^e. -/
def topExp (m : Nat) (e : Int) : Int := Int.ofNat (Nat.log2 m) + e

/-- The exponent of one unit in the last place of format `f` at magnitude m × 2^e, unbounded above. -/
def ulpExp (f : Fmt) (m : Nat) (e : Int) : Int := max (topExp m e - Int.ofNat f.fw) f.qmin

/-- a × 2^x < b × 2^y. -/
def dyLt (a : Nat) (x : Int) (b : Nat) (y : Int) : Bool :=
  let z := min x y
  decide (a * 2 ^ (x - z).toNat < b * 2 ^ (y - z).toNat)

/-- The encoding of m × 2^q, a finite value of the format with q its unit in the last place. -/
def encodeMag (f : Fmt) (m : Nat) (q : Int) : Nat :=
  if m = 0 then 0
  else if m < 2 ^ f.fw then m
  else
    let m' := if m = 2 ^ (f.fw + 1) then 2 ^ f.fw else m
    let q' := if m = 2 ^ (f.fw + 1) then q + 1 else q
    (q' - f.qmin + 1).toNat * 2 ^ f.fw + (m' - 2 ^ f.fw)

/-- The value of the format's largest finite encoding, as mantissa and exponent. -/
def maxVal (f : Fmt) : Nat × Int :=
  match decodeVal f (maxBits f) with
  | .fin _ m e => (m, e)
  | _ => (0, 0)

/-- A rounded result: its encoding, the flags it raised, and whether it was clamped to the largest
magnitude of its format (R157). -/
structure Res where
  bits : Nat
  fl   : Nat
  clamp : Bool := false
  deriving DecidableEq, Repr

/-- What an overflow gives (Table 5-3; for arithmetic as IEEE 754 for the mode, SAT = 0). -/
def overflowRes (f : Fmt) (rm : Rm) (sat neg : Bool) : Res :=
  if sat then ⟨signBit f neg + maxBits f, fOVF + fINX, true⟩
  else if f.nans = 2 then ⟨canonNan f, fINV + fOVF + fINX, false⟩
  else
    let toInf := match rm with
      | .near => true
      | .stoch _ => true
      | .zero => false
      | .down => neg
      | .up => !neg
    if toInf && f.inf then ⟨infBits f neg, fOVF + fINX, false⟩ else ⟨signBit f neg + maxBits f, fOVF + fINX, true⟩

/-- Rounds the exact value ± m × 2^e once to format `f` (R141, R150), with the flags of R141. -/
def roundTo (f : Fmt) (rm : Rm) (sat neg : Bool) (m : Nat) (e : Int) : Res :=
  if m = 0 then ⟨signBit f neg, 0, false⟩
  else
    let q := ulpExp f m e
    let r := roundAt rm neg m e q
    let mx := maxVal f
    if dyLt mx.1 mx.2 r.1 q then overflowRes f rm sat neg
    else
      let q' := topExp m e - Int.ofNat f.fw
      let t := roundAt rm neg m e q'
      let tiny := dyLt t.1 q' 1 (1 - Int.ofNat f.bias)
      let fl := if r.2 then (if tiny then fINX + fUNF else fINX) else 0
      ⟨signBit f neg + encodeMag f r.1 q, fl, false⟩

/-- Exact sum of two finite values: sign and magnitude; a zero sum reports sign false. -/
def addDy (n1 : Bool) (m1 : Nat) (e1 : Int) (n2 : Bool) (m2 : Nat) (e2 : Int) : Bool × Nat × Int :=
  let e := min e1 e2
  let a := m1 * 2 ^ (e1 - e).toNat
  let b := m2 * 2 ^ (e2 - e).toNat
  if n1 = n2 then (n1, a + b, e)
  else if b < a then (n1, a - b, e)
  else if a < b then (n2, b - a, e)
  else (false, 0, e)

/-- The sign of an exact zero sum (R73): kept when both are zeros of one sign, else minus only under round
toward −∞. -/
def zeroSign (rm : Rm) (n1 n2 : Bool) (z1 z2 : Bool) : Bool :=
  if z1 && z2 && (n1 == n2) then n1 else (match rm with | .down => true | _ => false)

/-- Flags of signalling NaN operands. -/
def sigFl : Val → Nat
  | .nan true => fINV
  | _ => 0

/-- Sum of two values in a format with one rounding (R73). -/
def addVal (f : Fmt) (rm : Rm) (a b : Val) : Res :=
  match a, b with
  | .nan _, _ => ⟨canonNan f, fOr (sigFl a) (sigFl b), false⟩
  | _, .nan _ => ⟨canonNan f, fOr (sigFl a) (sigFl b), false⟩
  | .inf n1, .inf n2 => if n1 = n2 then ⟨infBits f n1, 0, false⟩ else ⟨canonNan f, fINV, false⟩
  | .inf n1, .fin _ _ _ => ⟨infBits f n1, 0, false⟩
  | .fin _ _ _, .inf n2 => ⟨infBits f n2, 0, false⟩
  | .fin n1 m1 e1, .fin n2 m2 e2 =>
    let s := addDy n1 m1 e1 n2 m2 e2
    if s.2.1 = 0 then ⟨signBit f (zeroSign rm n1 n2 (m1 = 0) (m2 = 0)), 0, false⟩
    else roundTo f rm false s.1 s.2.1 s.2.2

/-- The exact product of two values; NaN with INV for zero times infinity (R73). -/
def mulExact (a b : Val) : Val × Nat :=
  match a, b with
  | .nan _, _ => (.nan false, fOr (sigFl a) (sigFl b))
  | _, .nan _ => (.nan false, fOr (sigFl a) (sigFl b))
  | .inf n1, .inf n2 => (.inf (n1 != n2), 0)
  | .inf n1, .fin n2 m _ => if m = 0 then (.nan false, fINV) else (.inf (n1 != n2), 0)
  | .fin n1 m _, .inf n2 => if m = 0 then (.nan false, fINV) else (.inf (n1 != n2), 0)
  | .fin n1 m1 e1, .fin n2 m2 e2 => (.fin (n1 != n2) (m1 * m2) (e1 + e2), 0)

/-- Rounds an exact value to a format (the value of a product, say). -/
def roundVal (f : Fmt) (rm : Rm) (sat : Bool) (v : Val) : Res :=
  match v with
  | .nan _ => ⟨canonNan f, 0, false⟩
  | .inf n => ⟨infBits f n, 0, false⟩
  | .fin n m e => roundTo f rm sat n m e

/-- a × b, rounded once. -/
def mulVal (f : Fmt) (rm : Rm) (a b : Val) : Res :=
  let p := mulExact a b
  let r := roundVal f rm false p.1
  { r with fl := fOr p.2 r.fl }

/-- a × b + c, rounded once (R73): zero times infinity is invalid whatever the addend is. -/
def fmaVal (f : Fmt) (rm : Rm) (a b c : Val) : Res :=
  let p := mulExact a b
  let r := addVal f rm p.1 c
  { r with fl := fOr (fOr p.2 (sigFl c)) r.fl }

/-- Whether a value is NaN. -/
def isNan : Val → Bool
  | .nan _ => true
  | _ => false

/-- a < b among numbers (−0 and +0 equal); false when either is NaN. -/
def ltVal (a b : Val) : Bool :=
  match a, b with
  | .nan _, _ => false
  | _, .nan _ => false
  | .inf n1, .inf n2 => n1 && !n2
  | .inf n1, .fin _ _ _ => n1
  | .fin _ _ _, .inf n2 => !n2
  | .fin n1 m1 e1, .fin n2 m2 e2 =>
    if m1 = 0 ∧ m2 = 0 then false
    else if n1 && !n2 then true
    else if !n1 && n2 then false
    else if n1 then dyLt m2 e2 m1 e1 else dyLt m1 e1 m2 e2

/-- Numeric equality; false when either is NaN. -/
def eqVal (a b : Val) : Bool := !isNan a && !isNan b && !ltVal a b && !ltVal b a

/-- Sign of a value. -/
def negVal : Val → Bool
  | .nan _ => false
  | .inf n => n
  | .fin n _ _ => n

/-- minimumNumber and maximumNumber (R73) over encodings of one format: −0 orders below +0, a NaN is
ignored beside a number. -/
def minmaxBits (f : Fmt) (isMax : Bool) (a b : Nat) : Res :=
  let va := decodeVal f a
  let vb := decodeVal f b
  let fl := fOr (sigFl va) (sigFl vb)
  if isNan va && isNan vb then ⟨canonNan f, fl, false⟩
  else if isNan va then ⟨b, fl, false⟩
  else if isNan vb then ⟨a, fl, false⟩
  else
    let aFirst := ltVal va vb || (eqVal va vb && negVal va && !negVal vb)
    ⟨if aFirst != isMax then a else b, fl, false⟩

/-- Float compare codes of Table 3-7. -/
def fcmp (code : Nat) (a b : Val) : Bool :=
  let un := isNan a || isNan b
  match code with
  | 0 => eqVal a b
  | 1 => un || !eqVal a b
  | 2 => ltVal a b
  | 3 => ltVal a b || eqVal a b
  | 4 => ltVal b a
  | 5 => ltVal b a || eqVal a b
  | _ => un

/-- Integer square root from bit `i - 1` down. -/
def isqrtFrom (n : Nat) : Nat → Nat → Nat
  | 0, acc => acc
  | i + 1, acc => if (acc + 2 ^ i) * (acc + 2 ^ i) ≤ n then isqrtFrom n i (acc + 2 ^ i) else isqrtFrom n i acc

/-- Integer square root. -/
def isqrt (n : Nat) : Nat := isqrtFrom n (Nat.log2 n / 2 + 1) 0

/-- √(m × 2^e) as a mantissa with a sticky last bit, and its exponent, to at least 40 bits. -/
def sqrtDy (m : Nat) (e : Int) : Nat × Int :=
  let k := 80 + (e % 2).toNat
  let n := m * 2 ^ k
  let r := isqrt n
  (2 * r + (if r * r = n then 0 else 1), (e - Int.ofNat k) / 2 - 1)

/-- Correctly rounded square root (Table 3-9, FSQRT). -/
def sqrtVal (f : Fmt) (rm : Rm) (a : Val) : Res :=
  match a with
  | .nan s => ⟨canonNan f, if s then fINV else 0, false⟩
  | .inf n => if n then ⟨canonNan f, fINV, false⟩ else ⟨infBits f false, 0, false⟩
  | .fin n m e =>
    if m = 0 then ⟨signBit f n, 0, false⟩
    else if n then ⟨canonNan f, fINV, false⟩
    else
      let s := sqrtDy m e
      roundTo f rm false false s.1 s.2

/-- Rounds a finite value to an integer magnitude (R143). -/
def toIntMag (rm : Rm) (neg : Bool) (m : Nat) (e : Int) : Nat × Bool := roundAt rm neg m e 0

/-- Conversion to an integer format (R143): it always clamps; a NaN becomes 0; both set INV. -/
def toInt (lo hi : Int) (width : Nat) (rm : Rm) (v : Val) : Res :=
  let enc (i : Int) : Nat := (BitVec.ofInt width i).toNat
  match v with
  | .nan _ => ⟨0, fINV, false⟩
  | .inf n => ⟨enc (if n then lo else hi), fINV, true⟩
  | .fin n m e =>
    let r := toIntMag rm n m e
    let i : Int := if n then - Int.ofNat r.1 else Int.ofNat r.1
    if i < lo then ⟨enc lo, fINV, true⟩
    else if hi < i then ⟨enc hi, fINV, true⟩
    else ⟨enc i, if r.2 then fINX else 0, false⟩

/-- Conversion of a value to a float format (R141, R142, Table 5-3). `sig` says that the source format has
signalling NaNs (fp32, fp16, bf16). -/
def toFloat (f : Fmt) (rm : Rm) (sat sig : Bool) (v : Val) : Res :=
  match v with
  | .nan s => ⟨canonNan f, if s && sig then fINV else 0, false⟩
  | .inf n =>
    if sat then ⟨signBit f n + maxBits f, fOVF + fINX, true⟩
    else if f.inf then ⟨infBits f n, 0, false⟩
    else ⟨canonNan f, fINV, false⟩
  | .fin n m e => roundTo f rm sat n m e

end Sys2Proof.Machine
end

