-- ==== Sys2Proof/Machine/Ulp.lean ====
section
/-! DEFINITION. The functions that the manual gives within one unit in the last place (R75, R131, R173). The
exact value is enclosed in fixed point with 640 fractional bits; the result is one of the fp32 values within
one unit in the last place of it, chosen by the open value Config.ulpBits (log entry 7). -/

namespace Sys2Proof.Machine

/-- Fractional bits of the fixed point values below. -/
def fxP : Nat := 640

/-- 1.0 in fixed point. -/
def fxOne : Int := Int.ofNat (2 ^ fxP)

/-- π, ln 2 and 1 / √(2π) in fixed point. -/
def fxPi : Int := 0x3243f6a8885a308d313198a2e03707344a4093822299f31d0082efa98ec4e6c89452821e638d01377be5466cf34e90c6cc0ac29b7c97c50dd3f84d5b5b54709179216d5d98979fb1bd1310ba698dfb5ac
def fxLn2 : Int := 0xb17217f7d1cf79abc9e3b39803f2f6af40f343267298b62d8a0d175b8baafa2be7b876206debac98559552fb4afa1b10ed2eae35c138214427573b291169b8253e96ca16224ae8c51acbda11317c387e
def fxInvSqrt2Pi : Int := 0x662114cf50d942343f2cf1402eae38bfd3829f30512706d8c0471b4802639d2e9df8ac55447d3db723f5d3abb374e88deb14277970be1513278e993445f08cff98282e1fd947ce4b4ecdbd6e65c23395

/-- Product and quotient in fixed point. -/
def fxMul (a b : Int) : Int := a * b / fxOne
def fxDiv (a b : Int) : Int := a * fxOne / b

/-- A dyadic value ± m × 2^e in fixed point. -/
def fxOf (neg : Bool) (m : Nat) (e : Int) : Int :=
  let x := Int.ofNat fxP + e
  let v : Int := if 0 ≤ x then Int.ofNat (m * 2 ^ x.toNat) else Int.ofNat (m / 2 ^ (-x).toNat)
  if neg then -v else v

/-- Σ of a power series: each term is the last times `x`, divided by the next divisor of `f`. -/
def fxSeries (x : Int) (f : Nat → Int) : Nat → Nat → Int → Int → Int
  | 0, _, _, acc => acc
  | n + 1, k, term, acc =>
    let t := fxMul term x / f k
    fxSeries x f n (k + 1) t (acc + t)

/-- e^r for 0 ≤ r < 1, in fixed point. -/
def fxExpSmall (r : Int) : Int := fxSeries r (fun k => Int.ofNat (k + 1)) 130 0 fxOne fxOne

/-- e^x in fixed point, as a value and a power of two to scale it by: |x| is taken at most 1,000. -/
def fxExp (x : Int) : Int × Int :=
  let lim := 1000 * fxOne
  let x := if x < -lim then -lim else if lim < x then lim else x
  let n := x / fxLn2
  (fxExpSmall (x - n * fxLn2), n)

/-- e^x as one fixed point number (zero when it is below the precision). -/
def fxExp1 (x : Int) : Int :=
  let p := fxExp x
  if 0 ≤ p.2 then p.1 * Int.ofNat (2 ^ p.2.toNat) else p.1 / Int.ofNat (2 ^ (-p.2).toNat)

/-- Odd series t + t³/3 + t⁵/5 + … : atanh. -/
def fxAtanhFrom (t2 : Int) : Nat → Nat → Int → Int → Int
  | 0, _, _, acc => acc
  | n + 1, k, term, acc => fxAtanhFrom t2 n (k + 2) (fxMul term t2) (acc + term / Int.ofNat k)

/-- ln of a fixed point value f with 1 ≤ f ≤ 2. -/
def fxLnSmall (f : Int) : Int :=
  let t := fxDiv (f - fxOne) (f + fxOne)
  2 * fxAtanhFrom (fxMul t t) 210 1 t 0

/-- sin of |r| ≤ 2, and cos. -/
def fxSin (r : Int) : Int :=
  fxSeries (fxMul r r) (fun k => - Int.ofNat ((2 * k + 2) * (2 * k + 3))) 70 0 r r
def fxCos (r : Int) : Int :=
  fxSeries (fxMul r r) (fun k => - Int.ofNat ((2 * k + 1) * (2 * k + 2))) 70 0 fxOne fxOne

/-- The odd part of the normal distribution: Σ (−1)^n x^(2n+1) / (2^n n! (2n+1)). -/
def fxPhiFrom (x2 : Int) : Nat → Nat → Int → Int → Int
  | 0, _, _, acc => acc
  | n + 1, k, term, acc =>
    fxPhiFrom x2 n (k + 1) (-(fxMul term x2) / Int.ofNat (2 * (k + 1))) (acc + term / Int.ofNat (2 * k + 1))

/-- Φ(x), the standard normal distribution function, for |x| ≤ 16. -/
def fxPhi (x : Int) : Int := fxOne / 2 + fxMul fxInvSqrt2Pi (fxPhiFrom (fxMul x x) 700 0 x 0)

/-- A fixed point value as sign, mantissa and exponent. -/
def fxDy (v : Int) : Bool × Nat × Int := (decide (v < 0), v.natAbs, - Int.ofNat fxP)

/-- A value so small that only its sign counts. -/
def tinyDy (neg : Bool) : Bool × Nat × Int := (neg, 1, -5000)

/-- The fp32 magnitudes within one unit in the last place of the magnitude m × 2^e, that unit being the one of the
value's own binade: the two that enclose it, below a power of two also what lies at half the distance, and a
neighbour of one that it equals. Infinity is a result of values beyond the format alone. -/
def ulpCandidates (m : Nat) (e : Int) : List Nat :=
  let q := ulpExp fp32 m e
  let s := (q - e).toNat
  let rem := m % 2 ^ s
  let r := (roundAt .zero false m e q).1
  let lo := encodeMag fp32 r q
  let low := decide (r = 2 ^ fp32.fw) && decide (fp32.qmin < q)
  if Int.ofNat 104 < q then
    infBits fp32 false :: (if dyLt 1 128 m e then [] else [maxBits fp32])
  else
    lo :: ((if lo + 1 < infBits fp32 false then [lo + 1] else []) ++
      (if lo ≠ 0 ∧ (rem = 0 ∨ (low = true ∧ 2 * rem ≤ 2 ^ s)) then [lo - 1] else []) ++
      (if low = true ∧ rem = 0 then [lo - 2] else []))

/-- The result of function `op` at operand `a`: one of the candidates of its exact value, with its sign. -/
def ulpPick (op : Nat) (a : Word) (d : Bool × Nat × Int) : Nat :=
  let c := ulpCandidates d.2.1 d.2.2
  signBit fp32 d.1 + c.getD ((Config.ulpBits op a).toNat % c.length) 0

/-- 2^x for a finite operand. -/
def exactExp2 (n : Bool) (m : Nat) (e : Int) : Bool × Nat × Int :=
  if dyLt 400 0 m e then (if n then tinyDy false else (false, 1, 5000))
  else
    let x := fxOf n m e
    let i := x / fxOne
    let v := fxExpSmall (fxMul (x - i * fxOne) fxLn2)
    (false, v.natAbs, i - Int.ofNat fxP)

/-- log₂ of a positive operand. -/
def exactLog2 (m : Nat) (e : Int) : Bool × Nat × Int :=
  let k := Nat.log2 m
  let f := fxOf false m (- Int.ofNat k)
  let v := fxDiv (fxLnSmall f) fxLn2 + (Int.ofNat k + e) * fxOne
  fxDy v

/-- sin or cos of a finite operand, in radians. -/
def exactSinCos (cos : Bool) (n : Bool) (m : Nat) (e : Int) : Bool × Nat × Int :=
  if m = 0 then (if cos then (false, 1, 0) else (n, 0, 0))
  else if dyLt m e 1 (-200) then (if cos then fxDy (fxOne - 1) else (n, m * 2 ^ 400 - m, e - 400))
  else
    let x := fxOf n m e
    let half := fxPi / 2
    let k := x / half
    let r := x - k * half
    let j := ((if cos then k + 1 else k) % 4).toNat
    let v := match j with
      | 0 => fxSin r
      | 1 => fxCos r
      | 2 => -(fxSin r)
      | _ => -(fxCos r)
    fxDy v

/-- 1 / (1 + e^(−x)). -/
def fxSigmoid (x : Int) : Int :=
  if x < 0 then
    let t := fxExp1 x
    fxDiv t (fxOne + t)
  else fxDiv fxOne (fxOne + fxExp1 (-x))

/-- The activation functions of Table 4-11 given within one unit in the last place, at a finite operand. -/
def exactAct (fn : Nat) (n : Bool) (m : Nat) (e : Int) : Bool × Nat × Int :=
  let big := dyLt 300 0 m e
  let x := fxOf n m e
  match fn with
  | 0x2 =>
    if big then (if n then tinyDy false else fxDy (fxOne - 1)) else fxDy (fxSigmoid x)
  | 0x3 =>
    if m = 0 then (n, 0, 0)
    else if dyLt m e 1 (-100) then (n, m * 2 ^ 400 - m, e - 400)
    else if dyLt 150 0 m e then (if n then fxDy (1 - fxOne) else fxDy (fxOne - 1))
    else
      let t := fxExp1 (2 * (if x < 0 then -x else x))
      let v := fxOne - fxDiv (2 * fxOne) (t + fxOne)
      (n, v.natAbs, - Int.ofNat fxP)
  | 0x4 =>
    if big then (if n then tinyDy false else (false, m * 2 ^ 400 + 1, e - 400))
    else
      let a := if x < 0 then -x else x
      let v := fxLnSmall (fxOne + fxExp1 (-a)) + (if x < 0 then 0 else x)
      fxDy v
  | 0x5 =>
    if m = 0 then (n, 0, 0)
    else if dyLt m e 1 (-100) then (n, (if n then m * 2 ^ 400 - m else m * 2 ^ 400 + m), e - 401)
    else if dyLt 16 0 m e then (if n then tinyDy true else (false, m * 2 ^ 400 - 1, e - 400))
    else
      let v := fxMul x (fxPhi x)
      (n, v.natAbs, - Int.ofNat fxP)
  | _ =>
    if m = 0 then (n, 0, 0)
    else if dyLt m e 1 (-100) then (n, (if n then m * 2 ^ 400 - m else m * 2 ^ 400 + m), e - 401)
    else if big then (if n then tinyDy true else (false, m * 2 ^ 400 - 1, e - 400))
    else
      let v := fxMul x (fxSigmoid x)
      (n, v.natAbs, - Int.ofNat fxP)

/-- 1 − e^(−y) for a finite y, the softplus derivative of Table 6-2. -/
def exactSoftplusDeriv (n : Bool) (m : Nat) (e : Int) : Bool × Nat × Int :=
  if m = 0 then (n, 0, 0)
  else if dyLt m e 1 (-100) then (n, (if n then m * 2 ^ 400 + m else m * 2 ^ 400 - m), e - 400)
  else if dyLt 300 0 m e then (if n then (true, 1, 5000) else fxDy (fxOne - 1))
  else fxDy (fxOne - fxExp1 (-(fxOf n m e)))

/-- 1 / a exactly enclosed: a quotient with a sticky last bit. -/
def exactRcp (n : Bool) (m : Nat) (e : Int) : Bool × Nat × Int :=
  let k := 200 + Nat.log2 m
  let d := 2 ^ k / m
  (n, 2 * d + (if d * m = 2 ^ k then 0 else 1), - e - Int.ofNat k - 1)

/-- 1 / √a exactly enclosed. -/
def exactRsq (m : Nat) (e : Int) : Bool × Nat × Int :=
  let k := 2 * (200 + Nat.log2 m) + (e % 2).toNat
  let d := isqrt (2 ^ k / m)
  (false, 2 * d + (if d * d * m = 2 ^ k then 0 else 1), (- e - Int.ofNat k) / 2 - 1)

end Sys2Proof.Machine
end

