-- ==== Sys2Proof/Machine/Arith.lean ====
section
/-! DEFINITION. The arithmetic that several families share: the generator of stochastic rounding (R151,
R152), the array's products and additions (R146–R148), folds into residue pairs (R156), conversions
(R141–R145), the activation functions and their derivatives (R131, R173), and the atomics' operations
(Table 3-15). -/

namespace Sys2Proof.Machine

/-- 2^32. -/
def two32 : Nat := 4294967296

/-- One round of Philox4x32 (R151). -/
def philoxRound (c : Nat × Nat × Nat × Nat) (k0 k1 : Nat) : Nat × Nat × Nat × Nat :=
  let p0 := 0xd2511f53 * c.1
  let p1 := 0xcd9e8d57 * c.2.2.1
  (p1 / two32 ^^^ c.2.1 ^^^ k0, p1 % two32, p0 / two32 ^^^ c.2.2.2 ^^^ k1, p0 % two32)

/-- `n` rounds, the key advancing between them (R151). -/
def philoxFrom : Nat → Nat × Nat × Nat × Nat → Nat → Nat → Nat × Nat × Nat × Nat
  | 0, c, _, _ => c
  | n + 1, c, k0, k1 =>
    philoxFrom n (philoxRound c k0 k1) ((k0 + 0x9e3779b9) % two32) ((k1 + 0xbb67ae85) % two32)

/-- Philox4x32-10 (R151). -/
def philox (c0 c1 c2 c3 k0 k1 : Nat) : Nat × Nat × Nat × Nat := philoxFrom 10 (c0, c1, c2, c3) k0 k1

/-- A context's seed and step (R153). -/
structure Seed where
  lo   : Nat
  hi   : Nat
  step : Nat
  deriving DecidableEq, Repr

/-- The random word of a rounding in domain `d`; e and pos are taken as 32-bit values (R152). -/
def randWord (sd : Seed) (d t e pos : Nat) : Nat :=
  let r := philox (e % two32) (d * 2 ^ 30 + pos % two32 / 4) t sd.step sd.lo sd.hi
  match pos % 4 with
  | 0 => r.1
  | 1 => r.2.1
  | 2 => r.2.2.1
  | _ => r.2.2.2

/-- The exact product of two array operands, with the factor of their block scales; NaN when a scale is
0xFF (R108, R146). -/
def arrayProduct (x w : Val) (sx sw : Option Nat) : Val :=
  let bad (s : Option Nat) : Bool := s = some 0xFF
  let k (s : Option Nat) : Int := match s with
    | some v => Int.ofNat v - 127
    | none => 0
  if bad sx || bad sw then .nan false
  else match (mulExact x w).1 with
    | .fin n m e => .fin n m (e + k sx + k sw)
    | v => v

/-- acc_add for an fp32 accumulator (R147). -/
def accAddF (a : Acc) (p : Val) (rm : Rm) : Acc :=
  match decodeVal fp32 a.value.toNat, p with
  | .nan _, _ => a
  | _, .nan _ => { a with value := 0x7FC00000, inv := true }
  | .inf n1, .inf n2 => if n1 = n2 then a else { a with value := 0x7FC00000, inv := true }
  | .inf _, .fin _ _ _ => a
  | .fin _ _ _, .inf n => { a with value := BitVec.ofNat 32 (infBits fp32 n) }
  | .fin n1 m1 e1, .fin n2 m2 e2 =>
    let s := addDy n1 m1 e1 n2 m2 e2
    if s.2.1 = 0 then
      { a with value := if n1 && n2 && decide (m1 = 0) && decide (m2 = 0) then 0x80000000 else 0 }
    else
      let r := roundTo fp32 rm false s.1 s.2.1 s.2.2
      { a with value := BitVec.ofNat 32 r.bits, ovf := a.ovf || decide (r.fl / 4 % 2 = 1) }

/-- acc_add for an int32 accumulator: exact, then clamped (R111, R148). -/
def accAddI (a : Acc) (p : Int) : Acc :=
  let s := a.value.toInt + p
  if s < -2147483648 then { a with value := 0x80000000, sat := true }
  else if 2147483647 < s then { a with value := 0x7FFFFFFF, sat := true }
  else { a with value := BitVec.ofInt 32 s }

/-- The exponent of unit(b) of a bf16 value (R155). -/
def residueUnit (b : Nat) : Int := Int.ofNat (max (b / 128 % 256) 1) - 142

/-- res_fold (R156): the new pair, and its INV and OVF flags. -/
def resFold (b r : Nat) (d : Val) : Nat × Nat × Nat :=
  match decodeVal bf16 b, d with
  | .nan _, _ => (0x7FC0, 0, fINV)
  | _, .nan _ => (0x7FC0, 0, fINV)
  | .inf n1, .inf n2 => if n1 = n2 then (infBits bf16 n1, 0, 0) else (0x7FC0, 0, fINV)
  | .inf n1, .fin _ _ _ => (infBits bf16 n1, 0, 0)
  | .fin _ _ _, .inf n2 => (infBits bf16 n2, 0, 0)
  | .fin n1 m1 e1, .fin n2 m2 e2 =>
    let ri := sext 8 r
    let u := addDy n1 m1 e1 (decide (ri < 0)) ri.natAbs (residueUnit b)
    let x := addDy u.1 u.2.1 u.2.2 n2 m2 e2
    if x.2.1 = 0 then (0, 0, 0)
    else
      let c := roundTo bf16 .near false x.1 x.2.1 x.2.2
      match decodeVal bf16 c.bits with
      | .fin n3 m3 e3 =>
        let q := addDy x.1 x.2.1 x.2.2 (!n3) m3 e3
        let k := (roundAt .near q.1 q.2.1 q.2.2 (residueUnit c.bits)).1
        let i : Int := if q.1 then - Int.ofNat k else Int.ofNat k
        (c.bits, ((BitVec.ofInt 8 (if i = 128 then 127 else i)).toNat), 0)
      | _ => (c.bits, 0, fOVF)

/-- The value of an E4M3 element times an E8M0 block scale; NaN for either NaN. -/
def mxValue (f : Fmt) (elem scale : Nat) : Val := arrayProduct (decodeVal f elem) (.fin false 1 0) (some scale) none

/-- Whether a format code is an integer format, with its range (Table 5-1). -/
def intFmt (code : Nat) : Option (Int × Int × Nat) :=
  match code with
  | 0x5 => some (-2147483648, 2147483647, 32)
  | 0x6 => some (0, 4294967295, 32)
  | 0x7 => some (-128, 127, 8)
  | 0x8 => some (0, 255, 8)
  | _ => none

/-- The integer that the low bits of an integer format spell. -/
def intOf (code v : Nat) : Int :=
  match code with
  | 0x5 => sext 32 v
  | 0x7 => sext 8 v
  | 0x8 => Int.ofNat (v % 256)
  | _ => Int.ofNat (v % two32)

/-- A value as read by a conversion from a format code. -/
def valOf (code v : Nat) : Val :=
  match fmtOf code with
  | some f => decodeVal f v
  | none => let i := intOf code v; .fin (decide (i < 0)) i.natAbs 0

/-- CVT of one element (R141–R143). An infinity stays one in fp32 under either SAT: Table 5-3 names no
fp32 destination, and the value is representable (DEDUCED, log entry 13). -/
def cvtOne (src dst : Nat) (rm : Rm) (sat : Bool) (v : Nat) : Res :=
  let x := valOf src v
  match intFmt dst, fmtOf dst with
  | some t, _ => toInt t.1 t.2.1 t.2.2 rm x
  | none, some f => toFloat f rm (sat && decide (dst ≠ 0)) (decide (src ≤ 2)) x
  | none, none => ⟨0, 0, false⟩

/-- The largest unbiased exponent of an MX element format (R144). -/
def mxEmax (code : Nat) : Int :=
  match code with
  | 0x3 => 8
  | 0xC => 8
  | 0x4 => 15
  | 0xD => 15
  | 0x9 => 4
  | _ => 2

/-- floor(log2 of the largest magnitude) among finite values; none when all are zero. -/
def mxTop : List Val → Option Int
  | [] => none
  | v :: r =>
    match v, mxTop r with
    | .fin _ m e, t =>
      if m = 0 then t else some (match t with | some k => max k (topExp m e) | none => topExp m e)
    | _, t => t

/-- Whether any value is NaN or infinite. -/
def anyNonFinite (vs : List Val) : Bool := vs.any (fun v => match v with | .fin _ _ _ => false | _ => true)

/-- CVT.MX of one block from fp32 (R144): scale, elements and flags. `rms` gives each element's rounding.
An element that is clamped sets no flag (DEDUCED, log entry 13). -/
def mxFromF32 (code : Nat) (vs : List Val) (rms : List Rm) : Nat × List Nat × Nat :=
  match fmtOf code with
  | none => (0xFF, [], 0)
  | some f =>
    if anyNonFinite vs then (0xFF, vs.map (fun _ => 0), fINV)
    else
      let x := match mxTop vs with
        | none => -127
        | some t => min (max (t - mxEmax code) (-127)) 127
      let rs := vs.zipWith (fun v rm => match v with
        | .fin n m e => roundTo f rm true n m (e - x)
        | _ => ⟨0, 0, false⟩) rms
      ((x + 127).toNat, rs.map (·.bits), rs.foldl (fun a r => if r.clamp then a else fOr a r.fl) 0)

/-- CVT.MX of one element to fp32 (R145). A result beyond fp32's range is clamped and sets INX alone, since
CVT.MX always saturates and never sets OVF (R144; DEDUCED, log entry 13). -/
def mxToF32 (code elem scale : Nat) (rm : Rm) : Res :=
  match fmtOf code with
  | none => ⟨0, 0, false⟩
  | some f =>
    if scale = 0xFF then ⟨canonNan fp32, 0, false⟩
    else match mxValue f elem scale with
      | .nan _ => ⟨canonNan fp32, 0, false⟩
      | .inf n => ⟨infBits fp32 n, 0, false⟩
      | .fin n m e =>
        let r := roundTo fp32 rm true n m e
        if r.clamp then { r with fl := fINX } else r

/-- fp32 word as a value. -/
def f32 (w : Word) : Val := decodeVal fp32 w.toNat

/-- Results with flags, as words. -/
def resW (r : Res) : Word × Nat := (BitVec.ofNat 32 r.bits, r.fl)

/-- The canonical fp32 NaN (R73). -/
def nan32 : Word := 0x7FC00000

/-- A finite operand's function value within one unit in the last place, as a word with no flags. -/
def ulpW (op : Nat) (a : Word) (d : Bool × Nat × Int) : Word := BitVec.ofNat 32 (ulpPick op a d)

/-- FRCP (R75). -/
def frcpVal (a : Word) : Word × Nat :=
  match f32 a with
  | .nan s => (nan32, if s then fINV else 0)
  | .inf n => (BitVec.ofNat 32 (signBit fp32 n), 0)
  | .fin n m e => if m = 0 then (BitVec.ofNat 32 (infBits fp32 n), fDZ) else (ulpW 0x48 a (exactRcp n m e), 0)

/-- FRSQ (R75). -/
def frsqVal (a : Word) : Word × Nat :=
  match f32 a with
  | .nan s => (nan32, if s then fINV else 0)
  | .inf n => if n then (nan32, fINV) else (0, 0)
  | .fin n m e =>
    if m = 0 then (BitVec.ofNat 32 (infBits fp32 n), fDZ)
    else if n then (nan32, fINV) else (ulpW 0x49 a (exactRsq m e), 0)

/-- FEX2 (R75). -/
def fex2Val (a : Word) : Word × Nat :=
  match f32 a with
  | .nan s => (nan32, if s then fINV else 0)
  | .inf n => (if n then 0 else BitVec.ofNat 32 (infBits fp32 false), 0)
  | .fin n m e => if m = 0 then (0x3F800000, 0) else (ulpW 0x4B a (exactExp2 n m e), 0)

/-- FLG2 (R75). -/
def flg2Val (a : Word) : Word × Nat :=
  match f32 a with
  | .nan s => (nan32, if s then fINV else 0)
  | .inf n => if n then (nan32, fINV) else (BitVec.ofNat 32 (infBits fp32 false), 0)
  | .fin n m e =>
    if m = 0 then (BitVec.ofNat 32 (infBits fp32 true), fDZ)
    else if n then (nan32, fINV) else (ulpW 0x4C a (exactLog2 m e), 0)

/-- FSIN and FCOS (R75). -/
def fsinCosVal (cos : Bool) (a : Word) : Word × Nat :=
  match f32 a with
  | .nan s => (nan32, if s then fINV else 0)
  | .inf _ => (nan32, fINV)
  | .fin n m e =>
    if m = 0 then ((if cos then 0x3F800000 else a), 0)
    else (ulpW (if cos then 0x4E else 0x4D) a (exactSinCos cos n m e), 0)

/-- x > 0. -/
def posVal : Val → Bool
  | .inf n => !n
  | .fin n m _ => !n && decide (m ≠ 0)
  | _ => false

/-- Flags of an inexact result that lies within one unit in the last place: INX, and UNF when the result is
below the normal range (R131). -/
def ulpFlags (w : Word) : Nat := if w.toNat % 2 ^ 31 < 2 ^ 23 then fINX + fUNF else fINX

/-- The exact limit of an activation at an infinity (R131). -/
def actLimit (fn : Nat) (neg : Bool) : Word :=
  match fn with
  | 0x2 => if neg then 0 else 0x3F800000
  | 0x3 => if neg then 0xBF800000 else 0x3F800000
  | 0x4 => if neg then 0 else 0x7F800000
  | _ => if neg then 0x80000000 else 0x7F800000

/-- ACT.FWD of one value (Table 4-11, R131). -/
def actFwdVal (fn : Nat) (a alpha : Word) : Word × Nat :=
  match f32 a with
  | .nan _ => (nan32, fINV)
  | .inf n =>
    match fn with
    | 0x0 => (if n then 0 else a, 0)
    | 0x1 => resW (mulVal fp32 .near (f32 alpha) (.inf n))
    | _ => (actLimit fn n, 0)
  | .fin n m e =>
    match fn with
    | 0x0 => (if posVal (.fin n m e) then a else 0, 0)
    | 0x1 => if posVal (.fin n m e) then (a, 0) else resW (mulVal fp32 .near (f32 alpha) (.fin n m e))
    | 0x2 => if m = 0 then (0x3F000000, 0) else let w := ulpW 0x2 a (exactAct 2 n m e); (w, ulpFlags w)
    | 0x4 => let w := ulpW 0x4 a (exactAct 4 n m e); (w, ulpFlags w)
    | _ => if m = 0 then (a, 0) else let w := ulpW fn a (exactAct fn n m e); (w, ulpFlags w)

/-- fp32 addition, multiplication and fused multiply-add on words. -/
def fadd32 (rm : Rm) (a b : Word) : Word × Nat := resW (addVal fp32 rm (f32 a) (f32 b))
def fmul32 (rm : Rm) (a b : Word) : Word × Nat := resW (mulVal fp32 rm (f32 a) (f32 b))
def ffma32 (rm : Rm) (a b c : Word) : Word × Nat := resW (fmaVal fp32 rm (f32 a) (f32 b) (f32 c))

/-- The sign bit flipped. -/
def fneg32 (a : Word) : Word := a ^^^ 0x80000000

/-- The softplus derivative's factor within one unit in the last place of 1 − e^(−y) (Table 6-2). -/
def softplusD (y : Word) : Word :=
  match f32 y with
  | .nan _ => nan32
  | .inf n => if n then 0xFF800000 else 0x3F800000
  | .fin n m e => if m = 0 then y else ulpW 0x14 y (exactSoftplusDeriv n m e)

/-- ACT.BWD of one value (Table 6-2, R173); `y` is widened to fp32. -/
def actBwdVal (fn : Nat) (g y alpha : Word) : Word × Nat :=
  if isNan (f32 g) || isNan (f32 y) then (nan32, fINV)
  else match fn with
    | 0x0 => (if posVal (f32 y) then g else 0, 0)
    | 0x1 => if posVal (f32 y) then (g, 0) else fmul32 .near alpha g
    | 0x2 =>
      let p := fadd32 .near 0x3F800000 (fneg32 y)
      let q := fmul32 .near y p.1
      let r := fmul32 .near g q.1
      (r.1, fOr p.2 (fOr q.2 r.2))
    | 0x3 =>
      let p := fmul32 .near y y
      let q := fadd32 .near 0x3F800000 (fneg32 p.1)
      let r := fmul32 .near g q.1
      (r.1, fOr p.2 (fOr q.2 r.2))
    | _ => fmul32 .near g (softplusD y)

/-- The operations of ATOM.* and of SILK.ATOM, by the codes of Table 3-17. -/
inductive AOp where
  | addI (w : Nat)
  | addF32
  | addBf16
  | minI (signed : Bool)
  | maxI (signed : Bool)
  | minF
  | maxF
  | swap (w : Nat)
  | cas (w : Nat)
  deriving DecidableEq, Repr

/-- The operation of an AOP code (Table 3-17); none where it is reserved. -/
def aopOf (c : Nat) : Option AOp :=
  match c with
  | 0x0 => some (.addI 4)
  | 0x1 => some (.addI 8)
  | 0x2 => some .addF32
  | 0x3 => some .addBf16
  | 0x4 => some (.minI true)
  | 0x5 => some (.minI false)
  | 0x6 => some (.maxI true)
  | 0x7 => some (.maxI false)
  | 0x8 => some .minF
  | 0x9 => some .maxF
  | 0xA => some (.swap 4)
  | 0xB => some (.swap 8)
  | 0xC => some (.cas 4)
  | 0xD => some (.cas 8)
  | _ => none

/-- Bytes of memory that an atomic changes. -/
def AOp.bytes : AOp → Nat
  | .addI w => w
  | .addBf16 => 2
  | .swap w => w
  | .cas w => w
  | _ => 4

/-- The value an atomic leaves in memory: old value, compare value (CAS), operand (Table 3-15). -/
def AOp.apply (op : AOp) (old cmp v : Nat) : Nat :=
  match op with
  | .addI w => (old + v) % 2 ^ (8 * w)
  | .addF32 => (addVal fp32 .near (decodeVal fp32 old) (decodeVal fp32 v)).bits
  | .addBf16 => (addVal bf16 .near (decodeVal bf16 old) (decodeVal bf16 v)).bits
  | .minI true => if sext 32 old ≤ sext 32 v then old else v
  | .minI false => min old v
  | .maxI true => if sext 32 old ≤ sext 32 v then v else old
  | .maxI false => max old v
  | .minF => (minmaxBits fp32 false old v).bits
  | .maxF => (minmaxBits fp32 true old v).bits
  | .swap _ => v
  | .cas _ => if old = cmp then v else old

end Sys2Proof.Machine
end

