-- ==== Sys2Proof/Machine/Store.lean ====
section
/-! DEFINITION. The named operations of the sparse maps: a map with a default value (`lookupD`, `insertD`:
an entry that equals the default is not listed) and a map of present keys (`find`, `put`, `drop`). Both
keep the keys strictly rising. -/

namespace Sys2Proof.Machine

variable {α : Type}

/-- The value at key `k` of a map whose unlisted keys hold `d`. -/
def lookupD (d : α) : SMap α → Nat → α
  | [], _ => d
  | (k', v) :: r, k => if k = k' then v else lookupD d r k

/-- The map without any entry at `k`. -/
def drop : SMap α → Nat → SMap α
  | [], _ => []
  | (k', v') :: r, k => if k = k' then drop r k else (k', v') :: drop r k

/-- The map with an entry put before the first larger key. -/
def place : SMap α → Nat → α → SMap α
  | [], k, v => [(k, v)]
  | (k', v') :: r, k, v => if k < k' then (k, v) :: (k', v') :: r else (k', v') :: place r k v

/-- The map with the value at `k` replaced; a value equal to the default is not listed. -/
def insertD [DecidableEq α] (d : α) (m : SMap α) (k : Nat) (v : α) : SMap α :=
  if v = d then drop m k else place (drop m k) k v

/-- The entry at key `k`, if the map has one. -/
def find : SMap α → Nat → Option α
  | [], _ => none
  | (k', v) :: r, k => if k = k' then some v else find r k

/-- The map with the entry at `k` replaced. -/
def put (m : SMap α) (k : Nat) (v : α) : SMap α := place (drop m k) k v

/-- The keys rise strictly, all above `lo` where one is given. -/
def risingFrom : Option Nat → SMap α → Bool
  | _, [] => true
  | none, (k, _) :: r => risingFrom (some k) r
  | some l, (k, _) :: r => decide (l < k) && risingFrom (some k) r

/-- A map of present keys is canonical when its keys rise strictly. -/
def rising (m : SMap α) : Bool := risingFrom none m

/-- A map with default `d` is canonical when its keys rise strictly and no entry equals `d`. -/
def canonical [DecidableEq α] (d : α) (m : SMap α) : Bool :=
  rising m && m.all (fun e => decide (e.2 ≠ d))

/-- A set of numbers as a strictly rising list: `x` added. -/
def addMem : List Nat → Nat → List Nat
  | [], x => [x]
  | y :: r, x => if x < y then x :: y :: r else if x = y then y :: r else y :: addMem r x

/-- A set of numbers as a strictly rising list: `x` removed. -/
def delMem (l : List Nat) (x : Nat) : List Nat := l.filter (fun y => decide (y ≠ x))

end Sys2Proof.Machine
end

