-- ==== Sys2Proof/Machine/Ops.lean ====
section
/-! DEFINITION. The named operations over the structured state: cells, blocks, regions and groups by number,
the address map and its holes (R210, R211, R411), and the bytes of memory as a master reads and writes them,
with the encryption of cocoon HBM3E (R314, R320). -/

namespace Sys2Proof.Machine

/-- The outcome of a meaning. -/
abbrev Out1 := Host.Outcome State Fault Refusal

/-- Numbers of units (R10, R11). -/
def nCells : Nat := 10240
def nBlocks : Nat := 640

/-- The region of a device cell, and of a device block (R11). -/
def cellRegion (c : Nat) : Nat := c / 1280
def blockRegion (b : Nat) : Nat := b / 80
def cellBlock (c : Nat) : Nat := c / 16

/-- A cell, block, region, link, context, queue, fence by number. -/
def State.cell (s : State) (c : Nat) : Cell := lookupD {} s.cells c
def State.block (s : State) (b : Nat) : Block := lookupD {} s.blocks b
def State.region (s : State) (r : Nat) : Region := lookupD {} s.regions r
def State.link (s : State) (l : Nat) : Link := lookupD {} s.silk.links l
def State.ctx (s : State) (n : Nat) : Ctx := lookupD {} s.host.ctxs n
def State.queue (s : State) (q : Nat) : Queue := lookupD {} s.host.queues q
def State.fence (s : State) (f : Nat) : Fence := lookupD {} s.host.fences f
def State.cocoon (s : State) (c : Nat) : Cocoon := lookupD {} s.sec.cocoons c
def State.keySlot (s : State) (k : Nat) : KeySlot := lookupD {} s.sec.keys k

/-- The same units replaced. -/
def State.setCell (s : State) (c : Nat) (v : Cell) : State := { s with cells := insertD {} s.cells c v }
def State.setBlock (s : State) (b : Nat) (v : Block) : State := { s with blocks := insertD {} s.blocks b v }
def State.setRegion (s : State) (r : Nat) (v : Region) : State := { s with regions := insertD {} s.regions r v }
def State.setLink (s : State) (l : Nat) (v : Link) : State :=
  { s with silk := { s.silk with links := insertD {} s.silk.links l v } }
def State.setCtx (s : State) (n : Nat) (v : Ctx) : State :=
  { s with host := { s.host with ctxs := insertD {} s.host.ctxs n v } }
def State.setQueue (s : State) (q : Nat) (v : Queue) : State :=
  { s with host := { s.host with queues := insertD {} s.host.queues q v } }
def State.setFence (s : State) (f : Nat) (v : Fence) : State :=
  { s with host := { s.host with fences := insertD {} s.host.fences f v } }
def State.setCocoon (s : State) (c : Nat) (v : Cocoon) : State :=
  { s with sec := { s.sec with cocoons := insertD {} s.sec.cocoons c v } }
def State.setKeySlot (s : State) (k : Nat) (v : KeySlot) : State :=
  { s with sec := { s.sec with keys := insertD {} s.sec.keys k v } }

/-- The group in a slot. -/
def State.group (s : State) (g : GRef) : Option Group := find (s.cell g.cell).groups g.slot

/-- The group in a slot replaced. -/
def State.setGroup (s : State) (g : GRef) (v : Group) : State :=
  let c := s.cell g.cell
  s.setCell g.cell { c with groups := put c.groups g.slot v }

/-- The group in a slot changed, where there is one. -/
def State.modGroup (s : State) (g : GRef) (f : Group → Group) : State :=
  match s.group g with
  | none => s
  | some v => s.setGroup g (f v)

/-- A slot emptied. -/
def State.dropGroup (s : State) (g : GRef) : State :=
  let c := s.cell g.cell
  s.setCell g.cell { c with groups := drop c.groups g.slot }

/-- Something leaves the device. -/
def State.emit (s : State) (o : Out) : State := { s with out := s.out ++ [o] }

/-- The next open value, and the state after its use (log entry 5). -/
def State.free (s : State) : DWord × State := (Config.freeValue s.freeCtr, { s with freeCtr := s.freeCtr + 1 })

/-- Whether a cached line is still held, and the state after asking (log entry 6). -/
def State.held (s : State) : Bool × State := (Config.stillHeld s.freeCtr, { s with freeCtr := s.freeCtr + 1 })

/-- Whether a region is in service (Table 1-12). -/
def State.regionUp (s : State) (r : Nat) : Bool := decide (r < 8) && bit s.chip.inService r

/-- Whether a cell is in service. -/
def State.cellUp (s : State) (c : Nat) : Bool := s.regionUp (cellRegion c) && !(s.cell c).fenced

/-- The cells of a block in service, by position 0–15, ascending (R36). -/
def State.cellsUp (s : State) (b : Nat) : List Nat := (List.range 16).filter (fun c => s.cellUp (b * 16 + c))

/-! ### The physical address map -/

/-- The ranges of Table 7-2: HBM3E, Layer Store or block memory, with the region that holds the address. -/
inductive Place where
  | hbm (r : Nat)
  | ls (r : Nat)
  | blk (b : Nat)
  deriving DecidableEq, Repr

/-- The bases of Table 7-2. -/
def lsBase : Nat := 0x010000000000
def blkBase : Nat := 0x011000000000
def csrBase : Nat := 0x080000000000
def hbmSize : Nat := 0x001200000000
def lsSize : Nat := 0x40000000

/-- Where a physical address lies (R210). -/
def placeOf (pa : Nat) : Option Place :=
  if pa < 8 * hbmSize then some (.hbm (pa / hbmSize))
  else if lsBase ≤ pa ∧ pa < lsBase + 8 * lsSize then some (.ls ((pa - lsBase) / lsSize))
  else if blkBase ≤ pa ∧ pa < blkBase + 640 * 0x200000 then some (.blk ((pa - blkBase) / 0x200000))
  else none

/-- The region of a place. -/
def Place.region : Place → Nat
  | .hbm r => r
  | .ls r => r
  | .blk b => blockRegion b

/-- Whether a place is there: its region released (Layer Store, block memory) or trained (HBM3E), and not
retired since (R211, R411). -/
def State.present (s : State) : Place → Bool
  | .hbm r => bit s.chip.trained r
  | .ls r => bit s.chip.released r
  | .blk b => bit s.chip.released (blockRegion b)

/-- The place of an address that is no hole. -/
def State.placeAt (s : State) (pa : Nat) : Option Place :=
  match placeOf pa with
  | none => none
  | some p => if s.present p then some p else none

/-- The places that `n` bytes from an address touch, one for each region or block; none where a byte lies in no
memory range (R210). -/
def placesOf (pa n : Nat) : Option (List Place) :=
  let last := pa + n - 1
  match placeOf pa, placeOf last with
  | some (.hbm r), some (.hbm q) => some ((List.range (q + 1 - r)).map (fun i => .hbm (r + i)))
  | some (.ls r), some (.ls q) => some ((List.range (q + 1 - r)).map (fun i => .ls (r + i)))
  | some (.blk b), some (.blk c) => some ((List.range (c + 1 - b)).map (fun i => .blk (b + i)))
  | _, _ => none

/-- Whether all of `n` bytes from an address lie in memory, holes excluded. -/
def State.inMem (s : State) (pa n : Nat) : Bool :=
  if n = 0 then (s.placeAt pa).isSome
  else match placesOf pa n with
    | none => false
    | some l => l.all s.present

/-- Whether `n` bytes from an address lie in the HBM3E and Layer Store ranges, outside holes. -/
def State.inDram (s : State) (pa n : Nat) : Bool :=
  s.inMem pa n && decide (pa + n ≤ lsBase + 8 * lsSize)

/-! ### Cocoon storage -/

/-- The active cocoon that a region belongs to (R311, Table 10-12); a cocoon being removed still owns its
regions. -/
def State.cocoonOf (s : State) (r : Nat) : Option Nat :=
  if r < 8 then (List.range 8).find? (fun c => decide ((s.cocoon c).st ≠ 0) && bit (s.cocoon c).regions r) else none

/-- The cocoon that owns a physical address (R312). -/
def State.cocoonAt (s : State) (pa : Nat) : Option Nat :=
  match placeOf pa with
  | none => none
  | some p => s.cocoonOf p.region

/-- The cocoon that a context slot is bound to (R315). -/
def State.boundTo (s : State) (n : Nat) : Option Nat := lookupD none s.sec.bound n

/-- A region lies on the context's side of the cocoon boundary (R317). -/
def State.sideOk (s : State) (n r : Nat) : Bool := s.boundTo n == s.cocoonOf r

/-! ### Bytes of memory -/

/-- A byte as stored. -/
def State.raw (s : State) (pa : Nat) : Byte := lookupD 0 s.mem pa

/-- `n` stored bytes. -/
def rawBytes (m : List Host.Cell) : Nat → Nat → List Byte
  | _, 0 => []
  | pa, n + 1 => lookupD 0 m pa :: rawBytes m (pa + 1) n

/-- Bytes stored from an address upward. -/
def rawWrite : List Host.Cell → Nat → List Byte → List Host.Cell
  | m, _, [] => m
  | m, pa, b :: r => rawWrite (insertD 0 m pa b) (pa + 1) r

/-- The cocoon whose memory a sector belongs to, while nothing has been written there since CREATE: its contents
are undefined (R314), and what HBM3E stores is read through the XTS engine (R320; log entry 9). -/
def State.sealedBy (s : State) (pa : Nat) : Option Nat :=
  match placeOf pa with
  | some p =>
    match s.cocoonOf p.region with
    | some c => if (s.cocoon c).plain.contains (pa / 32) then none else some c
    | none => none
  | none => none

/-- A byte as a master reads it at its coherence point (R205, R320). -/
def State.byte (s : State) (pa : Nat) : Byte :=
  match s.sealedBy pa with
  | none => s.raw pa
  | some c =>
    (Config.xtsOpen (s.cocoon c).key (pa / 32) (rawBytes s.mem (pa / 32 * 32) 32)).getD (pa % 32) 0

/-- `n` bytes at their coherence point. -/
def State.bytes (s : State) : Nat → Nat → List Byte
  | _, 0 => []
  | pa, n + 1 => s.byte pa :: State.bytes s (pa + 1) n

/-- A little-endian number of `n` bytes (R8). -/
def State.word (s : State) (pa n : Nat) : Nat := leNat (s.bytes pa n)

/-- The sector of an address in plaintext form: a cocoon sector that is about to be written (R320). -/
def State.openSector (s : State) (pa : Nat) : State :=
  match s.sealedBy pa with
  | none => s
  | some c =>
    let k := s.cocoon c
    let base := pa / 32 * 32
    let p := padTo 32 (Config.xtsOpen k.key (pa / 32) (rawBytes s.mem base 32))
    { s.setCocoon c { k with plain := addMem k.plain (pa / 32) } with mem := rawWrite s.mem base p }

/-- The sectors of `n` bytes from an address opened, sector by sector. -/
def State.openSectors (s : State) : Nat → Nat → State
  | _, 0 => s
  | k, n + 1 => State.openSectors (s.openSector (32 * k)) (k + 1) n

/-- The sectors that `n` bytes from an address touch. -/
def sectorSpan (pa n : Nat) : Nat := if n = 0 then 0 else (pa + n - 1) / 32 - pa / 32 + 1

/-- Bytes written at their coherence point, check bits aside. -/
def State.store (s : State) (pa : Nat) (bs : List Byte) : State :=
  let s := s.openSectors (pa / 32) (sectorSpan pa bs.length)
  { s with mem := rawWrite s.mem pa bs }

/-- A byte as it is stored below the XTS engine (Table 10-3): the ciphertext of a cocoon's sector. -/
def State.cipherByte (s : State) (pa : Nat) : Byte :=
  match placeOf pa with
  | some (.hbm r) =>
    match s.cocoonOf r with
    | some c =>
      if (s.cocoon c).plain.contains (pa / 32) then
        (Config.xtsSeal (s.cocoon c).key (pa / 32) (rawBytes s.mem (pa / 32 * 32) 32)).getD (pa % 32) 0
      else s.raw pa
    | none => s.raw pa
  | _ => s.raw pa

/-- A cocoon's HBM3E sector in the form in which it is stored: under the cocoon's key (R320). -/
def State.shutSector (s : State) (pa : Nat) : State :=
  match placeOf pa with
  | some (.hbm r) =>
    match s.cocoonOf r with
    | some c =>
      let k := s.cocoon c
      if k.plain.contains (pa / 32) then
        { s.setCocoon c { k with plain := k.plain.filter (fun x => decide (x ≠ pa / 32)) } with
          mem := rawWrite s.mem (pa / 32 * 32) (padTo 32 (Config.xtsSeal k.key (pa / 32) (rawBytes s.mem (pa / 32 * 32) 32))) }
      else s
    | none => s
  | _ => s

/-- Sectors put into their stored form, from sector `k` upward. -/
def State.shutSectors (s : State) : Nat → Nat → State
  | _, 0 => s
  | k, n + 1 => State.shutSectors (s.shutSector (32 * k)) (k + 1) n

/-- Bytes that reach HBM3E below the XTS engine (R314, R327). -/
def State.storeRaw (s : State) (pa : Nat) (bs : List Byte) : State :=
  let s := s.shutSectors (pa / 32) (sectorSpan pa bs.length)
  { s with mem := rawWrite s.mem pa bs }

/-- An address lies in HBM3E of a cocoon that context `n` is not bound to: only an access that passed its check
before CREATE gets there, and it is not encrypted (R314). -/
def State.foreign (s : State) (n pa : Nat) : Bool :=
  match placeOf pa with
  | some (.hbm r) => (match s.cocoonOf r with | some c => s.boundTo n != some c | none => false)
  | _ => false

/-- Bytes that an access of context `n` stores, whatever became of the memory since its check (R314). -/
def State.storeAs (s : State) (n pa : Nat) (bs : List Byte) : State :=
  if s.foreign n pa then s.storeRaw pa bs else s.store pa bs

/-- A byte that such an access reads. -/
def State.byteAs (s : State) (n pa : Nat) : Byte := if s.foreign n pa then s.cipherByte pa else s.byte pa

/-- The little-endian number that such an access reads. -/
def State.wordAs (s : State) (n pa len : Nat) : Nat := leNat ((List.range len).map (fun i => s.byteAs n (pa + i)))

/-! ### Check bits (R230, R231) -/

/-- The protected unit of an address: an HBM3E sector of 32 bytes, a 64-bit word elsewhere, named by its
lowest address, with its size. -/
def eccUnit (pa : Nat) : Nat × Nat :=
  match placeOf pa with
  | some (.hbm _) => (pa / 32 * 32, 32)
  | _ => (pa / 8 * 8, 8)

/-- The units with an uncorrectable error that `n` bytes from an address touch. -/
def State.eccHits (s : State) (pa n : Nat) : List Nat :=
  s.ecc.filter (fun u => decide (u < pa + n) && decide (pa < u + (eccUnit u).2))

/-- The units that a write of `n` bytes covers whole. -/
def eccCovered (l : List Nat) (pa n : Nat) : List Nat :=
  l.filter (fun u => decide (pa ≤ u) && decide (u + (eccUnit u).2 ≤ pa + n))

/-- A write ends the errors of the units that it covers whole (R231). -/
def State.eccWrite (s : State) (pa n : Nat) : State :=
  { s with ecc := s.ecc.filter (fun u => !((eccCovered s.ecc pa n).contains u)) }

/-- Fresh identity for a launch, a group or a record of the model (log entry 12). -/
def State.fresh (s : State) : Nat × State := (s.nextId, { s with nextId := s.nextId + 1 })

end Sys2Proof.Machine
end

