-- ==== Sys2Proof/Machine/Csr.lean ====
section
/-! DEFINITION. The control space (R367–R374): where an offset lies, the fields that software writes, with
their class and reset value (the register tables of chapters 2 to 12), the stored words and the latched
values of class B fields, and when an H field's owning unit is idle. -/

namespace Sys2Proof.Machine

/-- A unit of Table 12-1. -/
inductive UnitAt where
  | chip
  | mon
  | sec
  | host
  | silk
  | reg (r : Nat)
  | blk (b : Nat)
  | cell (c : Nat)
  deriving DecidableEq, Repr

/-- The unit of a control space offset and the offset within it (Table 12-1). -/
def locate (off : Nat) : Option (UnitAt × Nat) :=
  if off < 0x100000 then some (.chip, off)
  else if off < 0x200000 then some (.mon, off - 0x100000)
  else if off < 0x300000 then some (.sec, off - 0x200000)
  else if off < 0x400000 then some (.host, off - 0x300000)
  else if off < 0x500000 then some (.silk, off - 0x400000)
  else if off < 0x800000 then none
  else if off < 0x1000000 then some (.reg ((off - 0x800000) / 0x100000), (off - 0x800000) % 0x100000)
  else if off < 0x1000000 + 640 * 0x4000 then
    let b := (off - 0x1000000) / 0x4000
    let o := (off - 0x1000000) % 0x4000
    if o < 0x2000 then some (.blk b, o)
    else some (.cell (b * 16 + (o - 0x2000) / 0x200), (o - 0x2000) % 0x200)
  else none

/-- The offset of a unit's base. -/
def UnitAt.base : UnitAt → Nat
  | .chip => 0
  | .mon => 0x100000
  | .sec => 0x200000
  | .host => 0x300000
  | .silk => 0x400000
  | .reg r => 0x800000 + r * 0x100000
  | .blk b => 0x1000000 + b * 0x4000
  | .cell c => 0x1000000 + c / 16 * 0x4000 + 0x2000 + c % 16 * 0x200

/-- The region that a unit belongs to, for units of a region. -/
def UnitAt.region : UnitAt → Option Nat
  | .reg r => some r
  | .blk b => some (blockRegion b)
  | .cell c => some (cellRegion c)
  | _ => none

/-- Field classes (R18). -/
inductive Cls where
  | held
  | boundary
  | live
  deriving DecidableEq, Repr

/-- A field that software writes: lowest bit, length, class, reset value. -/
structure RField where
  lo    : Nat
  len   : Nat
  cls   : Cls
  reset : Nat
  deriving DecidableEq, Repr

def fH (lo len : Nat) (reset : Nat := 0) : RField := ⟨lo, len, .held, reset⟩
def fB (lo len : Nat) (reset : Nat := 0) : RField := ⟨lo, len, .boundary, reset⟩
def fL (lo len : Nat) (reset : Nat := 0) : RField := ⟨lo, len, .live, reset⟩

/-- Whether `o` is an element's word in an array of `n` elements of `stride` bytes from `base`. -/
def inArr (o base stride n : Nat) : Bool :=
  decide (base ≤ o) && decide (o < base + stride * n) && decide ((o - base) % stride = 0)

/-- The nominal root of the part (R3, Table 1-13), in units of 10 MHz. -/
def nominalRoot (f : Fuses) : Nat := if f.bin = 1 then 920 else 840

/-- RW fields of the CHIP_ registers (Tables 5-5 to 5-7, 7-10 to 7-13, 11-13, 12-6). -/
def chipFields (f : Fuses) (o : Nat) : List RField :=
  if o = 0x000C then [fL 0 10 (nominalRoot f)]
  else if inArr o 0x1000 16 64 || inArr o 0x1004 16 64 then [fH 0 32]
  else if inArr o 0x1008 16 64 then [fB 0 32]
  else if inArr o 0x2000 16 64 then [fH 12 20]
  else if inArr o 0x2004 16 64 then [fH 0 16, fL 16 8, fL 24 1]
  else if o = 0x2400 then [fL 16 16]
  else if o = 0x2404 then [fL 0 16]
  else if o = 0x8028 then [fL 0 1, fL 1 1, fB 8 8 0x04, fB 16 8 0x40]
  else if o = 0x8030 ∨ o = 0x8034 then [fH 0 32]
  else if o = 0x8100 then [fH 0 6, fB 8 1, fB 12 4 0x4, fB 16 4 0xE, fB 24 8 0x20]
  else if o = 0x8104 ∨ o = 0x8108 ∨ o = 0x810C then [fB 0 32]
  else if o = 0x8110 then [fB 0 16 1]
  else if inArr o 0x8120 4 4 then [fH 0 32]
  else if o = 0x8130 ∨ o = 0x8134 then [fH 0 32]
  else if o = 0x8138 then [fH 0 5 0x0A, fB 8 1]
  else if o = 0x8154 then [fH 6 26]
  else if o = 0x8158 then [fH 0 16]
  else []

/-- RW fields of the MON_ registers (Table 12-6). Their fw values are set in boot phase 7 (log entry 3). -/
def monFields (o : Nat) : List RField :=
  if o = 0x0000 then [fB 0 13]
  else if o = 0x0010 then [fB 0 8]
  else []

/-- RW fields of the SEC_ registers (Table 10-12). -/
def secFields (o : Nat) : List RField :=
  if o = 0x0000 then [fH 6 26]
  else if o = 0x0004 then [fH 0 16]
  else []

/-- RW fields of the HOST_ registers (Tables 9-15 to 9-19). -/
def hostFields (o : Nat) : List RField :=
  if o = 0x0000 then [fH 0 12, fL 16 1]
  else if inArr o 0x0010 4 4 then [fH 0 32]
  else if o = 0x0020 then [fH 0 16]
  else if inArr o 0x0100 32 32 then [fL 0 1, fH 1 1, fH 16 16]
  else if inArr o 0x0104 32 32 then [fH 0 32]
  else if inArr o 0x0108 32 32 then [fH 0 16, fH 16 16]
  else if inArr o 0x0110 32 32 || inArr o 0x0114 32 32 || inArr o 0x0118 32 32 || inArr o 0x011C 32 32 then [fH 0 32]
  else if inArr o 0x1004 16 64 then [fH 0 16]
  else if inArr o 0x1008 16 64 then [fL 8 24]
  else if inArr o 0x100C 16 64 then [fL 0 16]
  else if o = 0x1804 then [fL 16 16]
  else if o = 0x1808 then [fL 0 16]
  else if o = 0x1C00 then [fH 16 16]
  else if o = 0x1C04 then [fH 0 16]
  else if o = 0x3004 then [fL 0 32]
  else if o = 0x3008 then [fL 0 16]
  else if inArr o 0x20000 64 1024 then [fL 0 1, fB 1 2, fH 16 16]
  else if inArr o 0x20004 64 1024 then [fH 7 25]
  else if inArr o 0x20008 64 1024 then [fH 0 16]
  else if inArr o 0x2000C 64 1024 then [fH 0 5 0x06]
  else if inArr o 0x20010 64 1024 then [fH 6 26]
  else if inArr o 0x20014 64 1024 then [fH 0 16]
  else if inArr o 0x40008 32 16384 then [fL 16 1]
  else if inArr o 0x40010 32 16384 || inArr o 0x40014 32 16384 then [fL 0 32]
  else []

/-- RW fields of the SILK_ registers (Tables 8-15 to 8-21). -/
def silkFields (o : Nat) : List RField :=
  if o = 0x0000 then [fH 0 16, fL 16 8 0x20]
  else if o = 0x0010 then [fB 0 8 0x20, fB 8 8 0x10, fL 16 1 1]
  else if o = 0x0014 then [fB 0 8 0x40, fB 8 2 2, fB 16 8 0xC0]
  else if o = 0x0018 then [fB 0 16 0x0100, fB 16 8 0x01]
  else if inArr o 0x0100 4 64 then [fH 0 16]
  else if inArr o 0x1000 64 25 then [fL 0 1, fH 1 2, fH 3 1 1, fB 8 8 0x08]
  else if inArr o 0x10000 8 4096 then [fB 0 1, fB 1 4, fB 5 2, fB 8 5, fB 13 1, fB 16 5, fB 21 1, fB 24 5, fB 29 1]
  else if inArr o 0x10004 8 4096 then [fB 0 5, fB 5 1]
  else if inArr o 0x20000 16 256 then [fL 0 1, fH 2 6, fH 8 1, fH 9 1, fH 10 1, fH 11 1, fH 12 1, fH 16 16]
  else if inArr o 0x20004 16 256 then [fH 0 8, fH 8 24]
  else if inArr o 0x20008 16 256 then [fH 0 32]
  else if inArr o 0x2000C 16 256 then [fH 0 16]
  else if decide (0x30000 ≤ o) && decide (o < 0x30800) && decide ((o - 0x30000) % 256 < 64) && decide (o % 4 = 0) then
    [fH 0 1, fH 1 6]
  else []

/-- RW fields of a region's registers (Tables 5-8, 5-14, 6-16, 7-16). -/
def regFields (o : Nat) : List RField :=
  if o = 0x10000 then [fL 0 1 1]
  else if o = 0x10100 then [fB 0 24 0x400, fB 24 1 1, fB 25 1, fB 26 1 1]
  else if o = 0x11000 then [fB 0 16, fB 16 8 0x40, fB 24 1 1]
  else if o = 0x50000 then [fL 0 1 1, fB 8 8 0x08, fB 16 8 0x40]
  else []

/-- RW fields of a block's registers (Tables 2-12, 4-19, 7-19). -/
def blkFields (o : Nat) : List RField :=
  if o = 0x0F0 then [fH 0 1 1]
  else if o = 0x200 then [fH 0 8 0x40]
  else if o = 0x300 then [fH 0 2 2]
  else []

/-- RW fields of a cell's registers (Tables 2-8, 4-17, 12-11); CELL_DBG_CTL.HALT is kept by the groups. -/
def cellFields (o : Nat) : List RField :=
  if o = 0x000 then [fL 0 1, fB 4 5 0x10]
  else if o = 0x084 then [fL 0 1]
  else if inArr o 0x110 8 4 then [fL 3 29]
  else if inArr o 0x114 8 4 then [fL 0 16, fL 31 1]
  else []

/-- The RW fields of the word at an offset. -/
def rwFields (f : Fuses) (off : Nat) : List RField :=
  match locate off with
  | some (.chip, o) => chipFields f o
  | some (.mon, o) => monFields o
  | some (.sec, o) => secFields o
  | some (.host, o) => hostFields o
  | some (.silk, o) => silkFields o
  | some (.reg _, o) => regFields o
  | some (.blk _, o) => blkFields o
  | some (.cell _, o) => cellFields o
  | none => []

/-- The reset value of a word's RW fields. -/
def resetWord (f : Fuses) (off : Nat) : Word :=
  (rwFields f off).foldl (fun w x => setFld w x.lo x.len x.reset) 0

/-- The value in force of the RW fields of a word. -/
def State.csrAt (s : State) (off : Nat) : Word := lookupD (resetWord s.fuses off) s.csr off

/-- A word's RW fields replaced. -/
def State.setCsr (s : State) (off : Nat) (v : Word) : State :=
  { s with csr := insertD (resetWord s.fuses off) s.csr off v }

/-- A field in force. -/
def State.csrF (s : State) (off lo len : Nat) : Nat := fld (s.csrAt off) lo len

/-- Bits of class B fields of a word. -/
def boundaryMask (fs : List RField) : Word :=
  fs.foldl (fun w x => if x.cls = .boundary then setFld w x.lo x.len (2 ^ x.len - 1) else w) 0

/-- What a read of the RW fields returns: latched values stand over values in force (R371). -/
def State.csrRead (s : State) (off : Nat) : Word :=
  match find s.csrPend off with
  | none => s.csrAt off
  | some p =>
    let m := boundaryMask (rwFields s.fuses off)
    (s.csrAt off &&& ~~~m) ||| (p &&& m)

/-- The boundary of the B fields in `mask` of a word: latched values apply (R371). -/
def State.applyB (s : State) (off : Nat) (mask : Word := 0xFFFFFFFF) : State :=
  match find s.csrPend off with
  | none => s
  | some p =>
    let all := boundaryMask (rwFields s.fuses off)
    let m := mask &&& all
    let cur := s.csrAt off
    let new := (cur &&& ~~~m) ||| (p &&& m)
    let s := s.setCsr off new
    if new &&& all = p &&& all then { s with csrPend := drop s.csrPend off } else s

/-! ### Offsets of registers that meanings read -/

def oSeedLo (n : Nat) : Nat := 0x1000 + 16 * n
def oSeedHi (n : Nat) : Nat := 0x1004 + 16 * n
def oStep (n : Nat) : Nat := 0x1008 + 16 * n
def oPtLo (n : Nat) : Nat := 0x2000 + 16 * n
def oPtHi (n : Nat) : Nat := 0x2004 + 16 * n
def oErrCfg : Nat := 0x8028
def oChryCfg : Nat := 0x8100
def oChryLogCfg : Nat := 0x8138
def oPwrCfg : Nat := 0x100000
def oThermCfg : Nat := 0x100010
def oHost (o : Nat) : Nat := 0x300000 + o
def oEp (e : Nat) : Nat := 0x300100 + 32 * e
def oCid (n : Nat) : Nat := 0x301004 + 16 * n
def oHtLo (n : Nat) : Nat := 0x301008 + 16 * n
def oHtHi (n : Nat) : Nat := 0x30100C + 16 * n
def oQ (q o : Nat) : Nat := 0x320000 + 64 * q + o
def oFence (f o : Nat) : Nat := 0x340000 + 32 * f + o
def oSilk (o : Nat) : Nat := 0x400000 + o
def oJob (n : Nat) : Nat := 0x400100 + 4 * n
def oPort (p : Nat) : Nat := 0x401000 + 64 * p
def oRoute (n : Nat) : Nat := 0x410000 + 8 * n
def oJwin (w o : Nat) : Nat := 0x420000 + 16 * w + o
def oCe (r c : Nat) : Nat := 0x430000 + 256 * r + 4 * c
def oReg (r o : Nat) : Nat := 0x800000 + 0x100000 * r + o
def oBlk (b o : Nat) : Nat := 0x1000000 + 0x4000 * b + o
def oCell (c o : Nat) : Nat := 0x1002000 + c / 16 * 0x4000 + c % 16 * 0x200 + o

/-- A context's seed and step (R153). -/
def State.seed (s : State) (n : Nat) : Seed :=
  ⟨(s.csrAt (oSeedLo n)).toNat, (s.csrAt (oSeedHi n)).toNat, (s.csrAt (oStep n)).toNat⟩

/-- A context's id (R285). -/
def State.cid (s : State) (n : Nat) : BitVec 16 := BitVec.ofNat 16 (s.csrF (oCid n) 0 16)

/-- The slot, not free, that holds a CID (R285). -/
def State.ctxOfCid (s : State) (cid : BitVec 16) : Option Nat :=
  (List.range 64).find? (fun n => decide ((s.ctx n).st ≠ 0) && decide (s.cid n = cid))

/-- This device's node id (R91, Table 8-17). -/
def State.node (s : State) : BitVec 16 := BitVec.ofNat 16 (s.csrF (oSilk 0) 0 16)

/-! ### Idleness of the units that own H fields (R370) -/

/-- A context has a resident group. -/
def State.ctxResident (s : State) (n : Nat) : Bool :=
  s.cells.any (fun c => c.2.groups.any (fun g => decide (g.2.ctx = n)))

/-- A context has an array entry. -/
def State.ctxArray (s : State) (n : Nat) : Bool :=
  s.cells.any (fun c => c.2.groups.any (fun g => decide (g.2.ctx = n) && !g.2.mxq.isEmpty))

/-- A run of a loaded program's FOLD task that has not completed. -/
def Skipper.folding (k : Skipper) : Bool :=
  match k.prog with
  | none => false
  | some p => k.runs.any (fun t => !t.done && (match (p.streams.getD t.q [])[t.t]? with
    | some d => decide (d.kind = 5)
    | none => false))

/-- A context has a fold at an accumulate port, or a FOLD task at work. -/
def State.ctxFolding (s : State) (n : Nat) : Bool :=
  s.regions.any (fun r => r.2.accPort.any (fun f => decide (f.ctx = n)) ||
    (decide (r.2.skip.ctx = n) && decide (r.2.skip.st = 2) && r.2.skip.folding))

/-- A context has a bound channel, a collective transfer or a DMA command at work. -/
def State.ctxEngine (s : State) (n : Nat) : Bool :=
  s.blocks.any (fun b => b.2.chans.any (fun c => c.2.q.any (fun w => decide (w.ctx = n)))) ||
  s.regions.any (fun r => r.2.ce.any (fun c => match c.2.xfer with | some x => decide (x.ctx = n) | none => false)) ||
  s.host.queues.any (fun q => q.2.running.any (fun k => decide (k.ctx = n) && k.begun && k.result.isNone))

/-- A context has a Skipper program in a running state. -/
def State.ctxSkipping (s : State) (n : Nat) : Bool :=
  s.regions.any (fun r => decide (r.2.skip.ctx = n) && decide (r.2.skip.st = 2 ∨ r.2.skip.st = 3))

/-- Idle as CHIP_SR_SEED_LO means it (Table 5-5). -/
def State.seedIdle (s : State) (n : Nat) : Bool := !s.ctxResident n && !s.ctxArray n && !s.ctxFolding n

/-- Idle as CHIP_PT_ROOT_LO means it (Table 7-10). -/
def State.rootIdle (s : State) (n : Nat) : Bool :=
  !s.ctxResident n && !s.ctxArray n && !s.ctxEngine n && !s.ctxSkipping n

/-- Resident groups of a block. -/
def State.blockResident (s : State) (b : Nat) : Bool :=
  (List.range 16).any (fun c => !(s.cell (b * 16 + c)).groups.isEmpty)

/-- A block's DMA engine has a transfer: a started COPY or FILL that names the block (bytes 40–41). -/
def State.dmaBusy (s : State) (b : Nat) : Bool :=
  s.host.queues.any (fun q => q.2.running.any (fun k =>
    k.begun && k.result.isNone && (leAt k.bytes 0 1 == 3 || leAt k.bytes 0 1 == 4) && leAt k.bytes 40 2 == b))

/-- A matched request of a job window is still in service: its response is held for sharers (R266, R271). -/
def State.jwinInUse (s : State) (w : Nat) : Bool :=
  let job := s.csrF (oJwin w 0) 16 16
  let win := s.csrF (oJwin w 4) 0 8
  s.regions.any (fun r => r.2.sharers.any (fun h => h.2.held.any (fun f =>
    decide (f.tx.job.toNat = job) && decide (f.tx.window.toNat = win))))

/-- Whether the unit that owns the H fields of a word is idle, as the fields' Meaning defines it. -/
def idle (s : State) (u : UnitAt) (o : Nat) : Bool :=
  match u with
  | .chip =>
    if inArr o 0x1000 16 64 || inArr o 0x1004 16 64 then s.seedIdle ((o - 0x1000) / 16)
    else if inArr o 0x2000 16 64 || inArr o 0x2004 16 64 then s.rootIdle ((o - 0x2000) / 16)
    else if o = 0x8030 ∨ o = 0x8034 then decide (s.csrF oErrCfg 1 1 = 0)
    else if o = 0x8100 || inArr o 0x8120 4 4 then decide (s.csrF oChryCfg 8 1 = 0) && !s.chip.chry.busy
    else if o = 0x8130 ∨ o = 0x8134 ∨ o = 0x8138 then decide (s.csrF oChryLogCfg 8 1 = 0)
    else !s.chip.chry.cmdBusy
  | .mon => true
  | .sec => !s.sec.busy
  | .host =>
    if o < 0x0100 then decide (s.csrF (oPort 24) 0 1 = 0)
    else if o < 0x0500 then decide (s.csrF (oEp ((o - 0x100) / 32)) 0 1 = 0)
    else if o < 0x1800 then decide ((s.ctx ((o - 0x1000) / 16)).st = 0)
    else if o < 0x20000 then (List.range 64).all (fun n => decide ((s.ctx n).st = 0))
    else decide (s.csrF (oQ ((o - 0x20000) / 64) 0) 0 1 = 0)
  | .silk =>
    if o = 0x0000 then s.silk.links.all (fun l => !l.2.up)
    else if inArr o 0x0100 4 64 then s.rootIdle ((o - 0x100) / 4)
    else if o < 0x10000 then decide (s.csrF (oPort ((o - 0x1000) / 64)) 0 1 = 0)
    else if o < 0x30000 then
      decide (s.csrF (oJwin ((o - 0x20000) / 16) 0) 0 1 = 0) && !s.jwinInUse ((o - 0x20000) / 16)
    else !(lookupD {} (s.region ((o - 0x30000) / 256)).ce ((o - 0x30000) % 256 / 4)).busy
  | .reg _ => true
  | .blk b =>
    if o = 0x0F0 then (s.block b).bars.all (fun x => !x.2.inUse)
    else if o = 0x200 then !s.blockResident b
    else !s.blockResident b && (s.block b).chans.all (fun c => c.2.q.isEmpty) && !s.dmaBusy b
  | .cell _ => true

/-- The outcome of the fields of one write: value in force, latched value, lowest dropped bit. -/
structure FieldWrite where
  cur  : Word
  pend : Option Word
  rej  : Option Nat
  deriving DecidableEq, Repr

/-- One field of a write (R370–R372). -/
def writeField (unitIdle : Bool) (v old : Word) (a : FieldWrite) (x : RField) : FieldWrite :=
  match x.cls with
  | .live => { a with cur := setFld a.cur x.lo x.len (fld v x.lo x.len) }
  | .boundary => { a with pend := some (setFld (a.pend.getD old) x.lo x.len (fld v x.lo x.len)) }
  | .held =>
    if fld v x.lo x.len = fld old x.lo x.len then a
    else if unitIdle then { a with cur := setFld a.cur x.lo x.len (fld v x.lo x.len) }
    else { a with rej := match a.rej with | some b => some (min b x.lo) | none => some x.lo }

/-- A register counts a rejected write (R373, Table 12-2). -/
def State.countReject (s : State) (off lowBit : Nat) : State :=
  { s with chip := { s.chip with rejCount := satInc s.chip.rejCount, rejBit := BitVec.ofNat 8 lowBit,
                                 rejAddr := BitVec.ofNat 32 off } }

/-- The RW fields of a word written, every H field judged as things stood before (R373): the state, and
the lowest bit of a dropped field. `keep` masks H fields that this write may not change (R315). -/
def State.writeFields (s : State) (off : Nat) (v : Word) (keep : Word := 0) : State × Option Nat :=
  match locate off with
  | none => (s, none)
  | some (u, o) =>
    let fs := rwFields s.fuses off
    let old := s.csrRead off
    let cur := s.csrAt off
    let v := (v &&& ~~~keep) ||| (old &&& keep)
    let r := fs.foldl (writeField (idle s u o) v old) { cur := cur, pend := none, rej := none }
    let s := s.setCsr off r.cur
    match r.pend with
    | none => (s, r.rej)
    | some p => ({ s with csrPend := put s.csrPend off p }, r.rej)

end Sys2Proof.Machine
end

