-- ==== Sys2Proof/Machine/Antenna.lean ====
section
/-! DEFINITION. A region's Antenna table (R157–R160, Tables 5-8 to 5-11). -/

namespace Sys2Proof.Machine

/-- What one drain counts: elements written, and those that are non-finite, saturated or zero. -/
structure AntCount where
  written : Nat := 0
  nonfin  : Nat := 0
  sats    : Nat := 0
  zeros   : Nat := 0
  deriving DecidableEq, Repr

/-- One element counted, in the order of R157. -/
def AntCount.add (c : AntCount) (nonfin sat zero : Bool) : AntCount :=
  { written := c.written + 1
    nonfin := c.nonfin + b2n nonfin
    sats := c.sats + b2n (!nonfin && sat)
    zeros := c.zeros + b2n (!nonfin && !sat && zero) }

/-- Counts added to an entry; they saturate (R160). -/
def AntEntry.count (e : AntEntry) (c : AntCount) : AntEntry :=
  { e with written := satInc e.written c.written, nonfin := satInc e.nonfin c.nonfin,
           sats := satInc e.sats c.sats, zeros := satInc e.zeros c.zeros }

/-- An entry of a table. -/
def Antenna.entry (a : Antenna) (n : Nat) : AntEntry := lookupD {} a.entries n

/-- A drain of tensor `t` of context `ctx` counted in the table (R158). -/
def Antenna.drain (a : Antenna) (t : Word) (ctx : Nat) (c : AntCount) : Antenna :=
  let n := t.toNat % 4096
  let e := a.entry n
  if !e.valid then
    { a with entries := insertD {} a.entries n (({ id := t, ctx := ctx, valid := true } : AntEntry).count c) }
  else if e.id = t ∧ e.ctx = ctx then { a with entries := insertD {} a.entries n (e.count c) }
  else
    { a with entries := insertD {} a.entries n { e with collide := satInc e.collide }, collisions := satInc a.collisions }

/-- A drain counted in a region, unless R159 excludes it. -/
def State.antDrain (s : State) (r : Nat) (t : Word) (ctx : Nat) (mute : Bool) (c : AntCount) : State :=
  if t = 0 ∨ mute = true ∨ s.csrF (oReg r 0x10000) 0 1 = 0 then s
  else
    let v := s.region r
    s.setRegion r { v with ant := v.ant.drain t ctx c }

/-- Every entry cleared, and COLLISIONS (Table 5-9). -/
def State.antClearAll (s : State) (r : Nat) : State :=
  let v := s.region r
  s.setRegion r { v with ant := { v.ant with entries := [], collisions := 0 } }

/-- One entry cleared. -/
def State.antClearOne (s : State) (r n : Nat) : State :=
  let v := s.region r
  s.setRegion r { v with ant := { v.ant with entries := insertD {} v.ant.entries n {} } }

/-- A write of REG_ANT_CLEAR: ONE is ignored when ALL = 1. -/
def State.antClear (s : State) (r : Nat) (v : Word) : State :=
  if bit v 0 then s.antClearAll r else if bit v 1 then s.antClearOne r (fld v 16 12) else s

/-- A read of word 0 of an entry latches its words 1 to 7 (R160). -/
def State.antLatch (s : State) (r n : Nat) : State :=
  let v := s.region r
  s.setRegion r { v with ant := { v.ant with shadow := some (n, v.ant.entry n) } }

/-- ANT_ENTRY_WORD0_READ. -/
def execAntEntryWord0Read (r n : Nat) (s : State) : Out1 :=
  if r < 8 ∧ n < 4096 then .next (if s.regionUp r then s.antLatch r n else s) else .fault .noSuchUnit

end Sys2Proof.Machine
end

