-- ==== Sys2Proof/Machine/Translate.lean ====
section
/-! DEFINITION. Context page tables (R234–R239), the leaves that MAP and UNSEAL install for a bound context
(R315, R316), held translations (R237) and the cocoon check of every access (R318). -/

namespace Sys2Proof.Machine

/-- What an access does, for the permission check of R236. -/
inductive Mode where
  | load
  | store
  | atomic
  | fetch
  deriving DecidableEq, Repr

/-- A translation's result: an address and whether its page is NC, a fault, or the address of a table entry
whose read met an uncorrectable error (R237). -/
inductive Tr where
  | ok (pa : Nat) (nc : Bool)
  | xlate
  | perm
  | ecc (pa : Nat)
  deriving DecidableEq, Repr

/-- What a walk finds: a leaf, no valid translation, a leaf whose page lies in a hole (R211), an uncorrectable
error, or a table in cocoon memory (R318). -/
inductive Walk where
  | leaf (e : TlbEntry)
  | bad
  | hole (pa : Nat)
  | ecc (pa : Nat)
  | refused
  deriving DecidableEq, Repr

/-- Bytes that the block cache takes from the top of a block memory (Table 7-19). -/
def State.cacheBytes (s : State) (b : Nat) : Nat :=
  match s.csrF (oBlk b 0x300) 0 2 with
  | 0 => 0
  | 1 => 0x40000
  | 2 => 0x80000
  | _ => 0x100000

/-- Whether a page may be mapped: in a memory range, outside holes and block cache parts (R236). -/
def State.pageOk (s : State) (pa size : Nat) : Bool :=
  s.inMem pa size && (match placeOf pa with
    | some (.blk b) => decide ((pa - blkBase) % 0x200000 + size ≤ 0x200000 - s.cacheBytes b)
    | _ => true)

/-- Whether a page lies in a range of Table 7-2 that is a hole now (R211). -/
def State.isHole (s : State) (pa : Nat) : Bool := (placeOf pa).isSome && (s.placeAt pa).isNone

/-- The leaf entry `e` at 64 KiB page `vpage`, `pages` long: its reserved bits, alignment, place and
generation checked (R236, Table 7-9). -/
def leafOf (s : State) (n gen e va vpage pages : Nat) : Walk :=
  let pa := nfld e 8 40 * 256
  if nfld e 6 2 ≠ 0 ∨ nfld e 56 8 ≠ 0 then .bad
  else if pa % (pages * 0x10000) ≠ 0 then .bad
  else if nfld e 48 8 ≠ gen then .bad
  else if !s.pageOk pa (pages * 0x10000) then (if s.isHole pa then .hole (pa + (va / 0x10000 - vpage) * 0x10000) else .bad)
  else .leaf { ctx := n, gen := gen, vpage := vpage, pages := pages, pa := pa,
               r := nfld e 2 1 == 1, w := nfld e 3 1 == 1, x := nfld e 4 1 == 1, nc := nfld e 5 1 == 1 }

/-- The levels of Table 7-8 from the root down: index position and length, and whether a leaf may, or
must, stand there, with the pages it maps. -/
def ptLevels : List (Nat × Nat × Nat × Nat) := [(39, 9, 0, 0), (30, 9, 0, 0), (21, 9, 1, 32), (16, 5, 2, 1)]

/-- The walk through the tables of a context that no cocoon binds (R234–R236): every entry is read at its coherence
point. An entry in cocoon memory is refused as every access from outside is (R318; log entry 138). -/
def walkFrom (s : State) (n gen va : Nat) : List (Nat × Nat × Nat × Nat) → Nat → Walk
  | [], _ => .bad
  | (lo, len, leafy, pages) :: rest, tbl =>
    let align := if leafy = 2 then 256 else 4096
    let ea := tbl + 8 * nfld va lo len
    if tbl % align ≠ 0 ∨ !s.inDram tbl align then .bad
    else if (s.cocoonAt ea).isSome then .refused
    else if !(s.eccHits ea 8).isEmpty then .ecc ea
    else
      let e := s.word ea 8
      if nfld e 0 1 = 0 then .bad
      else if nfld e 1 1 = 1 then
        if leafy = 0 then .bad else leafOf s n gen e va (va / 0x10000 / pages * pages) pages
      else if leafy = 2 then .bad
      else if nfld e 2 6 ≠ 0 ∨ nfld e 48 16 ≠ 0 then .bad
      else walkFrom s n gen va rest (nfld e 8 40 * 256)

/-- The root table address of a context (Tables 7-10, 7-11). -/
def State.ptRoot (s : State) (n : Nat) : Nat := s.csrF (oPtLo n) 12 20 * 4096 + s.csrF (oPtHi n) 0 16 * two32

/-- The leaf that MAP or UNSEAL installed for a bound context (R316). -/
def State.secLeaf (s : State) (n c va : Nat) : Option SecLeaf :=
  if va / 2 ^ 47 % 2 = 1 then (s.cocoon c).upper.find? (fun l => decide (l.vpage = va / 0x10000))
  else (s.sec.lower.find? (fun l => decide (l.1 = n) && decide (l.2.vpage = va / 0x10000))).map (·.2)

/-- A context's walk of an address: through its own tables, or through those that Monarch keeps for a
bound context (R234, R315; log entry 14). -/
def State.walk (s : State) (n va : Nat) : Walk :=
  let gen := s.csrF (oPtHi n) 16 8
  match s.boundTo n with
  | none => walkFrom s n gen va ptLevels (s.ptRoot n)
  | some c =>
    match s.secLeaf n c va with
    | none => .bad
    | some l =>
      if s.pageOk l.pa 0x10000 then
        .leaf { ctx := n, gen := gen, vpage := l.vpage, pages := 1, pa := l.pa, r := l.r, w := l.w, x := l.x, nc := l.nc }
      else if s.isHole l.pa then .hole l.pa
      else .bad

/-- A leaf's permission and the cocoon check of R318 for an access to an address. -/
def leafResult (s : State) (e : TlbEntry) (va : Nat) (m : Mode) : Tr :=
  let pa := (e.pa / 0x10000 + (va / 0x10000 - e.vpage)) * 0x10000 + va % 0x10000
  let allowed := match m with
    | .load => e.r
    | .store => e.w
    | .atomic => e.r && e.w
    | .fetch => e.x
  let mine := match s.cocoonAt pa with
    | none => true
    | some c => s.boundTo e.ctx == some c
  if allowed && mine then .ok pa e.nc else .perm

/-- The held translation of an address, if some TLB may have one (R237). -/
def State.tlbFind (s : State) (n gen va : Nat) : Option TlbEntry :=
  s.chip.tlb.find? (fun e => decide (e.ctx = n) && decide (e.gen = gen) &&
    decide (e.vpage ≤ va / 0x10000) && decide (va / 0x10000 < e.vpage + e.pages))

/-- A translation held from now on; it takes the place of an older one of the same page. -/
def State.tlbAdd (s : State) (e : TlbEntry) : State :=
  { s with chip := { s.chip with tlb := e :: s.chip.tlb.filter (fun x => !(decide (x.ctx = e.ctx) && decide (x.vpage = e.vpage))) } }

/-- A translation by a walk; no TLB holds a failed one (R237). -/
def State.walkTo (s : State) (n va : Nat) (m : Mode) : Tr × State :=
  match s.walk n va with
  | .bad => (.xlate, s)
  | .hole _ => (.xlate, s)
  | .ecc pa => (.ecc pa, s)
  | .refused => (.perm, s)
  | .leaf e => (leafResult s e va m, s.tlbAdd e)

/-- The translation of a virtual address of context `n` (R236): a held translation where one is still
held (log entry 6), else a walk. The flag tells whether it took a walk (R99). -/
def State.translateW (s : State) (n va : Nat) (m : Mode) : (Tr × Bool) × State :=
  if 2 ^ 48 ≤ va ∨ s.csrF (oPtHi n) 24 1 = 0 then ((.xlate, false), s)
  else match s.tlbFind n (s.csrF (oPtHi n) 16 8) va with
    | none => let w := s.walkTo n va m; ((w.1, true), w.2)
    | some e =>
      let h := s.held
      if h.1 then ((leafResult s e va m, false), h.2) else let w := h.2.walkTo n va m; ((w.1, true), w.2)

/-- The translation alone. -/
def State.translate (s : State) (n va : Nat) (m : Mode) : Tr × State :=
  let r := s.translateW n va m
  (r.1.1, r.2)

/-- The refused address, where an engine's address maps to a hole (R211, R352). -/
def State.holeAt (s : State) (n va : Nat) : Option Nat :=
  match s.walk n va with
  | .hole pa => some (pa + va % 0x10000)
  | _ => none

/-- The fault code of a failed translation (Table 3-22). -/
def Tr.code : Tr → Option (BitVec 16)
  | .ok _ _ => none
  | .xlate => some 0x010B
  | .perm => some 0x010C
  | .ecc _ => some 0x0502

/-- The pages, 64 KiB each, that `n` bytes from an address touch. -/
def pageSpan (va n : Nat) : List Nat :=
  if n = 0 then [] else (List.range ((va + n - 1) / 0x10000 - va / 0x10000 + 1)).map (fun i => va / 0x10000 + i)

/-- Every page of a range translated: the physical page of each, or the first failure with its address. -/
def State.translatePages (s : State) (n va : Nat) (m : Mode) : List Nat → Except (Tr × Nat) (List (Nat × Nat)) × State
  | [] => (.ok [], s)
  | p :: ps =>
    let a := max va (p * 0x10000)
    let t := s.translate n a m
    match t.1 with
    | .ok pa _ =>
      let r := t.2.translatePages n va m ps
      (match r.1 with
        | .ok l => .ok ((p, pa / 0x10000) :: l)
        | .error e => .error e, r.2)
    | f => (.error (f, a), t.2)

/-- A byte range translated: the physical pieces (address, length) in order, or the first failure. -/
def State.range (s : State) (n va len : Nat) (m : Mode) : Except (Tr × Nat) (List (Nat × Nat)) × State :=
  let r := s.translatePages n va m (pageSpan va len)
  (match r.1 with
    | .error e => .error e
    | .ok l => .ok (l.map (fun x =>
        let lo := max va (x.1 * 0x10000)
        let hi := min (va + len) ((x.1 + 1) * 0x10000)
        (x.2 * 0x10000 + lo % 0x10000, hi - lo))), r.2)

/-- The bytes of physical pieces. -/
def State.pieces (s : State) (l : List (Nat × Nat)) : List Byte := l.flatMap (fun p => s.bytes p.1 p.2)

/-- Bytes stored over physical pieces. -/
def State.storePieces (s : State) : List (Nat × Nat) → List Byte → State
  | [], _ => s
  | (pa, n) :: r, bs => (s.store pa (bs.take n)).storePieces r (bs.drop n)

end Sys2Proof.Machine
end

