-- ==== Sys2Proof/Machine/Silk.lean ====
section
/-! DEFINITION. Silk frames as the device forms and sends them (chapter 8): headers, lanes, tags, the choice
of a hop (R255, R256), a link's credits, replay buffer and queue (R249, R251, R259), and encryption under a
key slot (R321). -/

namespace Sys2Proof.Machine

/-- Opcodes of Table 8-5. -/
def opLoad : BitVec 6 := 0x01
def opStore : BitVec 6 := 0x02
def opAtomic : BitVec 6 := 0x03
def opInv : BitVec 6 := 0x04
def opRtrig : BitVec 6 := 0x05
def opPut : BitVec 6 := 0x06
def opGet : BitVec 6 := 0x07
def opColl : BitVec 6 := 0x08
def opPermute : BitVec 6 := 0x09
def opResp : BitVec 6 := 0x20
def opInval : BitVec 6 := 0x21
def opInvalAck : BitVec 6 := 0x22
def opMgmt : BitVec 6 := 0x30
def opEpochDone : BitVec 6 := 0x31

/-- NAK codes of Table 8-10. -/
def nakNowin : BitVec 8 := 0x01
def nakBounds : BitVec 8 := 0x02
def nakPerm : BitVec 8 := 0x03
def nakXlate : BitVec 8 := 0x04
def nakNoroute : BitVec 8 := 0x05
def nakTtl : BitVec 8 := 0x06
def nakBadreq : BitVec 8 := 0x07
def nakBusy : BitVec 8 := 0x08
def nakNohandler : BitVec 8 := 0x09
def nakEpoch : BitVec 8 := 0x0A
def nakChan : BitVec 8 := 0x0B
def nakTimeout : BitVec 8 := 0x0C
def nakDecrypt : BitVec 8 := 0x0D

/-- The device itself, among links. -/
def selfLink : Nat := 64

/-- The SILK port of a link: the host port is port 24 (R242). -/
def linkPort (l : Nat) : Nat := if l < 24 then l else 24

/-- The forwarding slice that serves a link (R22): the owning region's; the shared area's for the host. -/
def linkSlice (l : Nat) : Nat := if l < 24 then l / 3 else 0

/-- Whether a frame is a request, which a RESP answers. -/
def isRequest (f : Frame) : Bool := !f.tx.rsp && (decide (f.tx.op.toNat < 0x20) || decide (f.tx.op = opMgmt))

/-- A combinable request: class C (Table 8-3). -/
def isClassC (f : Frame) : Bool :=
  !f.tx.rsp && (decide (f.tx.op = opAtomic) || decide (f.tx.op = opInv) || decide (f.tx.op = opRtrig) ||
    (decide (f.tx.op = opLoad) && decide (f.tx.offset.toNat % 64 + f.tx.len.toNat + 1 ≤ 64)))

/-- The first lane of a frame's class (R247). -/
def laneOf (t : TxHdr) : BitVec 3 :=
  if t.op = opMgmt ∨ t.op = opEpochDone then 0
  else if t.rsp then 5
  else if isClassC { link := ⟨1, 0, 0, false, false, 0, 0, 0, 0, 0⟩, tx := t, payload := [], trailer := [] } then 1
  else 3

/-- Bytes of a frame that credits count (R251). -/
def frameBytes (f : Frame) : Nat := 32 + f.payload.length + f.trailer.length

/-- Credits that a frame uses (R251). -/
def frameCredits (f : Frame) : Nat := (frameBytes f + 63) / 64

/-- A frame with an empty link header on the lane of its class. -/
def mkFrame (t : TxHdr) (payload : List Byte) : Frame :=
  { link := ⟨1, 0, laneOf t, false, false, 0, 0, 0, 0, 0⟩, tx := t, payload := payload, trailer := [] }

/-- A request's transaction header, all other fields zero. -/
def reqHdr (op : BitVec 6) (dst src tag job : BitVec 16) (window : BitVec 8) (offset : BitVec 40)
    (len : Nat) (ttl : BitVec 8) : TxHdr :=
  { op := op, rsp := false, enc := false, status := 0, dst := dst, src := src, tag := tag, job := job,
    window := window, offset := offset, epoch := 0, len := BitVec.ofNat 12 (len - 1), aop := 0, ttl := ttl,
    ch := 0, last := false, cacheok := false, rsv := 0 }

/-- The parts of a Silk address (R81): node, window, offset. -/
def addrNode (a : DWord) : BitVec 16 := BitVec.ofNat 16 (fld a 48 16)
def addrWindow (a : DWord) : BitVec 8 := BitVec.ofNat 8 (fld a 40 8)
def addrOffset (a : DWord) : BitVec 40 := BitVec.ofNat 40 (fld a 0 40)

/-- The Silk address of a frame's target. -/
def frameAddr (t : TxHdr) : DWord :=
  BitVec.ofNat 64 (t.dst.toNat * 2 ^ 48 + t.window.toNat * 2 ^ 40 + t.offset.toNat)

/-- TTL of new requests (R255). -/
def State.ttl (s : State) : BitVec 8 := BitVec.ofNat 8 (s.csrF (oSilk 0) 16 8)

/-- The job id of a context (R270). -/
def State.job (s : State) (n : Nat) : BitVec 16 := BitVec.ofNat 16 (s.csrF (oJob n) 0 16)

/-- The response to a request (R248): JOB, WINDOW, OFFSET and TAG repeat the request's. -/
def respFrame (s : State) (f : Frame) (status : BitVec 8) (payload : List Byte) (cacheok : Bool := false) : Frame :=
  mkFrame { op := opResp, rsp := true, enc := false, status := status, dst := f.tx.src, src := s.node,
            tag := f.tx.tag, job := f.tx.job, window := f.tx.window, offset := f.tx.offset, epoch := 0,
            len := BitVec.ofNat 12 (payload.length - 1), aop := 0, ttl := s.ttl, ch := 0, last := false,
            cacheok := cacheok, rsv := 0 } payload

/-! ### Encryption (R321) -/

/-- The transaction header as its 24 bytes, most significant byte first (R9, Table 8-4). -/
def hdrBytes (t : TxHdr) : List Byte :=
  let w0 := t.op.toNat * 2 ^ 58 + b2n t.rsp * 2 ^ 57 + b2n t.enc * 2 ^ 56 + t.status.toNat * 2 ^ 48 +
    t.dst.toNat * 2 ^ 32 + t.src.toNat * 2 ^ 16 + t.tag.toNat
  let w1 := t.job.toNat * 2 ^ 48 + t.window.toNat * 2 ^ 40 + t.offset.toNat
  let w2 := t.epoch.toNat * 2 ^ 48 + t.len.toNat * 2 ^ 36 + t.aop.toNat * 2 ^ 32 + t.ttl.toNat * 2 ^ 24 +
    t.ch.toNat * 2 ^ 20 + b2n t.last * 2 ^ 19 + b2n t.cacheok * 2 ^ 18 + t.rsv.toNat
  (leBytes 8 w0).reverse ++ (leBytes 8 w1).reverse ++ (leBytes 8 w2).reverse

/-- The additional authenticated data: the header with TTL and LAST zero, then SEQ. -/
def gcmAad (t : TxHdr) (seq : Nat) : List Byte :=
  hdrBytes { t with ttl := 0, last := false } ++ (leBytes 4 seq).reverse

/-- The nonce: SRC, 16 zero bits, the 64-bit counter. -/
def gcmNonce (src : BitVec 16) (counter : Nat) : BitVec 96 := BitVec.ofNat 96 (src.toNat * 2 ^ 80 + counter)

/-- The key slot that holds a job id. -/
def State.slotOfJob (s : State) (job : BitVec 16) : Option Nat :=
  (List.range 16).find? (fun k => (s.keySlot k).valid && decide ((s.keySlot k).job = job))

/-- A frame sealed under the slot of its JOB, the slot's counter advanced; none when no slot holds it or
the counter has run out. -/
def State.seal (s : State) (f : Frame) : Option (Frame × State) :=
  match s.slotOfJob f.tx.job with
  | none => none
  | some k =>
    let ks := s.keySlot k
    if ks.counter = 0xFFFFFFFFFFFFFFFF then none
    else
      let t := { f.tx with enc := true }
      let seq := ks.counter.toNat % two32
      let c := Config.gcmSeal ks.key (gcmNonce t.src ks.counter.toNat) (gcmAad t seq) f.payload
      some ({ f with tx := t, payload := c.1, trailer := (leBytes 4 seq).reverse ++ c.2 },
        s.setKeySlot k { ks with counter := ks.counter + 1 })

/-- The counter value whose low 32 bits are SEQ and which lies nearest the highest authenticated one (R322). -/
def nearCounter (highest seq : Nat) : Nat :=
  let c := highest / two32 * two32 + seq
  if c + two32 / 2 < highest ∨ (c + two32 / 2 = highest) then c + two32
  else if highest + two32 / 2 < c ∧ two32 ≤ c then c - two32
  else c

/-- A frame opened under a key slot: its payload, and the state with the highest counter of its source; none
where authentication fails (R321, R322). -/
def State.unseal (s : State) (k : Nat) (f : Frame) : Option (List Byte × State) :=
  let ks := s.keySlot k
  let src := f.tx.src.toNat % 4096
  let high := (lookupD 0 ks.highest src).toNat
  let seq := (leNat (f.trailer.take 4).reverse)
  let c := nearCounter high seq
  if f.trailer.length ≠ 16 ∨ c + two32 / 2 < high ∨ 2 ^ 64 ≤ c then none
  else match Config.gcmOpen ks.key (gcmNonce f.tx.src c) (gcmAad f.tx seq) f.payload (f.trailer.drop 4) with
    | none => none
    | some p => some (p, s.setKeySlot k { ks with highest := insertD 0 ks.highest src (BitVec.ofNat 64 (max high c)) })

/-! ### Links -/

/-- Bytes held in a link's replay buffer. -/
def replayBytes (k : Link) : Nat := k.replay.foldl (fun a f => a + frameBytes f) 0

/-- The 802.1p priority of a lane (Table 8-3). -/
def lanePcp (lane : BitVec 3) : Nat :=
  match lane.toNat with
  | 0 => 7
  | 1 => 5
  | 2 => 5
  | 3 => 3
  | 4 => 3
  | _ => 4

/-- Whether priority-based flow control holds a lane of a host association (R242, R259). -/
def State.pfcPaused (s : State) (l : Nat) (lane : BitVec 3) : Bool :=
  decide (24 ≤ l) && decide (lane ≠ 0) && bit (s.link 24).paused (lanePcp lane)

/-- Whether a link may send a frame now: up, with credits for its lane, room in the replay buffer, and the
lane allowed (R249, R251, R278, R344). -/
def State.mayTransmit (s : State) (l : Nat) (f : Frame) : Bool :=
  let k := s.link l
  k.up && decide (frameCredits f ≤ lookupD 0 k.credits f.link.lane.toNat) && decide (k.replay.length < 16384) &&
  decide (replayBytes k + frameBytes f ≤ 0x80000) && !s.pfcPaused l f.link.lane &&
  (decide (f.link.lane = 0) || (!(s.link (linkPort l)).quar && !s.chip.errs.locked))

/-! ### What stands in front of a frame (R243, R244) -/

/-- A port's MAC address (Table 12-10): set with the `fw` fields (log entry 3). -/
def State.portMac (s : State) (p : Nat) : Nat := if s.boot.phase = 8 then (s.fuses.macBase.toNat + p) % 2 ^ 48 else 0

/-- The MAC address that HELLO frames are sent to. -/
def broadcastMac : BitVec 48 := 0xFFFFFFFFFFFF

/-- A field of 128 bits in four register words. -/
def State.csr128 (s : State) (o : Nat) : BitVec 128 :=
  BitVec.ofNat 128 ((List.range 4).foldl (fun a i => a + s.csrF (o + 4 * i) 0 32 * 2 ^ (32 * i)) 0)

/-- An endpoint's MAC and IPv6 addresses (Table 9-16), and the device's own IPv6 address (Table 9-15). -/
def State.epMac (s : State) (e : Nat) : BitVec 48 := BitVec.ofNat 48 (s.csrF (oEp e + 4) 0 32 + s.csrF (oEp e + 8) 0 16 * two32)
def State.epIp (s : State) (e : Nat) : BitVec 128 := s.csr128 (oEp e + 16)
def State.ownIp (s : State) : BitVec 128 := s.csr128 (oHost 0x10)

/-- The envelope of a frame that goes out by a link, for a lane and a flowlet hash (R243, R244, R282). -/
def State.envTo (s : State) (l : Nat) (hello : Bool) (lane : BitVec 3) (fh : BitVec 16) : Envelope :=
  let pcp := lanePcp lane
  if l < 24 then
    { dstMac := if hello then broadcastMac else (s.link l).peerMac, srcMac := BitVec.ofNat 48 (s.portMac l)
      pcp := BitVec.ofNat 3 pcp, fh := fh }
  else
    { dstMac := s.epMac (l - 32), srcMac := BitVec.ofNat 48 (s.portMac 24), pcp := BitVec.ofNat 3 pcp
      vid := BitVec.ofNat 12 (s.csrF (oHost 0) 0 12), etherType := 0x86DD, fh := fh
      ip := some {
        tclass := BitVec.ofNat 8 (8 * pcp), src := s.ownIp, dst := s.epIp (l - 32)
        sport := BitVec.ofNat 16 (0xC000 + fh.toNat % 2 ^ 14), dport := BitVec.ofNat 16 (s.csrF (oEp (l - 32) + 8) 16 16) } }

/-- The flowlet hash (R256). -/
def flowHash (src dst : BitVec 16) (lane gen : Nat) : BitVec 16 :=
  let rot := (dst.toNat * 32 + dst.toNat / 2048) % 65536
  src ^^^ BitVec.ofNat 16 (rot ^^^ (lane * 0x2493 % 65536) ^^^ (gen * 0x0101))

/-- A link control frame sent (R246, R248): its header acknowledges what has been received in order, but for a HELLO,
which begins new LSEQ spaces; `cr` is the lane and the credits that it returns. Its flowlet hash names the two ends and
lane 0 (DESIGN CHOICE, log entry 133). -/
def State.control (s : State) (l : Nat) (op : CtlOp) (cr : Option (Nat × Nat) := none) : State :=
  let k := s.link l
  let hello := match op with | .hello _ _ _ => true | _ => false
  let peer := if l < 24 then k.peerNode else BitVec.ofNat 16 (s.csrF (oEp (l - 32)) 16 16)
  let h : LinkHdr := { ctlLink with
    ackv := !hello, ackseq := if hello then 0 else k.rxNext - 1, crv := cr.isSome
    crlane := BitVec.ofNat 3 ((cr.getD (0, 0)).1), credits := BitVec.ofNat 12 ((cr.getD (0, 0)).2) }
  s.emit (.control l { link := h, env := s.envTo l hello 0 (flowHash s.node peer 0 0) } op)

/-- Receive buffer of a lane in credits (Table 8-6). -/
def laneBuffer (lane : Nat) : Nat :=
  match lane with
  | 0 => 512
  | 1 => 1024
  | 2 => 1024
  | 3 => 4096
  | 4 => 4096
  | _ => 2816

/-- HELLO sent: node id, port number, and the credits of every lane's buffer (R248, R251). -/
def State.sendHello (s : State) (l : Nat) : State :=
  s.control l (.hello s.node (linkPort l) ((List.range 7).map laneBuffer))

/-- Credits returned for a frame that has left the buffer it arrived in (R251), with an acknowledgement (R246). -/
def State.returnCredit (s : State) (l : Nat) (f : Frame) : State :=
  if l = selfLink then s
  else
    let k := s.link l
    let n := f.link.lane.toNat
    (s.setLink l { k with owed := insertD 0 k.owed n (lookupD 0 k.owed n - frameCredits f) }).control l .credit (some (n, frameCredits f))

/-- A frame as a link sends it: numbered, with a link header of the link's own, which acknowledges what it has received
in order, and with its envelope (R243, R246, R249). -/
def State.dress (s : State) (l : Nat) (f : Frame) : Frame :=
  let k := s.link l
  let lane := f.link.lane
  { f with
    link := { ver := 1, ftype := 0, lane := lane, ackv := true, crv := false, crlane := 0, lseq := k.txNext
              ackseq := k.rxNext - 1, credits := 0, rsv := 0 }
    env := s.envTo l false lane f.env.fh }

/-- A frame kept in the replay buffer and sent (R249). -/
def State.transmit (s : State) (l from' : Nat) (f : Frame) : State :=
  let k := s.link l
  let g := s.dress l f
  let n := f.link.lane.toNat
  let k := { k with txNext := k.txNext + 1, replay := k.replay ++ [g]
                    turn := if 1 ≤ n ∧ n ≤ 4 then n else k.turn
                    credits := insertD 0 k.credits n (lookupD 0 k.credits n - frameCredits f) }
  ((s.setLink l k).emit (.frame l g)).returnCredit from' f

/-- The first frame of a lane in a link's queue, where it may be sent. -/
def State.laneHead (s : State) (l : Nat) (lane : Nat) : Option (Nat × Frame) :=
  match (s.link l).txq.find? (fun x => decide (x.2.link.lane.toNat = lane)) with
  | some x => if s.mayTransmit l x.2 then some x else none
  | none => none

/-- The queue without the first occurrence of a frame. -/
def removeTx (x : Nat × Frame) : List (Nat × Frame) → List (Nat × Frame)
  | [] => []
  | y :: r => if y = x then r else y :: removeTx x r

/-- The lanes of a link in the order in which an egress port serves them (R259): M, the P lanes, then the C and Q lanes
frame by frame in turn. -/
def serveOrder (turn : Nat) : List Nat := [0, 5, 6] ++ (List.range 4).map (fun i => (turn + i) % 4 + 1)

/-- The next frame of a link's queue, by lane (R259). -/
def State.nextTx (s : State) (l : Nat) : Option (Nat × Frame) :=
  (serveOrder (s.link l).turn).findSome? (s.laneHead l)

/-- The slice's record of a merge, when the frame stands for one that has not been forwarded (R268). -/
def mergedFrame (s : State) (f : Frame) : Frame :=
  match (s.silk.slices.flatMap (fun x => x.2.recs)).find? (fun r =>
    !r.sent && decide (r.frame.tx.src = f.tx.src) && decide (r.frame.tx.tag = f.tx.tag) && !r.isLoad) with
  | some r => { f with payload := r.frame.payload }
  | none => f

/-- A slice's records after a frame has been forwarded: a merge of one requester needs none (R268). -/
def recsSent (f : Frame) (rs : List Combine) : List Combine :=
  (rs.map (fun r => if decide (r.frame.tx.src = f.tx.src) && decide (r.frame.tx.tag = f.tx.tag) then { r with sent := true } else r)).filter
    (fun r => r.isLoad || !r.sent || decide (1 < r.joined.length))

/-- Every slice's records after a frame has been forwarded. -/
def State.noteSent (s : State) (f : Frame) : State :=
  { s with silk := { s.silk with slices := s.silk.slices.map (fun x => (x.1, { x.2 with recs := recsSent f x.2.recs })) } }

/-- Waiting frames of a link sent while its credits allow (R251, R259). -/
def State.flush : Nat → State → Nat → State
  | 0, s, _ => s
  | n + 1, s, l =>
    match s.nextTx l with
    | none => s
    | some x =>
      let k := s.link l
      let s := s.setLink l { k with txq := removeTx x k.txq }
      State.flush n ((s.transmit l x.1 (mergedFrame s x.2)).noteSent x.2) l

/-- A frame handed to a link: queued, and sent at once where it may be. -/
def State.enqueue (s : State) (l from' : Nat) (f : Frame) : State :=
  let k := s.link l
  let s := s.setLink l { k with txq := k.txq ++ [(from', f)] }
  if l = selfLink then s else s.flush (k.txq.length + 1) l

/-! ### Routes (R255, R256) -/

/-- Where the forwarding engine sends a frame. -/
inductive Hop where
  | toSelf
  | out (l : Nat) (dateline : Bool)
  | noEntry
  | noneUp
  deriving DecidableEq, Repr

/-- A route entry's latched words apply at the first lookup after word 1 was written (Table 8-15). -/
def State.routeLookup (s : State) (n : Nat) : State :=
  match find s.csrPend (oRoute n + 4) with
  | none => s
  | some _ => (s.applyB (oRoute n)).applyB (oRoute n + 4)

/-- The hops of a route entry: port code and dateline, in entry order. -/
def State.hops (s : State) (n : Nat) : List (Nat × Bool) :=
  let w0 := s.csrAt (oRoute n)
  let w1 := s.csrAt (oRoute n + 4)
  [(fld w0 8 5, bit w0 13), (fld w0 16 5, bit w0 21), (fld w0 24 5, bit w0 29), (fld w1 0 5, bit w1 5)].take (fld w0 5 2 + 1)

/-- The host association of an endpoint node. -/
def State.epOfNode (s : State) (node : BitVec 16) : Option Nat :=
  (List.range 32).find? (fun e => decide (s.csrF (oEp e) 0 1 = 1) && decide (s.csrF (oEp e) 16 16 = node.toNat))

/-- The link that a port code leads to, for a destination. -/
def State.hopLink (s : State) (dst : BitVec 16) (code : Nat) : Option Nat :=
  if code < 24 then some code
  else if code = 0x1F then (s.epOfNode dst).map (32 + ·)
  else none

/-- The hops of an entry that are up, not quarantined and not peer-locked (R256). -/
def State.upHops (s : State) (dst : BitVec 16) (n : Nat) : List (Nat × Bool) :=
  (s.hops n).filterMap (fun h => match s.hopLink dst h.1 with
    | none => none
    | some l =>
      let k := s.link l
      if k.up && !(s.link (linkPort l)).quar && !k.peerLock then some (l, h.2) else none)

/-- The path hash of a class C request (R256). -/
def pathHash (t : TxHdr) : Nat :=
  t.dst.toNat ^^^ t.job.toNat ^^^ (t.window.toNat * 257) ^^^ fld t.offset 6 16 ^^^ fld t.offset 22 16 ^^^ fld t.offset 38 2

/-- Bytes queued at a link. -/
def State.queuedBytes (s : State) (l : Nat) : Nat := (s.link l).txq.foldl (fun a x => a + frameBytes x.2) 0

/-- The hop with fewest queued bytes, the first on a tie. -/
def State.shortest (s : State) : List (Nat × Bool) → Option (Nat × Bool)
  | [] => none
  | h :: r =>
    match s.shortest r with
    | none => some h
    | some b => if s.queuedBytes b.1 < s.queuedBytes h.1 then some b else some h

/-- A slice's flowlets with one made most recent; the table holds 16,384 keys. -/
def touchFlow (x : Flowlet) (l : List Flowlet) : List Flowlet :=
  (x :: l.filter (fun y => !(decide (y.src = x.src) && decide (y.dst = x.dst) && decide (y.lane = x.lane)))).take 16384

/-- The flowlet decision of R256 for a frame of slice `sl`; how long a key was idle is open (log entry 8). -/
def State.flowHop (s : State) (sl : Nat) (f : Frame) (ups : List (Nat × Bool)) : Option (Nat × Bool) × State :=
  let s := s.applyB (oSilk 0x10) 0xFF
  let v := lookupD {} s.silk.slices sl
  let save (s : State) (x : Flowlet) : State :=
    { s with silk := { s.silk with slices := insertD {} s.silk.slices sl { v with flows := touchFlow x v.flows } } }
  match s.shortest ups with
  | none => (none, s)
  | some best =>
    match v.flows.find? (fun y => decide (y.src = f.tx.src) && decide (y.dst = f.tx.dst) && decide (y.lane = f.link.lane)) with
    | none => (some best, save s { src := f.tx.src, dst := f.tx.dst, lane := f.link.lane, hop := best.1, gen := 0 })
    | some y =>
      let idle := decide (s.csrF (oSilk 0x10) 0 8 * 16 ≤ Config.elapsed s.freeCtr)
      let s := { s with freeCtr := s.freeCtr + 1 }
      match ups.find? (fun h => decide (h.1 = y.hop)) with
      | some h => if idle then (some best, save s { y with hop := best.1, gen := (y.gen + 1) % 256 }) else (some h, save s y)
      | none => (some best, save s { y with hop := best.1, gen := (y.gen + 1) % 256 })

/-- The forwarding decision for a frame in slice `sl` (R255, R256). -/
def State.route (s : State) (sl : Nat) (f : Frame) : Hop × State :=
  if f.tx.dst = s.node then (.toSelf, s)
  else
    let n := f.tx.dst.toNat % 4096
    let s := s.routeLookup n
    let w0 := s.csrAt (oRoute n)
    if bit w0 0 = false ∨ fld w0 1 4 ≠ f.tx.dst.toNat / 4096 then (.noEntry, s)
    else
      let ups := s.upHops f.tx.dst n
      if isClassC f then
        match ups[pathHash f.tx % ups.length]? with
        | none => (.noneUp, s)
        | some h => (.out h.1 h.2, s)
      else
        let r := s.flowHop sl f ups
        match r.1 with
        | none => (.noneUp, r.2)
        | some h => (.out h.1 h.2, r.2)

/-- The lane after a hop with its dateline bit set (R256): the second of its pair. -/
def datelineLane (dl : Bool) (lane : BitVec 3) : BitVec 3 :=
  if dl && (lane == 1 || lane == 3 || lane == 5) then lane + 1 else lane

/-- The flowlet generation of a frame in slice `sl`: zero for a class C request (R256). -/
def State.flowGen (s : State) (sl : Nat) (f : Frame) : Nat :=
  if isClassC f then 0
  else match (lookupD {} s.silk.slices sl).flows.find? (fun y => decide (y.src = f.tx.src) && decide (y.dst = f.tx.dst) && decide (y.lane = f.link.lane)) with
    | some y => y.gen
    | none => 0

/-- A frame on the lane of its hop, with its flowlet hash (R256). -/
def State.stamp (s : State) (sl : Nat) (dl : Bool) (f : Frame) : Frame :=
  let lane := datelineLane dl f.link.lane
  { f with link := { f.link with lane := lane }
           env := { f.env with fh := flowHash f.tx.src f.tx.dst lane.toNat (s.flowGen sl f) } }

/-- A frame that waits in slice `sl` for a hop: a latched ROUTE_HOLD applies (Table 8-18). -/
def State.holdForHop (s : State) (sl from' : Nat) (f : Frame) : State :=
  let s := s.applyB (oSilk 0x10) 0xFF00
  let v := lookupD {} s.silk.slices sl
  { s with silk := { s.silk with slices := insertD {} s.silk.slices sl { v with waiting := v.waiting ++ [(from', f)] } } }

/-- A frame counted as dropped by slice `sl` (R255). -/
def State.dropCount (s : State) (sl : Nat) : State :=
  let v := lookupD {} s.silk.slices sl
  { s with silk := { s.silk with slices := insertD {} s.silk.slices sl { v with dropped := v.dropped + 1 } } }

/-- A response sent on its way; one that has no route is dropped and counted (R255). -/
def State.sendResp (s : State) (sl : Nat) (f : Frame) : State :=
  let r := s.route sl f
  match r.1 with
  | .toSelf => r.2.enqueue selfLink selfLink f
  | .out l dl => r.2.enqueue l selfLink (r.2.stamp sl dl f)
  | .noEntry => r.2.dropCount sl
  | .noneUp => r.2.holdForHop sl selfLink f

/-! ### Combining (R268) -/

/-- NOCOMB of a request. -/
def noComb (t : TxHdr) : Bool := bit t.status 7

/-- The key of R268. -/
def sameKey (a b : TxHdr) : Bool :=
  a.dst == b.dst && a.job == b.job && a.window == b.window && a.offset == b.offset && a.len == b.len && a.op == b.op &&
  a.aop == b.aop

/-- Whether a frame may join or open a fold entry. -/
def foldable (f : Frame) : Bool := isClassC f && decide (f.tx.op = opLoad) && !f.tx.enc && !noComb f.tx

/-- Whether an ATOMIC may be merged: integer adds, minimums and maximums. -/
def mergeable (f : Frame) : Bool :=
  isClassC f && decide (f.tx.op = opAtomic) && !f.tx.enc && !noComb f.tx &&
  (match aopOf f.tx.aop.toNat with
    | some (.addI _) => true
    | some (.minI _) => true
    | some (.maxI _) => true
    | _ => false)

/-- The operand that two merged requests send on. -/
def mergeOperand (t : TxHdr) (a b : Nat) : Nat :=
  match aopOf t.aop.toNat with
  | some op => op.apply a 0 b
  | none => a

/-- Whether a frame may join a record. -/
def Combine.takes (r : Combine) (f : Frame) : Bool :=
  sameKey r.frame.tx f.tx && decide (r.joined.length < 64) &&
  (if r.isLoad then !r.closed && foldable f else !r.sent && mergeable f)

/-- A request joins a record. -/
def Combine.join (r : Combine) (from' : Nat) (f : Frame) : Combine :=
  let x : Joined := { link := from', src := f.tx.src, tag := f.tx.tag, operand := BitVec.ofNat 64 (leNat f.payload) }
  { r with
    joined := r.joined ++ [x]
    frame := if r.isLoad then r.frame
      else { r.frame with payload := leBytes r.frame.payload.length (mergeOperand f.tx (leNat r.frame.payload) (leNat f.payload)) } }

/-- A slice. -/
def State.slice (s : State) (sl : Nat) : Slice := lookupD {} s.silk.slices sl
def State.setSlice (s : State) (sl : Nat) (v : Slice) : State :=
  { s with silk := { s.silk with slices := insertD {} s.silk.slices sl v } }

/-- The first record of a list that takes a frame, changed by it. -/
def joinFirst (from' : Nat) (f : Frame) : List Combine → Option (List Combine)
  | [] => none
  | r :: rest => if r.takes f then some (r.join from' f :: rest) else (joinFirst from' f rest).map (r :: ·)

/-- A request combined with one that its slice holds, where combining is on (Table 8-18). -/
def State.tryJoin (s : State) (sl from' : Nat) (f : Frame) : Option State :=
  if s.csrF (oSilk 0x10) 16 1 = 0 ∨ !(foldable f || mergeable f) then none
  else
    let v := s.slice sl
    (joinFirst from' f v.recs).map (fun rs => (s.setSlice sl { v with recs := rs }).returnCredit from' f)

/-- A record opened for a request that its slice forwards, where one is free and none stands for it. -/
def State.openRecord (s : State) (sl from' : Nat) (f : Frame) : State :=
  let v := s.slice sl
  let known := v.recs.any (fun r => decide (r.frame.tx.src = f.tx.src) && decide (r.frame.tx.tag = f.tx.tag))
  if s.csrF (oSilk 0x10) 16 1 = 1 ∧ (foldable f || mergeable f) ∧ v.recs.length < 4096 ∧ !known then
    let x : Joined := { link := from', src := f.tx.src, tag := f.tx.tag, operand := BitVec.ofNat 64 (leNat f.payload) }
    s.setSlice sl { v with recs := v.recs ++ [{ frame := f, isLoad := foldable f, closed := false, sent := false, joined := [x] }] }
  else s

/-- A frame on its way through slice `sl`: queued at a hop, held for one, or without a route, which is answered for a
request and counted for any other frame (R255, R256). -/
def State.sendOn (s : State) (sl from' : Nat) (f : Frame) : State :=
  let r := s.route sl f
  match r.1 with
  | .toSelf => r.2.enqueue selfLink selfLink f
  | .out l dl => (r.2.openRecord sl from' f).enqueue l from' (r.2.stamp sl dl f)
  | .noEntry =>
    let s := r.2.returnCredit from' f
    if isRequest f then s.sendResp sl (respFrame s f nakNoroute []) else s.dropCount sl
  | .noneUp => (if mergeable f then r.2.openRecord sl from' f else r.2).holdForHop sl from' f

/-- The same, unless the slice combines it with a request that it holds (R268). -/
def State.forward (s : State) (sl from' : Nat) (f : Frame) : State :=
  match s.tryJoin sl from' f with
  | some t => t
  | none => s.sendOn sl from' f

/-- A frame of the device's own sent on its way. -/
def State.sendOwn (s : State) (sl : Nat) (f : Frame) : State := s.forward sl selfLink f

/-- The frames that wait in a slice for a hop looked at again, after a hop has come up: each stands for its own record, if
it has one. -/
def State.reroute (s : State) : State :=
  s.silk.slices.foldl (fun t x =>
    let v := t.slice x.1
    v.waiting.foldl (fun t w => t.sendOn x.1 w.1 w.2) (t.setSlice x.1 { v with waiting := [] })) s

/-- The records that a response answers taken out of the slices (R268). -/
def State.takeRecord (s : State) (f : Frame) : Option Combine × State :=
  let hit (r : Combine) : Bool := decide (r.frame.tx.src = f.tx.dst) && decide (r.frame.tx.tag = f.tx.tag)
  ((s.silk.slices.flatMap (fun x => x.2.recs)).find? hit,
   s.silk.slices.foldl (fun t x =>
     let v := t.slice x.1
     t.setSlice x.1 { v with recs := v.recs.filter (fun r => !hit r) }) s)

/-- The responses for the requesters after the first: a load's data without CACHEOK, an atomic's value as the
requests before it leave it, a refusal as it is. -/
def fanFrames (t : TxHdr) (f : Frame) (load : Bool) : Nat → List Joined → List Frame
  | _, [] => []
  | v, j :: r =>
    { link := ⟨1, 0, 5, false, false, 0, 0, 0, 0, 0⟩, tx := { f.tx with dst := j.src, tag := j.tag, cacheok := false }
      payload := if load || f.tx.status ≠ 0 then f.payload else leBytes f.payload.length v, trailer := [] } ::
    fanFrames t f load (mergeOperand t v j.operand.toNat) r

/-- A response's copies sent to the requesters that its request stood for (R268). -/
def State.fanOut (s : State) (sl : Nat) (f : Frame) : State :=
  let r := s.takeRecord f
  match r.1 with
  | none => s
  | some c => match c.joined with
    | [] => r.2
    | j :: rest => (fanFrames c.frame.tx f c.isLoad (mergeOperand c.frame.tx (leNat f.payload) j.operand.toNat) rest).foldl
        (fun t x => t.sendResp sl x) r.2

/-! ### Requests (R252) -/

/-- The next free tag of a region, from a starting number (R252). -/
def findTag (reqs : SMap Req) (r : Nat) : Nat → Nat → Option Nat
  | 0, _ => none
  | n + 1, k =>
    match find reqs (r * 8192 + k % 8192) with
    | none => some (r * 8192 + k % 8192)
    | some _ => findTag reqs r n (k + 1)

/-- Whether a region has `n` free tags. -/
def State.tagsFree (s : State) (r n : Nat) : Bool :=
  decide ((s.silk.reqs.filter (fun x => decide (x.1 / 8192 = r))).length + n ≤ 8192)

/-- A request sent by region `r` for context `ctx` (none: the device's own): a fresh tag, the bookkeeping,
encryption for a bound context, and the frame on its way. -/
def State.sendReq (s : State) (r ctx : Nat) (w : Waiter) (t : TxHdr) (payload : List Byte) : State :=
  let start := lookupD 0 s.silk.nextTag r
  match findTag s.silk.reqs r 8192 start with
  | none => s
  | some tag =>
    let t := { t with tag := BitVec.ofNat 16 tag, src := s.node, ttl := s.ttl }
    let f := mkFrame t payload
    let s := { s with silk := { s.silk with nextTag := insertD 0 s.silk.nextTag r ((tag + 1) % 8192),
                                             reqs := put s.silk.reqs tag { frame := f, ctx := ctx, waiter := w, resends := 0 } } }
    let s := s.applyB (oSilk 0x14) 0x3FF
    if ctx < 64 ∧ (s.boundTo ctx).isSome then
      match s.seal f with
      | some e => e.2.sendOwn r e.1
      | none => s.enqueue selfLink selfLink (respFrame s f nakDecrypt [])
    else s.sendOwn r f

/-- No context. -/
def noCtx : Nat := 64

/-- A notify store sent. -/
def State.sendNote (s : State) (n : Note) : State :=
  s.sendReq 0 n.ctx .notify
    (reqHdr opStore (addrNode n.addr) s.node 0 n.job (addrWindow n.addr) (addrOffset n.addr) n.bytes.length s.ttl) n.bytes

/-- The notify stores that wait, oldest first, sent while tags of region 0 are free. -/
def State.sendNotes : Nat → State → State
  | 0, s => s
  | k + 1, s =>
    match s.silk.outbox with
    | [] => s
    | n :: r => if s.tagsFree 0 1 then State.sendNotes k (({ s with silk := { s.silk with outbox := r } }).sendNote n) else s

/-- A STORE of the device's own to a Silk address (R301, R339, R360), with a given job id; a bound context's is sealed
(R321). It waits where no tag is free. -/
def State.notify (s : State) (job : BitVec 16) (a : DWord) (bs : List Byte) (ctx : Nat := noCtx) : State :=
  let s := { s with silk := { s.silk with outbox := s.silk.outbox ++ [{ ctx := ctx, job := job, addr := a, bytes := bs }] } }
  State.sendNotes s.silk.outbox.length s

/-- A request ends: its tag is free. -/
def State.freeTag (s : State) (tag : Nat) : State :=
  let s := { s with silk := { s.silk with reqs := drop s.silk.reqs tag } }
  State.sendNotes s.silk.outbox.length s

end Sys2Proof.Machine
end

