-- ==== Sys2Proof/Machine/Ring.lean ====
section
/-! DEFINITION. Command rings, status words and fences (R287–R301), as far as every unit that ends a command
or loses a context needs them. -/

namespace Sys2Proof.Machine

/-- Status codes of Table 9-9. -/
def stOk : BitVec 16 := 0x0000
def stCtxLost : BitVec 16 := 0x0001
def stBadCmd : BitVec 16 := 0x0002
def stBadDecl : BitVec 16 := 0x0003
def stNoFit : BitVec 16 := 0x0004
def stBadBlock : BitVec 16 := 0x0005
def stBadFence : BitVec 16 := 0x0006
def stFenceError : BitVec 16 := 0x0007
def stFenceAbandoned : BitVec 16 := 0x0008
def stFault : BitVec 16 := 0x0009
def stDiscarded : BitVec 16 := 0x000A
def stStepRefused : BitVec 16 := 0x000B
def stStepStopped : BitVec 16 := 0x000C
def stMeasureBusy : BitVec 16 := 0x000D

/-- The CID of a queue (Table 9-19). -/
def State.qCid (s : State) (q : Nat) : BitVec 16 := BitVec.ofNat 16 (s.csrF (oQ q 0) 16 16)

/-- The slot of a queue's context. -/
def State.qCtx (s : State) (q : Nat) : Option Nat := s.ctxOfCid (s.qCid q)

/-- Whether a queue is enabled. -/
def State.qEnabled (s : State) (q : Nat) : Bool := decide (s.csrF (oQ q 0) 0 1 = 1)

/-- log₂ of a ring's entries (Table 9-19). -/
def State.qSize (s : State) (q : Nat) : Nat :=
  let v := s.csrF (oQ q 0x0C) 0 5
  if 6 ≤ v ∧ v ≤ 16 then v else 6

/-- A ring's virtual base. -/
def State.qRing (s : State) (q : Nat) : Nat := s.csrF (oQ q 0x04) 7 25 * 128 + s.csrF (oQ q 0x08) 0 16 * two32

/-- The virtual address of ring entry `k` (R290). -/
def State.qEntry (s : State) (q k : Nat) : Nat := s.qRing q + 128 + 64 * (k % 2 ^ s.qSize q)

/-- The physical address of ring byte 0 for the doorbell (R291). -/
def State.qDoorbell (s : State) (q : Nat) : Nat := s.csrF (oQ q 0x10) 6 26 * 64 + s.csrF (oQ q 0x14) 0 16 * two32

/-- What a queue unit meets at its ring: an uncorrectable unit that a read returned, one that a partial write merged
into, a page-table entry with an uncorrectable error (R231, R237), or an address that does not translate (R293). -/
inductive RingBad where
  | read (pa : Nat)
  | merge (pa : Nat)
  | table (pa : Nat)
  | lost (va : Nat)
  deriving DecidableEq, Repr

/-- What follows from it, for queue `q` and context `n`: the events stand in Machine/Errors.lean. -/
abbrev OnBad := State → Nat → Nat → RingBad → State

/-- Bytes read through a context's translation by a queue's unit, as they are stored (R231); none where it fails. -/
def State.ringReadW (bad : OnBad) (s : State) (q n va len : Nat) : Option (List Byte) × State :=
  let r := s.range n va len .load
  match r.1 with
  | .error (.ecc pa, _) => (none, bad r.2 q n (.table pa))
  | .error (_, a) => (none, bad r.2 q n (.lost a))
  | .ok ps =>
    (some (r.2.pieces ps), (ps.flatMap (fun p => r.2.eccHits p.1 p.2)).foldl (fun t u => bad t q n (.read u)) r.2)

/-- Bytes written through a context's translation by a queue's unit, with the merges of R231; nothing where it
fails. -/
def State.ringWriteW (bad : OnBad) (s : State) (q n va : Nat) (bs : List Byte) : State :=
  let r := s.range n va bs.length .store
  match r.1 with
  | .error (.ecc pa, _) => bad r.2 q n (.table pa)
  | .error (_, a) => bad r.2 q n (.lost a)
  | .ok ps =>
    let s := ps.foldl (fun t p => t.eccWrite p.1 p.2) r.2
    ((ps.flatMap (fun p => s.eccHits p.1 p.2)).foldl (fun t u => bad t q n (.merge u)) s).storePieces ps bs

/-- The status word of a command (Table 9-8). -/
def statusWord (status : BitVec 16) (detail : BitVec 8) (seq : Nat) : List Byte :=
  leBytes 8 (status.toNat + detail.toNat * 2 ^ 16 + seq * 2 ^ 32 + 2 ^ 63)

/-- The status word of entry `k` written, through context `n` (R297), and LAST_SEQ kept. -/
def State.writeStatusW (bad : OnBad) (s : State) (q k n : Nat) (status : BitVec 16) (detail : BitVec 8) (seq : Nat) : State :=
  let s := s.ringWriteW bad q n (s.qEntry q k + 56) (statusWord status detail seq)
  s.setQueue q { s.queue q with lastSeq := BitVec.ofNat 16 seq }

/-- HEAD written to the ring (R290, R294). -/
def State.writeHeadW (bad : OnBad) (s : State) (q n : Nat) : State :=
  s.ringWriteW bad q n (s.qRing q + 64) (leBytes 8 (s.queue q).head.toNat)

/-- Every unstarted command of a queue completes at once with a status, in ring order, and applies no
signal (R302, R305, R306). HEAD passes over them (log entry 15). -/
def State.endUnstartedW (bad : OnBad) (s : State) (q n : Nat) (status : BitVec 16) : Nat → State
  | 0 => s
  | fuel + 1 =>
    let u := s.queue q
    if u.head = u.tail then s
    else
      let r := s.ringReadW bad q n (s.qEntry q u.head.toNat) 16
      let hdr := r.1.getD []
      let len : Nat := if leAt hdr 1 1 / 2 % 2 = 1 then 2 else 1
      let s := r.2.writeStatusW bad q u.head.toNat n status 0 (leAt hdr 2 2)
      let left := (u.tail - u.head).toNat
      let s := s.setQueue q { s.queue q with head := u.head + BitVec.ofNat 32 (min len left) }
      (s.writeHeadW bad q n).endUnstartedW bad q n status fuel

/-- The queues of a CID: those enabled (R285). -/
def State.queuesOf (s : State) (cid : BitVec 16) : List Nat :=
  (List.range 1024).filter (fun q => s.qEnabled q && decide (s.qCid q = cid))

/-- Unstarted commands of every queue of a context ended. -/
def State.endQueuesW (bad : OnBad) (s : State) (n : Nat) (status : BitVec 16) : State :=
  (s.queuesOf (s.cid n)).foldl (fun t q => t.endUnstartedW bad q n status ((t.queue q).tail - (t.queue q).head).toNat) s

/-! ### Fences (R298–R301) -/

/-- A queued command's result set, once. -/
def setResult (k : Nat) (v : BitVec 16 × BitVec 8) (l : List Cmd) : List Cmd :=
  l.map (fun c => if c.k = k ∧ c.result.isNone then { c with result := some v } else c)

/-- A started command's result set. -/
def State.cmdResult (s : State) (q k : Nat) (status : BitVec 16) (detail : BitVec 8) : State :=
  s.setQueue q { s.queue q with running := setResult k (status, detail) (s.queue q).running }

/-- A FENCE_WAIT that holds its queue (R300): from its start until it has its status. -/
def Cmd.holds (c : Cmd) : Bool := c.result.isNone && (leAt c.bytes 0 1 == 2)

/-- A FENCE_WAIT that holds on fence `f` and looks at it (R300). -/
def waitsOn (f : Nat) (c : Cmd) : Bool := c.begun && c.holds && (leAt c.bytes 16 2 == f)

/-- What a holding FENCE_WAIT sees in a fence (R300). -/
def fenceVerdict (f : Fence) (c : Cmd) : Option (BitVec 16) :=
  match f.st.toNat with
  | 1 => if leAt c.bytes 24 6 ≤ f.value.toNat then some stOk else none
  | 2 => some stFenceError
  | 3 => some stFenceAbandoned
  | _ => some stBadFence

/-- A queue's commands after a fence has changed: the queue stops on an error or an abandonment. -/
def resolveQueue (f : Nat) (v : Fence) (u : Queue) : Queue × Nat :=
  let hit := u.running.filter (fun c => waitsOn f c && (fenceVerdict v c).isSome)
  let run := u.running.map (fun c => if waitsOn f c then
    (match fenceVerdict v c with | some st => { c with result := some (st, 0) } | none => c) else c)
  if hit.isEmpty then (u, 0)
  else ({ u with running := run, waiting := run.any Cmd.holds,
                 stopped := u.stopped || hit.any (fun c => fenceVerdict v c != some stOk) }, hit.length)

/-- The waiters of a fence looked at after it changed (R300). -/
def State.resolveFence (s : State) (f : Nat) : State :=
  let v := s.fence f
  s.host.queues.foldl (fun t x =>
    let r := resolveQueue f v (t.queue x.1)
    if r.2 = 0 then t
    else (t.setQueue x.1 r.1).setFence f { t.fence f with waiters := (t.fence f).waiters - r.2 }) s

/-- Bits [127:0] of a fence entry (Table 9-19). -/
def State.fenceBytes (s : State) (f : Nat) : List Byte :=
  let v := s.fence f
  leBytes 8 (v.value.toNat + v.st.toNat * 2 ^ 48 + v.waiters * 2 ^ 52) ++
  leBytes 8 (v.owner.toNat + s.csrF (oFence f 8) 16 1 * 2 ^ 16)

/-- The notify store of a changed fence (R301): its JOB is that of the owner's context where it holds a
slot, else open (log entry 16). -/
def State.fenceNotify (s : State) (f : Nat) : State :=
  if s.csrF (oFence f 8) 16 1 = 1 then
    let a := BitVec.ofNat 64 (s.csrF (oFence f 0x10) 0 32 + s.csrF (oFence f 0x14) 0 32 * two32)
    match s.ctxOfCid (s.fence f).owner with
    | some n => s.notify (s.job n) a (s.fenceBytes f) (if (s.boundTo n).isSome then n else noCtx)
    | none => let v := s.free; v.2.notify (BitVec.ofNat 16 v.1.toNat) a (s.fenceBytes f)
  else s

/-- A fence's value and state replaced, where either changes; its waiters then look, and the change is
notified (R298, R300, R301). -/
def State.changeFence (s : State) (f : Nat) (value : BitVec 48) (st : BitVec 3) : State :=
  let v := s.fence f
  if v.value = value ∧ v.st = st then s
  else ((s.setFence f { v with value := value, st := st }).resolveFence f).fenceNotify f

/-- SIGNAL of a live fence: VALUE rises to the maximum (R298, R299). -/
def State.signalFence (s : State) (f : Nat) (v : BitVec 48) : State :=
  let x := s.fence f
  if x.st = 1 then s.changeFence f (if x.value.toNat ≤ v.toNat then v else x.value) 1 else s

/-- Every fence of a CID in one of the states `from'` moves to a state. -/
def State.moveFences (s : State) (cid : BitVec 16) (from' : List (BitVec 3)) (dest : BitVec 3) : State :=
  s.host.fences.foldl (fun t x =>
    let v := t.fence x.1
    if v.owner = cid ∧ from'.contains v.st then t.changeFence x.1 v.value dest else t) s

/-! ### Losing a context (R302) -/

/-- A group set's command, handler or task is told that the set was removed before it ran. -/
def State.setRemoved (s : State) (g : GroupSet) (status : BitVec 16) : State :=
  match g.source with
  | .command q k => s.cmdResult q k status 0
  | .handler n e _ =>
    let c := s.ctx n
    s.setCtx n { c with handlers := c.handlers.filterMap (fun h =>
      if h.1 = e then (if h.2 ≤ 1 then none else some (h.1, h.2 - 1)) else some h) }
  | .skipper r q t m =>
    let v := s.region r
    s.setRegion r { v with skip := { v.skip with runs := v.skip.runs.map (fun x =>
      if x.q = q ∧ x.t = t ∧ x.m = m then { x with open' := x.open' - 1 } else x) } }

/-- The launch queue filled from the launches that wait for room in it, oldest first (R37). -/
def Block.refill (k : Block) : Block :=
  let n := 32 - k.launchQ.length
  { k with launchQ := k.launchQ ++ k.arriving.take n, arriving := k.arriving.drop n }

/-- Launches that wait at a block. -/
def Block.waiting (k : Block) : Nat := k.launchQ.length + k.arriving.length

/-- The waiting launches of a block that a test keeps. -/
def Block.keepSets (k : Block) (keep : GroupSet → Bool) : Block :=
  Block.refill { k with launchQ := k.launchQ.filter keep, arriving := k.arriving.filter keep }

/-- A launch reaches a block, or waits where its queue of 32 has no room (R37). -/
def Block.enqueue (k : Block) (x : GroupSet) : Block := Block.refill { k with arriving := k.arriving ++ [x] }

/-- Group sets of a context that wait for admission are removed from every block (R302, R305). -/
def State.removeWaiting (s : State) (n : Nat) (status : BitVec 16) : State :=
  s.blocks.foldl (fun t x =>
    let b := t.block x.1
    let gone := (b.launchQ ++ b.arriving).filter (fun g => decide (g.ctx = n))
    if gone.isEmpty then t
    else gone.foldl (fun t g => t.setRemoved g status) (t.setBlock x.1 (b.keepSets (fun g => !decide (g.ctx = n))))) s

/-- A context is lost, at the first cause (R302): fences to error unless the cause is teardown, unstarted
commands ended with CTX_LOST, waiting group sets removed. A suspended context, which has no master at work, is lost by
its queues or its teardown alone. The Skipper starts nothing for a lost context. -/
def State.loseContextW (bad : OnBad) (s : State) (n : Nat) (cause : BitVec 8) : State :=
  let c := s.ctx n
  if c.st = 1 ∨ (c.st = 3 ∧ (cause = 5 ∨ cause = 6)) then
    let s := s.setCtx n { c with st := 2, cause := cause }
    let s := if cause = 6 then s else s.moveFences (s.cid n) [1] 2
    let s := if cause = 6 then s else s.endQueuesW bad n stCtxLost
    if cause = 6 then s else s.removeWaiting n stCtxLost
  else s

end Sys2Proof.Machine
end

