-- ==== Sys2Proof/Machine/Sets.lean ====
section
/-! DEFINITION. Group sets on a block (R34–R38, R49, R54, R222): where their groups stand, barrier counters,
and what the end of a set means for the command, handler or task that launched it. -/

namespace Sys2Proof.Machine

/-- A resident set of a block. -/
def State.setOf (s : State) (b id : Nat) : Option GroupSet := (s.block b).sets.find? (fun x => decide (x.id = id))

/-- A resident set changed. -/
def State.modSet (s : State) (b id : Nat) (f : GroupSet → GroupSet) : State :=
  let k := s.block b
  s.setBlock b { k with sets := k.sets.map (fun x => if x.id = id then f x else x) }

/-- The group slots that a set's groups were given, by group index. -/
def GroupSet.refs (x : GroupSet) (b : Nat) : List GRef := x.placed.map (fun p => { cell := b * 16 + p.1, slot := p.2 })

/-- The groups of a set that still stand in their slots, by group index. -/
def State.standing (s : State) (b : Nat) (x : GroupSet) : List (GRef × Group) :=
  (x.refs b).filterMap (fun r => match s.group r with
    | some g => if g.setId = x.id then some (r, g) else none
    | none => none)

/-- A group that has exited: no thread of it lives (R45), be it in the exiting state or frozen there. -/
def Group.exited (v : Group) : Bool := decide (v.st = .exiting) || decide (v.live = 0)

/-- Whether a group is frozen. -/
def Group.isFrozen (g : Group) : Bool := decide (g.st = .frozen)

/-- A SIGNAL field applied (R299): only to a live fence of the CID. -/
def State.applySignal (s : State) (cid : BitVec 16) (sig : DWord) : State :=
  let f := fld sig 0 14
  if bit sig 15 ∧ (s.fence f).owner = cid then s.signalFence f (BitVec.ofNat 48 (fld sig 16 48)) else s

/-- A handler entry's launch has ended (R303). -/
def endHandler (e : Nat) (l : List (Nat × Nat)) : List (Nat × Nat) :=
  l.filterMap (fun h => if h.1 = e then (if h.2 ≤ 1 then none else some (h.1, h.2 - 1)) else some h)

/-- Whoever launched a set is told that its work has ended (R222, R297, R302, R303): FAULT with the fault's
low byte where a group brought a freeze on itself, else OK, or CTX_LOST when the context is lost. -/
def State.endSource (s : State) (x : GroupSet) : State :=
  let lost := (s.ctx x.ctx).st = 2
  match x.source with
  | .command q k =>
    if x.fault ≠ 0 then s.cmdResult q k stFault (BitVec.ofNat 8 x.fault.toNat)
    else if lost then s.cmdResult q k stCtxLost 0 else s.cmdResult q k stOk 0
  | .handler n e sig =>
    let c := s.ctx n
    let s := s.setCtx n { c with handlers := endHandler e c.handlers }
    if lost then s else s.applySignal x.cid sig
  | .skipper r q t m =>
    let v := s.region r
    s.setRegion r { v with skip := { v.skip with runs := v.skip.runs.map (fun y =>
      if y.q = q ∧ y.t = t ∧ y.m = m then { y with open' := y.open' - 1 } else y) } }

/-- Outstanding Silk requests of the groups of a set (R222). -/
def State.setRequests (s : State) (x : GroupSet) : Bool :=
  s.silk.reqs.any (fun r => match r.2.waiter with
    | .load _ gid _ _ _ => x.gids.contains gid
    | .group _ gid _ => x.gids.contains gid
    | _ => false)

/-- A set whose groups have all left, with every write of theirs complete, has completed (R222). -/
def State.completeSet (s : State) (b id : Nat) : State :=
  match s.setOf b id with
  | none => s
  | some x =>
    if x.left.length = x.groups ∧ !s.setRequests x then
      let k := s.block b
      (s.setBlock b { k with sets := k.sets.filter (fun y => !decide (y.id = id)) }).endSource x
    else s

/-- The counters of a set released, when its last group has left the exiting state (R58). -/
def State.freeCounters (s : State) (b : Nat) (x : GroupSet) : State :=
  let k := s.block b
  s.setBlock b { k with bars := x.barIds.foldl (fun m n => insertD {} m n {}) k.bars }

/-- A set whose groups have each left or are frozen has ended its work, though it holds its place (DEDUCED,
log entry 19): its command is told while its status word can still be written. -/
def State.settleSet (s : State) (b id : Nat) : State :=
  match s.setOf b id with
  | none => s
  | some x =>
    let st := s.standing b x
    if st.all (fun g => g.2.isFrozen) ∧ !st.isEmpty ∧ st.length + x.left.length = x.groups then
      match x.source with
      | .command _ _ => s.endSource x
      | _ => s
    else s

/-- The tags of the slots in a mask removed (R105). -/
def dropTags (slots : Nat) (m : SMap Tag) : SMap Tag := m.filter (fun t => decide (slots / 2 ^ t.1 % 2 = 0))

/-- A group leaves its slot (R54): slot and matrix slots are released, and with the last group the counters. Its
accesses that are still under way end without it (R99). -/
def State.leaveSlot (s : State) (g : GRef) : State :=
  match s.group g with
  | none => s
  | some v =>
    let b := cellBlock g.cell
    let s := s.dropGroup g
    let c := s.cell g.cell
    let s := s.setCell g.cell { c with
      tags := dropTags v.slots.toNat c.tags, itags := dropTags v.slots.toNat c.itags
      gone := if v.pend.isEmpty then c.gone else c.gone ++ [(g.slot, v)] }
    let s := s.modSet b v.setId (fun x => { x with left := x.left ++ [v.index] })
    let s := match s.setOf b v.setId with
      | some x => if x.left.length = x.groups then s.freeCounters b x else s
      | none => s
    (s.completeSet b v.setId).settleSet b v.setId

/-- A group in the exiting state with no array entry left leaves its slot (R54). -/
def State.settleGroup (s : State) (g : GRef) : State :=
  match s.group g with
  | some v => if v.st = .exiting ∧ v.mxq.isEmpty then s.leaveSlot g else s
  | none => s

/-- Barrier `id` of a set completes when its sum reaches the number of groups (R49): the phase toggles, the
next starts with the exited groups, and all that wait at it are released past their BAR. -/
def State.barCheck (s : State) (b : Nat) (x : GroupSet) (id : Nat) : State :=
  match x.barIds[id]? with
  | none => s
  | some n =>
    let k := s.block b
    let v := lookupD {} k.bars n
    if v.done < v.expected then s
    else
      let s := s.setBlock b { k with bars := insertD {} k.bars n { v with done := x.exited.length, phase := !v.phase } }
      (x.refs b).foldl (fun t r => t.modGroup r (fun g =>
        if g.setId = x.id ∧ g.st = .atBarrier id then { g with st := .running, pc := g.pc + 8 } else g)) s

/-- One more arrival or exit counted at a barrier (R49). -/
def State.barCount (s : State) (b : Nat) (x : GroupSet) (id : Nat) : State :=
  match x.barIds[id]? with
  | none => s
  | some n =>
    let k := s.block b
    let v := lookupD {} k.bars n
    (s.setBlock b { k with bars := insertD {} k.bars n { v with done := v.done + 1 } }).barCheck b x id

/-- The live groups of a set that the barrier unit watches wait at two or more barriers (R51). -/
def State.deadlocked (s : State) (b : Nat) (x : GroupSet) : Bool :=
  let live := (s.standing b x).filter (fun g => !decide (g.2.st = .exiting))
  let ids := live.filterMap (fun g => match g.2.st with | .atBarrier i => some i | _ => none)
  decide (s.csrF (oBlk b 0xF0) 0 1 = 1) && decide (ids.length = live.length) && live.all (fun g => !g.2.halted) &&
    (match ids with | i :: r => r.any (fun j => decide (j ≠ i)) | [] => false)

end Sys2Proof.Machine
end

