-- ==== Sys2Proof/Machine/Errors.lean ====
section
/-! DEFINITION. Error units, event records and their passage (R333–R342), freezes of masters (R345, R412,
Table 11-5), halt and lockdown (R343, R344). A freeze takes place with the event that calls for it (R52);
`raise` records it (log entry 20). -/

namespace Sys2Proof.Machine

/-- Severities of Table 11-2. -/
def sevC : BitVec 2 := 0
def sevD : BitVec 2 := 1
def sevF : BitVec 2 := 2
def sevH : BitVec 2 := 3

/-- Masters of Table 11-4. -/
inductive Master where
  | nobody
  | group (g : GRef)
  | chan (b c : Nat)
  | dma (b : Nat)
  | dmaSilk (b : Nat)
  | queue (q : Nat)
  | stream (r q : Nat)
  | ce (r c : Nat)
  | home (r : Nat)
  | acc (r : Nat)
  | monarch
  deriving DecidableEq, Repr

/-- KIND and INDEX of a master (Table 11-4). -/
def Master.code : Master → Nat × Nat
  | .nobody => (0, 0)
  | .group g => (1, g.cell * 16 + g.slot)
  | .chan b c => (2, b * 4 + c)
  | .dma b => (3, b)
  | .dmaSilk b => (4, b)
  | .queue q => (5, q)
  | .stream r q => (6, r * 4 + q)
  | .ce r c => (7, r * 16 + c)
  | .home r => (8, r)
  | .acc r => (9, r)
  | .monarch => (10, 0)

/-- The MASTER field (R337). -/
def Master.word (m : Master) (ctx : Option Nat) : Word :=
  BitVec.ofNat 32 (m.code.1 + (match ctx with | some n => n * 16 + 1024 | none => 0) + m.code.2 * 2048)

/-- What an event says, before its passage (R336). -/
structure Report where
  unit    : UnitRef
  sev     : BitVec 2
  code    : BitVec 16
  ext     : BitVec 16 := 0
  master  : Master := .nobody
  ctx     : Option Nat := none
  addr    : DWord := 0
  reclass : Bool := false
  deriving DecidableEq, Repr

/-- LEVEL of a unit (Table 11-3). -/
def unitLevel : UnitRef → BitVec 2
  | .ceu _ => 0
  | .beu _ => 1
  | .geu _ => 2
  | .chip => 3

/-- UNIT of a unit (Table 11-3). -/
def unitNumber : UnitRef → BitVec 16
  | .ceu c => BitVec.ofNat 16 c
  | .beu b => BitVec.ofNat 16 b
  | .geu r => BitVec.ofNat 16 r
  | .chip => 0

/-- Pending queue of a unit (Table 11-1). -/
def unitQueue : UnitRef → Nat
  | .ceu _ => 4
  | .beu _ => 8
  | .geu _ => 16
  | .chip => 64

/-- The unit and those above it, in order (R341). -/
def unitChain : UnitRef → List UnitRef
  | .ceu c => [.ceu c, .beu (cellBlock c), .geu (cellRegion c), .chip]
  | .beu b => [.beu b, .geu (blockRegion b), .chip]
  | .geu r => [.geu r, .chip]
  | .chip => [.chip]

/-- An error unit. -/
def State.errUnit (s : State) : UnitRef → ErrUnit
  | .ceu c => (s.cell c).err
  | .beu b => (s.block b).err
  | .geu r => (s.region r).err
  | .chip => s.chip.err

/-- An error unit replaced. -/
def State.setErrUnit (s : State) (u : UnitRef) (e : ErrUnit) : State :=
  match u with
  | .ceu c => s.setCell c { s.cell c with err := e }
  | .beu b => s.setBlock b { s.block b with err := e }
  | .geu r => s.setRegion r { s.region r with err := e }
  | .chip => { s with chip := { s.chip with err := e } }

/-- Chip error state replaced. -/
def State.setErrs (s : State) (e : ChipErr) : State := { s with chip := { s.chip with errs := e } }

/-- The record's bytes (Table 11-3). -/
def Event.bytes (e : Event) : List Byte :=
  [BitVec.ofNat 8 (e.level.toNat + e.hlevel.toNat * 4 + e.sev.toNat * 16 + b2n e.esc * 64 + b2n e.qfull * 128),
   BitVec.ofNat 8 (b2n e.reclass)] ++ leBytes 2 e.code.toNat ++ leBytes 2 e.unit.toNat ++ leBytes 2 e.ext.toNat ++
  leBytes 4 e.seq.toNat ++ leBytes 4 e.cseq.toNat ++ leBytes 4 e.master.toNat ++ leBytes 2 e.cid.toNat ++
  leBytes 2 0 ++ leBytes 8 e.addr.toNat

/-- The events that count as the device's own (R364). -/
def ownEvent (e : Event) : Bool :=
  decide (e.sev = sevH) || decide (e.code = 0x0502) || decide (e.code = 0x0602) || decide (e.code = 0x0901) ||
  decide (e.code = 0x0902) || decide (e.code = 0x0903)

/-- A record logged with the next CSEQ (R338), notified where the notify store is on (R339; its JOB is open,
log entry 16), and announced by an in-band interrupt when it is of class H (R392). -/
def State.logEvent (s : State) (e : Event) : State × Event :=
  let k := s.chip.errs
  let e := { e with cseq := k.cseq }
  let s := s.setErrs { k with cseq := k.cseq + 1, log := insertD none k.log (k.cseq.toNat % 1024) (some e) }
  let s := if ownEvent e then { s with chip := { s.chip with chry := { s.chip.chry with ownCur := s.chip.chry.ownCur + 1 } } } else s
  let s := if s.csrF oErrCfg 1 1 = 1 then
      let a := BitVec.ofNat 64 (s.csrF 0x8030 0 32 + s.csrF 0x8034 0 32 * two32 + 32 * (e.cseq.toNat % 1024))
      let v := s.free
      v.2.notify (BitVec.ofNat 16 v.1.toNat) a e.bytes
    else s
  (if e.sev = sevH ∧ s.side.i3cIbi then s.emit (.ibi 0x01) else s, e)

/-- The event of a report: LEVEL, UNIT and SEQ of the raising unit, which counts it (R338). -/
def State.newEvent (s : State) (r : Report) : Event × State :=
  let u := s.errUnit r.unit
  ({ level := unitLevel r.unit, hlevel := unitLevel r.unit, sev := r.sev, esc := false, qfull := false,
     reclass := r.reclass, code := r.code, unit := unitNumber r.unit, ext := r.ext, seq := u.seq, cseq := 0,
     master := r.master.word r.ctx, cid := (match r.ctx with | some n => s.cid n | none => 0), addr := r.addr },
   s.setErrUnit r.unit { u with seq := u.seq + 1 })

/-- A record written by the action that raises it, outside R341 (R342). -/
def State.logAction (s : State) (code : BitVec 16) (addr : DWord) : State :=
  let e := s.newEvent { unit := .chip, sev := sevH, code := code, addr := addr }
  (e.2.logEvent e.1).1

/-! ### Lockdown (R344) -/

/-- Links that are up. -/
def State.upLinks (s : State) : List Nat := (s.silk.links.filter (fun l => l.2.up)).map (·.1)

/-- LOCKED sent on every port (R344). -/
def State.sendLocked (s : State) : State := s.upLinks.foldl (fun t l => t.control l (.locked t.node)) s

/-- Lockdown, caused by an H event of a code. -/
def State.lockdown (s : State) (code : BitVec 16) : State :=
  if s.chip.errs.locked then s
  else
    let s := s.setErrs { s.chip.errs with locked := true }
    (s.logAction 0x090B (code.setWidth 64)).sendLocked

/-! ### The chip's queue (R342) -/

/-- An event put before the first queued one of lower severity. -/
def insertSev (e : Event) : List Event → List Event
  | [] => [e]
  | x :: r => if x.sev.toNat < e.sev.toNat then e :: x :: r else x :: insertSev e r

/-- The queue without its oldest C event. -/
def dropC : List Event → List Event
  | [] => []
  | x :: r => if x.sev = sevC then r else x :: dropC r

/-- CSEQ of the queued record that was logged first. -/
def oldestCseq (next : Word) (q : List Event) : Word :=
  q.foldl (fun a e => if (next - a).toNat < (next - e.cseq).toNat then e.cseq else a) (next - 1)

/-- A severity below H that meets a busy chip: queued, or a storm, which `storm` answers. -/
def State.chipQueue (s : State) (e : Event) (storm : State → State) : State × Event :=
  let u := s.chip.err
  let e := { e with hlevel := 3, sev := if e.reclass then sevF else e.sev }
  if u.queue.length < 64 ∨ u.queue.any (fun x => decide (x.sev = sevC)) then
    let full := decide (64 ≤ u.queue.length)
    let q := if full then dropC u.queue else u.queue
    let s := if full then s.setErrs { s.chip.errs with lost := satInc s.chip.errs.lost } else s
    let r := if e.sev = sevC then (s, e) else s.logEvent e
    (r.1.setErrUnit .chip { r.1.chip.err with queue := insertSev r.2 q }, r.2)
  else
    let r := if e.sev = sevC then (s, e) else s.logEvent e
    (storm r.1, r.2)

/-- A storm while the device is halted (R342). -/
def State.stormHalted (s : State) : State :=
  if s.chip.errs.locked then s
  else
    let c := oldestCseq s.chip.errs.cseq s.chip.err.queue
    (s.logAction 0x090A (c.setWidth 64)).lockdown 0x090A

/-! ### Freezes (R345, R412)

A loss of a context reads and writes command rings, and what it meets there raises events of its own; the functions
below take the loss as a parameter, so that the events of a ring stand after them (`ringBad`). -/

/-- How a context is lost: the context, the cause. -/
abbrev Lose := State → Nat → BitVec 8 → State

/-- A group frozen with a code, once (R52, R100): `own` tells a freeze that it brought on itself (R302). -/
def State.freezeGroupW (lose : Lose) (s : State) (g : GRef) (code : BitVec 16) (own : Bool) : State :=
  match s.group g with
  | none => s
  | some v =>
    if v.st = .frozen then s
    else
      let b := cellBlock g.cell
      let s := s.setGroup g { v with st := .frozen, code := code }
      let s := if own then s.modSet b v.setId (fun x => if x.fault = 0 then { x with fault := code } else x) else s
      (lose s v.ctx 1).settleSet b v.setId

/-- The address of the first instruction that a group has not issued: past the BAR, FENCE or WAIT that it waits at. -/
def Group.unissued (v : Group) : DWord :=
  match v.st with
  | .atBarrier _ => v.pc + 8
  | _ => if v.fence.isSome || v.wait.isSome then v.pc + 8 else v.pc

/-- A group frozen with no fault of its own, before its first instruction not yet issued (R412). -/
def State.stopGroupW (lose : Lose) (s : State) (g : GRef) (code : BitVec 16) : State :=
  match s.group g with
  | none => s
  | some v => if v.st = .frozen then s else (s.setGroup g { v with pc := v.unissued }).freezeGroupW lose g code false

/-- The major opcode of an array entry, and the channel of an MX.WCAST or MX.STREAM (Table 4-5). -/
def MxEntry.opc (e : MxEntry) : Nat := fld e.w 56 8
def MxEntry.chan (e : MxEntry) : Option Nat :=
  if e.opc = 0xC4 then some (fld e.x 44 2) else if e.opc = 0xC5 then some (fld e.x 42 2) else none

/-- The base slots that an entry names (R118). -/
def MxEntry.slots (e : MxEntry) : List Nat := maskBits 8 (fld e.w 0 8)

/-- KPOS of problems advanced (R108). -/
def addKpos (slots : List Nat) (n : Nat) (m : SMap Tag) : SMap Tag :=
  slots.foldl (fun t k => let v := lookupD {} t k; insertD {} t k { v with kpos := v.kpos + BitVec.ofNat 32 n }) m

/-- A channel's array entries of context `n` discarded in one group slot of a cell (R134): a STREAM keeps its
additions, and KPOS advances by those. -/
def State.dropChanEntries (s : State) (g : GRef) (n c : Nat) : State :=
  match s.group g with
  | none => s
  | some v =>
    if v.ctx = n then
      let gone := v.mxq.filter (fun e => decide (e.chan = some c))
      if gone.isEmpty then s
      else
        let s := s.setGroup g { v with mxq := v.mxq.filter (fun e => !decide (e.chan = some c)) }
        let k := s.cell g.cell
        let tags := gone.foldl (fun t e => if e.started then addKpos e.slots e.kdone t else t) k.tags
        (s.setCell g.cell { k with tags := tags }).settleGroup g
    else s

/-- The group slots of a block. -/
def blockSlots (b : Nat) : List GRef :=
  (List.range 256).map (fun i => { cell := b * 16 + i / 16, slot := i % 16 })

/-- A broadcast channel frozen, with the discards of R134. The WCASTs that it held stand in its queue until the DISCARD
or FREE of their context, for debug, though none of them goes on (DESIGN CHOICE, log entry 121). One with no WCAST works for
no context: it is frozen where its block or region fails (`idle`). -/
def State.freezeChannelW (lose : Lose) (s : State) (idle : Bool) (b c : Nat) : State :=
  let k := s.block b
  let v := lookupD {} k.chans c
  if v.frozen then s
  else match v.q with
    | [] => if idle then s.setBlock b { k with chans := insertD {} k.chans c { v with frozen := true, ctx := 64 } } else s
    | w :: _ =>
      let s := s.setBlock b { k with chans := insertD {} k.chans c { v with frozen := true, ctx := w.ctx } }
      let s := (blockSlots b).foldl (fun t g => t.dropChanEntries g w.ctx c) s
      lose s w.ctx 2

/-- A block DMA engine frozen while it works for a context. -/
def State.freezeDmaW (lose : Lose) (s : State) (b n : Nat) : State :=
  let k := s.block b
  lose (s.setBlock b { k with dmaFrozen := true, dmaCtx := n }) n 2

/-- A block DMA engine at rest frozen: it works for no context. -/
def State.stopDma (s : State) (b : Nat) : State :=
  let k := s.block b
  if k.dmaFrozen then s else s.setBlock b { k with dmaFrozen := true, dmaCtx := 64 }

/-- A command queue frozen (R293). -/
def State.freezeQueueW (lose : Lose) (s : State) (q : Nat) : State :=
  let s := s.setQueue q { s.queue q with frozen := true }
  match s.qCtx q with
  | some n => lose s n 5
  | none => s

/-- A queue frozen by a halt: a suspended context is not lost by it (R305, R343). -/
def State.haltQueueW (lose : Lose) (s : State) (q : Nat) : State :=
  match s.qCtx q with
  | some n => if (s.ctx n).st = 3 then s.setQueue q { s.queue q with frozen := true } else s.freezeQueueW lose q
  | none => s.freezeQueueW lose q

/-- A stream's `frozen` set. -/
def setFrozenAt (q : Nat) (l : List Stream) : List Stream :=
  l.mapIdx (fun i x => if i = q then { x with frozen := true } else x)

/-- A Skipper task stream frozen. -/
def State.freezeStreamW (lose : Lose) (s : State) (r q : Nat) : State :=
  let v := s.region r
  let n := v.skip.ctx
  lose (s.setRegion r { v with skip := { v.skip with streams := setFrozenAt q v.skip.streams } }) n 2

/-- The context that a collective engine channel is bound to (R272). -/
def State.ceCtx (s : State) (r c : Nat) : Option Nat :=
  if s.csrF (oCe r c) 0 1 = 1 then some (s.csrF (oCe r c) 1 6) else none

/-- A collective engine channel frozen (R345): its command ends with FAULT where a fault of its own froze it, else
(code zero) with CTX_LOST. A channel without a transfer is frozen for the context that it is bound to. -/
def State.freezeCeW (lose : Lose) (s : State) (r c : Nat) (code : BitVec 16) : State :=
  let v := s.region r
  let k := lookupD {} v.ce c
  if k.frozen then s
  else match k.xfer with
    | none =>
      (match s.ceCtx r c with
        | none => s
        | some n => lose (s.setRegion r { v with ce := insertD {} v.ce c { k with frozen := true } }) n 2)
    | some x =>
      let s := s.setRegion r { v with ce := insertD {} v.ce c { k with frozen := true } }
      let s := match x.cmd with
        | some (q, j) => if code = 0 then s.cmdResult q j stCtxLost 0 else s.cmdResult q j stFault (code.setWidth 8)
        | none => s
      lose s x.ctx 2

/-! ### Halt (R343) -/

/-- Every resident group of the cells that `sel` picks, in one pass, frozen with a code (R412). -/
def State.freezeGroupsW (lose : Lose) (s : State) (sel : Nat → Bool) (code : BitVec 16) : State :=
  s.cells.foldl (fun t c => if sel c.1 then
    c.2.groups.foldl (fun t g => t.stopGroupW lose { cell := c.1, slot := g.1 } code) t else t) s

/-- Every master of the units that `blk` and `reg` pick which works for a context: channels, DMA engines at work,
streams of a loaded program and bound collective channels. -/
def State.freezeEnginesW (lose : Lose) (s : State) (blk reg : Nat → Bool) : State :=
  let s := s.blocks.foldl (fun t b => if blk b.1 then [0, 1, 2, 3].foldl (fun t c => t.freezeChannelW lose false b.1 c) t else t) s
  let s := s.host.queues.foldl (fun t q => q.2.running.foldl (fun t k =>
    let b := leAt k.bytes 40 2
    if k.begun && k.result.isNone && (leAt k.bytes 0 1 == 3 || leAt k.bytes 0 1 == 4) && blk b then t.freezeDmaW lose b k.ctx else t) t) s
  (List.range 8).foldl (fun t r => if reg r then
      let t := if (t.region r).skip.st ≠ 0 then [0, 1, 2, 3].foldl (fun t q => t.freezeStreamW lose r q) t else t
      (List.range 16).foldl (fun t c => t.freezeCeW lose r c 0) t
    else t) s

/-- A Chrysalis in progress fails (R343, R358): the pins are released, and the frames of its shards that are still
under way are no longer its own; CHRY_FAIL is the caller's. -/
def State.failChry (s : State) : State :=
  let s := { s with
    chip := { s.chip with chry := { s.chip.chry with busy := false, failed := true, shards := [] } }
    silk := { s.silk with reqs := s.silk.reqs.map (fun (r : Nat × Req) => match r.2.waiter with
      | Waiter.chry _ _ => (r.1, { r.2 with waiter := Waiter.notify })
      | _ => r) } }
  s.regions.foldl (fun t r => t.setRegion r.1 { t.region r.1 with pins := [] }) s

/-- VALID of every job window cleared (R343). -/
def State.clearJwins (s : State) : State :=
  (List.range 256).foldl (fun t w => t.setCsr (oJwin w 0) (setFld (t.csrAt (oJwin w 0)) 0 1 0)) s

/-- The device halts, caused by an H event of a code (R343). The causes of the contexts' loss follow the
first master frozen, groups first (log entry 21). -/
def State.haltW (lose : Lose) (s : State) (code : BitVec 16) : State :=
  let s := s.setErrs { s.chip.errs with halted := true, haltCode := code }
  let s := s.freezeGroupsW lose (fun _ => true) code
  let s := s.freezeEnginesW lose (fun _ => true) (fun _ => true)
  let s := (List.range 1024).foldl (fun t q => if t.qEnabled q then t.haltQueueW lose q else t) s
  let s := (List.range 64).foldl (fun t n => lose t n 2) s
  let s := s.clearJwins
  if s.chip.chry.busy then
    let step := s.chip.chry.step
    let s := s.failChry
    let e := s.newEvent { unit := .chip, sev := sevC, code := 0x090D, master := .monarch, addr := step.setWidth 64 }
    let s := e.2.setErrUnit .chip { e.2.chip.err with overflow := satInc e.2.chip.err.overflow }
    (s.chipQueue e.1 State.stormHalted).1
  else s

/-! ### The passage of an event (R341, R342) -/

/-- A storm (R342). -/
def State.stormW (lose : Lose) (s : State) : State :=
  if s.chip.errs.halted then s.stormHalted
  else
    let c := oldestCseq s.chip.errs.cseq s.chip.err.queue
    (s.logAction 0x090A (c.setWidth 64)).haltW lose 0x090A

/-- An event that meets the busy chip (R342). -/
def State.chipOverlapW (lose : Lose) (s : State) (e : Event) : State × Event :=
  if e.sev = sevH then
    let r := s.logEvent { e with hlevel := 3 }
    if s.chip.errs.halted then (r.1.lockdown e.code, r.2) else (r.1.haltW lose e.code, r.2)
  else s.chipQueue e (State.stormW lose)

/-- A unit begins to handle an event (R334, R338, R340). -/
def State.handleEventW (lose : Lose) (s : State) (u : UnitRef) (e : Event) : State × Event :=
  let e := { e with hlevel := unitLevel u, sev := if e.reclass then sevF else e.sev }
  if e.sev = sevH then
    let r := s.logEvent e
    (r.1.haltW lose e.code, r.2)
  else
    let r := if e.sev = sevC ∧ s.csrF oErrCfg 0 1 = 0 then (s, e) else s.logEvent e
    (r.1.setErrUnit u { r.1.errUnit u with busy := true, current := e.sev }, r.2)

/-- Whether a unit is busy: the chip without end once it has halted (R340). -/
def State.errBusy (s : State) (u : UnitRef) : Bool :=
  (s.errUnit u).busy || (decide (u = .chip) && s.chip.errs.halted)

/-- An event moves up through the units; the record as its passage leaves it. -/
def State.passageW (lose : Lose) (s : State) (e : Event) : List UnitRef → State × Event
  | [] => (s, e)
  | u :: rest =>
    if !s.errBusy u then s.handleEventW lose u e
    else
      let k := s.errUnit u
      let s := s.setErrUnit u { k with overflow := satInc k.overflow }
      if u = .chip then s.chipOverlapW lose e
      else
        let full := decide (unitQueue u ≤ k.queue.length)
        if full || decide (k.current.toNat < e.sev.toNat) then
          let s := s.setErrUnit u { s.errUnit u with escalated := satInc k.escalated }
          s.passageW lose { e with esc := true, qfull := e.qfull || full } rest
        else
          let e := { e with hlevel := unitLevel u, sev := if e.reclass then sevF else e.sev }
          let r := if e.sev = sevC then (s, e) else s.logEvent e
          (r.1.setErrUnit u { r.1.errUnit u with queue := k.queue ++ [r.2] }, r.2)

/-- The units that an event enters on its passage (R341). -/
def State.entered (s : State) (e : Event) : List UnitRef → List UnitRef
  | [] => []
  | u :: rest =>
    let k := s.errUnit u
    if s.errBusy u && !decide (u = .chip) && (decide (unitQueue u ≤ k.queue.length) || decide (k.current.toNat < e.sev.toNat)) then
      u :: s.entered e rest
    else [u]

/-- The first-error captures that an event fills: the record as its passage left it (R340; log entry 18). -/
def State.capture (s : State) (e : Event) (us : List UnitRef) : State :=
  us.foldl (fun t u => let k := t.errUnit u; if k.first.isNone then t.setErrUnit u { k with first := some e } else t) s

/-- raise (R341). -/
def State.raiseW (lose : Lose) (s : State) (r : Report) : State :=
  let e := s.newEvent r
  let chain := unitChain r.unit
  let us := e.2.entered e.1 chain
  let empty := us.filter (fun u => (e.2.errUnit u).first.isNone)
  let p := e.2.passageW lose e.1 chain
  p.1.capture p.2 empty

/-! ### What a queue unit meets at a ring (R231, R237, R293, R302) -/

/-- Table 7-17 counts. -/
def State.countMem (s : State) (r : Nat) (uncorr : Bool) : State :=
  let v := s.region r
  s.setRegion r (if uncorr then { v with eccUncorr := satInc v.eccUncorr } else { v with eccCorr := satInc v.eccCorr })

/-- The error unit of the storage at a physical address (R232), its region counts updated. -/
def State.eccUnitOf (s : State) (pa : Nat) (uncorr : Bool) : UnitRef × State :=
  match placeOf pa with
  | some (.blk b) => (.beu b, s)
  | some p => (.geu p.region, s.countMem p.region uncorr)
  | none => (.chip, s)

/-- The events of a queue's ring: an uncorrectable unit read, or a table entry, is taken as F and freezes the queue; a
merge names no master; a ring that does not translate freezes the queue with CMD_XLATE. -/
def ringBad (lose : Lose) (s : State) (q n : Nat) : RingBad → State
  | .read pa =>
    let u := (s.freezeQueueW lose q).eccUnitOf pa true
    u.2.raiseW lose { unit := u.1, sev := sevD, code := 0x0502, master := .queue q, ctx := some n,
                      addr := BitVec.ofNat 64 pa, reclass := true }
  | .table pa =>
    let u := (s.freezeQueueW lose q).eccUnitOf pa true
    u.2.raiseW lose { unit := u.1, sev := sevD, code := 0x0502, master := .queue q, ctx := some n,
                      addr := BitVec.ofNat 64 pa, reclass := true }
  | .merge pa =>
    let u := s.eccUnitOf pa true
    u.2.raiseW lose { unit := u.1, sev := sevD, code := 0x0502, addr := BitVec.ofNat 64 pa }
  | .lost va =>
    (s.freezeQueueW lose q).raiseW lose { unit := .chip, sev := sevF, code := 0x0702, master := .queue q, ctx := some n,
                                          addr := BitVec.ofNat 64 va }

/-- A context is lost with no event of its rings: how one is lost by what an event at a ring sets off. -/
def loseQuiet : Lose := State.loseContextW (fun s _ _ _ => s)

/-- A context is lost (R302): what its rings hold is read, and what they are given is written, with the events of
`ringBad`. -/
def State.loseContext : Lose := State.loseContextW (ringBad loseQuiet)

/-- What a ring access outside a loss sets off. -/
def onRing : OnBad := ringBad State.loseContext

/-- A status word written (R297). -/
def State.writeStatus (s : State) (q k n : Nat) (status : BitVec 16) (detail : BitVec 8) (seq : Nat) : State :=
  s.writeStatusW onRing q k n status detail seq

/-- HEAD written to the ring. -/
def State.writeHead (s : State) (q n : Nat) : State := s.writeHeadW onRing q n

/-- Unstarted commands of a queue, and of every queue of a context, ended. -/
def State.endUnstarted (s : State) (q n : Nat) (status : BitVec 16) (fuel : Nat) : State := s.endUnstartedW onRing q n status fuel
def State.endQueues (s : State) (n : Nat) (status : BitVec 16) : State := s.endQueuesW onRing n status

/-- The freezes, the halt and the event's passage, with the loss of contexts as it is. -/
def State.freezeGroup (s : State) (g : GRef) (code : BitVec 16) (own : Bool) : State := s.freezeGroupW State.loseContext g code own
def State.stopGroup (s : State) (g : GRef) (code : BitVec 16) : State := s.stopGroupW State.loseContext g code
def State.freezeChannel (s : State) (b c : Nat) : State := s.freezeChannelW State.loseContext false b c
def State.stopChannel (s : State) (b c : Nat) : State := s.freezeChannelW State.loseContext true b c
def State.freezeDma (s : State) (b n : Nat) : State := s.freezeDmaW State.loseContext b n
def State.freezeQueue (s : State) (q : Nat) : State := s.freezeQueueW State.loseContext q
def State.freezeStream (s : State) (r q : Nat) : State := s.freezeStreamW State.loseContext r q
def State.freezeCe (s : State) (r c : Nat) (code : BitVec 16) : State := s.freezeCeW State.loseContext r c code
def State.freezeGroups (s : State) (sel : Nat → Bool) (code : BitVec 16) : State := s.freezeGroupsW State.loseContext sel code
def State.freezeEngines (s : State) (blk reg : Nat → Bool) : State := s.freezeEnginesW State.loseContext blk reg
def State.halt (s : State) (code : BitVec 16) : State := s.haltW State.loseContext code
def State.passage (s : State) (e : Event) (us : List UnitRef) : State × Event := s.passageW State.loseContext e us
def State.raise (s : State) (r : Report) : State := s.raiseW State.loseContext r

/-- A unit's handling time ends: it takes the oldest queued event (R340, R341). A C record that a halt found queued is
never logged (R338). -/
def State.unitFree (s : State) (u : UnitRef) : State :=
  let k := s.errUnit u
  let s := s.setErrUnit u { k with busy := false }
  match k.queue with
  | [] => s
  | e :: rest =>
    let s := s.setErrUnit u { s.errUnit u with queue := rest }
    if e.sev = sevC ∧ s.csrF oErrCfg 0 1 = 1 ∧ !s.chip.errs.halted then
      let r := s.logEvent e
      r.1.setErrUnit u { r.1.errUnit u with busy := true, current := e.sev }
    else s.setErrUnit u { s.errUnit u with busy := true, current := e.sev }

/-! ### Events with their freeze -/

/-- A group's own fault: it is frozen, and the CEU raises the event, even for a group frozen before (R52,
R53, R97, R100). -/
def State.faultGroup (s : State) (g : GRef) (code ext : BitVec 16) (addr : DWord) : State :=
  match s.group g with
  | none => s
  | some v =>
    (s.freezeGroup g code true).raise {
      unit := .ceu g.cell, sev := sevF, code := code, ext := ext,
      master := .group g, ctx := some v.ctx, addr := addr }

/-- A fault found after its instruction issued (R99, R100, R133): the program counter of a group not frozen
before goes back to the instruction. A group that is exiting is resident still, and is frozen too. -/
def State.lateFault (s : State) (g : GRef) (pc : DWord) (code ext : BitVec 16) (addr : DWord) : State :=
  match s.group g with
  | none => s
  | some v =>
    let s := if v.st = .frozen then s else s.setGroup g { v with pc := pc }
    s.faultGroup g code ext addr

/-- The launch of a group of block `b` completes with a fault (R302). -/
def State.faultLaunch (s : State) (b gid : Nat) (code : BitVec 16) : State :=
  match (s.block b).sets.find? (fun x => x.gids.contains gid) with
  | some x => s.modSet b x.id (fun y => if y.fault = 0 then { y with fault := code } else y)
  | none => s

/-- A fault of an instruction whose group has left its slot (R54): its context is lost, and the event raised. -/
def State.goneFault (s : State) (g : GRef) (gid ctx : Nat) (code ext : BitVec 16) (a : DWord) : State :=
  ((s.faultLaunch (cellBlock g.cell) gid code).loseContext ctx 1).raise {
    unit := .ceu g.cell, sev := sevF, code := code, ext := ext, master := .group g, ctx := some ctx, addr := a }

/-- Barrier deadlock (R51): one event by the BEU, naming the waiting group with the lowest index. -/
def State.deadlockCheck (s : State) (b id : Nat) : State :=
  match s.setOf b id with
  | none => s
  | some x =>
    if s.deadlocked b x then
      let live := (s.standing b x).filter (fun g => !decide (g.2.st = .exiting))
      let s := live.foldl (fun t g => t.freezeGroup g.1 0x0105 true) s
      match live with
      | [] => s
      | g :: _ => s.raise {
          unit := .beu b, sev := sevF, code := 0x0105, master := .group g.1, ctx := some x.ctx, addr := g.2.pc }
    else s

/-- A rejected write: counted, and CFG_REJECT raised (R373, Table 12-12). -/
def State.reject (s : State) (off lowBit : Nat) : State :=
  (s.countReject off lowBit).raise {
    unit := .chip, sev := sevC, code := 0x0A01, ext := BitVec.ofNat 16 lowBit,
    addr := BitVec.ofNat 64 (csrBase + off) }

/-- The cell that fails leaves service with its groups frozen (R350). -/
def State.fenceCell (s : State) (c : Nat) (code : BitVec 16) : State :=
  let k := s.cell c
  if k.fenced then s
  else
    let s := s.setCell c { k with fenced := true }
    let r := cellRegion c
    let s := { s with csrPend := drop s.csrPend (oCell c 0) }
    let s := { s with chip := { s.chip with fencedCnt := insertD 0 s.chip.fencedCnt r (lookupD 0 s.chip.fencedCnt r + 1) } }
    s.freezeGroups (fun x => decide (x = c)) code

/-- ECC_UNCORR in cell storage counted; at the limit the cell is fenced (R350, Table 11-11). The limit's
latched value applies at this count (Table 11-13). -/
def State.countUncorr (s : State) (c : Nat) : State :=
  let k := s.cell c
  let s := s.setCell c { k with err := { k.err with uncorr := satInc k.err.uncorr } }
  let s := s.applyB oErrCfg 0xFF00
  let lim := s.csrF oErrCfg 8 8
  if lim ≠ 0 ∧ lim ≤ k.err.uncorr.toNat + 1 ∧ !k.fenced then
    (s.fenceCell c 0x0901).raise { unit := .ceu c, sev := sevF, code := 0x0901, ext := 0x02, addr := BitVec.ofNat 64 c }
  else s

end Sys2Proof.Machine
end

