-- ==== Sys2Proof/Machine/Deferred.lean ====
section
/-! DEFINITION. ECC events of memory (R230–R232, Table 7-7) and the path of deferred errors (R335,
R347–R349): repeats of Skipper tasks, weight refetches and reclassification. -/

namespace Sys2Proof.Machine

/-- A task that a Skipper runs: region, stream, index, micro-batch. -/
abbrev TaskId := Nat × Nat × Nat × Nat

/-- The loaded program of a region (R190). -/
def State.program (s : State) (r : Nat) : Option Program :=
  let k := (s.region r).skip
  if k.st = 0 then none else k.prog

/-- Whether a physical address lies in a virtual range of a context. -/
def State.inRange (s : State) (n va len pa : Nat) : Bool :=
  (pageSpan va len).any (fun p =>
    let a := max va (p * 0x10000)
    match s.walk n a with
    | .leaf e =>
      let lo := e.pa + (a - e.vpage * 0x10000)
      let hi := lo + (min (va + len) ((p + 1) * 0x10000) - a)
      decide (lo ≤ pa) && decide (pa < hi)
    | _ => false)

/-- The master buffers and residues of a weight record (R186, Table 6-7). -/
def weightRanges (t : TensorRec) : List (Nat × Nat) :=
  if t.kind = 1 then [(t.a.toNat, 2 * t.elems), (t.b.toNat, 2 * t.elems), (t.c.toNat, t.elems), (t.d.toNat, t.elems)] else []

/-- The working buffers of an accumulator record (R182, Table 6-7). -/
def accumRanges (t : TensorRec) : List (Nat × Nat) :=
  if t.kind = 2 then [(t.a.toNat, 2 * t.elems), (t.c.toNat, t.elems)] else []

/-- The weight record of region `r`'s program whose buffers hold an address. -/
def State.weightAt (s : State) (r pa : Nat) : Option Nat :=
  match s.program r with
  | none => none
  | some p =>
    (List.range p.tensors.length).find? (fun i => match p.tensors[i]? with
      | some t => (weightRanges t).any (fun x => s.inRange (s.region r).skip.ctx x.1 x.2 pa)
      | none => false)

/-- Bytes of a kept input of micro-batch `m` in a form (R176). -/
def keptSize (tokens bytesPerToken : Nat) (hbm : Bool) : Nat :=
  let b := tokens * bytesPerToken
  if hbm then (b / 2 * 33 + 31) / 32 else b

/-- Whether an address lies in a kept input or working accumulator of region `r`'s program (R348). -/
def State.keptAt (s : State) (r pa : Nat) : Bool :=
  match s.program r with
  | none => false
  | some p =>
    let k := (s.region r).skip
    p.tensors.any (fun t => (accumRanges t).any (fun x => s.inRange k.ctx x.1 x.2 pa)) ||
    k.kept.any (fun x => x.held && (match p.tensors[x.blk]?, k.mbs[x.mb]? with
      | some t, some mb => s.inRange k.ctx x.addr (keptSize mb.1.toNat t.elems x.hbm) pa
      | _, _ => false))

/-- A task's descriptor. -/
def State.taskDesc (s : State) (t : TaskId) : Option TaskDesc :=
  match s.program t.1 with
  | none => none
  | some p => match p.streams[t.2.1]? with
    | none => none
    | some l => l[t.2.2.1]?

/-- The layer and micro-batch of an event of Table 11-10. -/
def State.taskAddr (s : State) (t : TaskId) : DWord :=
  BitVec.ofNat 64 ((match s.taskDesc t with | some d => d.layer % 65536 | none => 0) + t.2.2.2 % 65536 * 65536)

/-- A task's run record changed. -/
def State.modRun (s : State) (t : TaskId) (f : TaskRun → TaskRun) : State :=
  let v := s.region t.1
  s.setRegion t.1 { v with skip := { v.skip with runs := v.skip.runs.map (fun x =>
    if x.q = t.2.1 ∧ x.t = t.2.2.1 ∧ x.m = t.2.2.2 then f x else x) } }

/-- A task's run record. -/
def State.runOf (s : State) (t : TaskId) : Option TaskRun :=
  (s.region t.1).skip.runs.find? (fun x => decide (x.q = t.2.1) && decide (x.t = t.2.2.1) && decide (x.m = t.2.2.2))

/-- TASK_TAINT: the task's stream is frozen (R348, R349). -/
def State.taintStop (s : State) (t : TaskId) : State :=
  (s.freezeStream t.1 t.2.1).raise {
    unit := .geu t.1, sev := sevF, code := 0x0905, master := .stream t.1 t.2.1,
    ctx := some (s.region t.1).skip.ctx, addr := s.taskAddr t }

/-- TASK_TAINT of a refetch that no task began: the stream of the weights, stream 2, is frozen (log entry 45). -/
def State.taintWeights (s : State) (r : Nat) : State :=
  (s.freezeStream r 2).raise {
    unit := .geu r, sev := sevF, code := 0x0905, master := .stream r 2, ctx := some (s.region r).skip.ctx }

/-- A weight refetch begins (R349): for a context bound to a cocoon it ends at once with TASK_TAINT. -/
def State.startRefetch (s : State) (r x line : Nat) (t : Option TaskId) : State :=
  let n := (s.region r).skip.ctx
  let s := s.applyB oErrCfg 0xFF0000
  let s := s.raise { unit := .geu r, sev := sevD, code := 0x0906, ext := BitVec.ofNat 16 x, addr := BitVec.ofNat 64 line }
  let s := match t with
    | some i => s.modRun i (fun y => { y with tainted := true })
    | none => s
  if (s.boundTo n).isSome then
    match t with
    | some i => s.taintStop i
    | none => s.taintWeights r
  else
    let v := s.region r
    s.setRegion r { v with refetch := v.refetch ++ [{ tensor := x, line := line, task := t.map (·.2) }] }

/-- ECC_CORR for the word at a physical address (R231). -/
def State.eccCorrected (s : State) (pa : Nat) (m : Master) (ctx : Option Nat) : State :=
  let u := s.eccUnitOf pa false
  u.2.raise { unit := u.1, sev := sevC, code := 0x0501, master := m, ctx := ctx, addr := BitVec.ofNat 64 pa }

/-- An error taken as F (R334, R335): its master is frozen where it is freezable; of any other master the context is
lost. -/
def State.freezeMaster (s : State) (m : Master) (ctx : Option Nat) (code : BitVec 16) : State :=
  match m with
  | .group g => s.freezeGroup g code true
  | .chan b c => s.freezeChannel b c
  | .dma b => (match ctx with | some n => s.freezeDma b n | none => s)
  | .dmaSilk b => (match ctx with | some n => s.freezeDma b n | none => s)
  | .queue q => s.freezeQueue q
  | .stream r q => s.freezeStream r q
  | .ce r c => s.freezeCe r c code
  | _ => (match ctx with | some n => s.loseContext n 2 | none => s)

/-- An event of the D class taken as F, in a unit (R335). -/
def State.raiseReclass (s : State) (u : UnitRef) (m : Master) (ctx : Option Nat) (ext : BitVec 16) (addr : DWord) : State :=
  (s.freezeMaster m ctx 0x0502).raise {
    unit := u, sev := sevD, code := 0x0502, ext := ext, master := m, ctx := ctx, addr := addr, reclass := true }

/-- The Skipper takes a D event for a master of one of its tasks (R348). An address in a weight buffer starts a
refetch; a task that R348 repeats is tainted; in every other case no path recomputes the data: the record is taken as
F (R335, Table 11-7), and the task's stream is frozen with TASK_TAINT. -/
def State.deferTask (s : State) (t : TaskId) (u : UnitRef) (m : Master) (ctx : Option Nat) (ext : BitVec 16)
    (addr : DWord) (pa : Option Nat) : State :=
  let asD (s : State) : State := s.raise { unit := u, sev := sevD, code := 0x0502, ext := ext, master := m, ctx := ctx, addr := addr }
  match pa.bind (s.weightAt t.1) with
  | some x => (asD s).startRefetch t.1 x addr.toNat (some t)
  | none =>
    let kind := match s.taskDesc t with | some d => d.kind | none => 0
    let again := match s.runOf t with | some x => x.repeated | none => true
    if (kind = 1 ∨ kind = 2 ∨ kind = 4) ∧ !again ∧ !(match pa with | some a => s.keptAt t.1 a | none => false) then
      ((asD s).modRun t (fun y => { y with tainted := true, repeated := true })).raise {
        unit := .geu t.1, sev := sevC, code := 0x0904, master := .stream t.1 t.2.1, ctx := ctx, addr := s.taskAddr t }
    else (s.raiseReclass u m ctx ext addr).taintStop t

/-- ECC_UNCORR at a physical address, met by a reader (R231, R347, R348). In a weight buffer an event without a master,
or of Monarch's copy engines, starts a refetch (R349). -/
def State.eccUncorrected (s : State) (pa : Nat) (m : Master) (ctx : Option Nat) (t : Option TaskId) : State :=
  let u := s.eccUnitOf pa true
  let a := BitVec.ofNat 64 pa
  match t with
  | some i => u.2.deferTask i u.1 m ctx 0 a (some pa)
  | none =>
    let asD : State := u.2.raise { unit := u.1, sev := sevD, code := 0x0502, master := m, ctx := ctx, addr := a }
    match (if m = .nobody ∨ m = .monarch then (List.range 8).find? (fun r => (u.2.weightAt r pa).isSome) else none) with
    | some r => asD.startRefetch r ((u.2.weightAt r pa).getD 0) pa none
    | none => if m = .nobody then asD else u.2.raiseReclass u.1 m ctx 0 a

/-- The uncorrectable words that a read of `n` bytes meets, each raised (R231). -/
def State.readHits (s : State) (pa n : Nat) (m : Master) (ctx : Option Nat) (t : Option TaskId) : State :=
  (s.eccHits pa n).foldl (fun z u => z.eccUncorrected u m ctx t) s

/-- The same over physical pieces. -/
def State.pieceHits (s : State) (l : List (Nat × Nat)) (m : Master) (ctx : Option Nat) (t : Option TaskId) : State :=
  l.foldl (fun z p => z.readHits p.1 p.2 m ctx t) s

/-- A page-table read met an uncorrectable error (R237): taken as F, whatever its master. -/
def State.tableFault (s : State) (pa : Nat) (m : Master) (ctx : Option Nat) : State :=
  let u := s.eccUnitOf pa true
  u.2.raiseReclass u.1 m ctx 0 (BitVec.ofNat 64 pa)

/-- Bytes written at their coherence point: units covered whole are good again; units covered in part that
hold an uncorrectable error raise it, naming no master, and keep it (R231). -/
def State.write (s : State) (pa : Nat) (bs : List Byte) : State :=
  let s := s.eccWrite pa bs.length
  ((s.eccHits pa bs.length).foldl (fun z u => z.eccUncorrected u .nobody none none) s).store pa bs

/-- The same over physical pieces. -/
def State.writePieces (s : State) : List (Nat × Nat) → List Byte → State
  | [], _ => s
  | (pa, n) :: r, bs => (s.write pa (bs.take n)).writePieces r (bs.drop n)

/-- Bytes that an access of context `n`, checked when it began, writes when it ends (R231, R314). -/
def State.writeAs (s : State) (n pa : Nat) (bs : List Byte) : State :=
  let s := s.eccWrite pa bs.length
  ((s.eccHits pa bs.length).foldl (fun z u => z.eccUncorrected u .nobody none none) s).storeAs n pa bs

/-- The same over physical pieces. -/
def State.writePiecesAs (s : State) (n : Nat) : List (Nat × Nat) → List Byte → State
  | [], _ => s
  | (pa, k) :: r, bs => (s.writeAs n pa (bs.take k)).writePiecesAs n r (bs.drop k)

/-- The Skipper task that launched a group. -/
def State.groupTask (s : State) (g : GRef) : Option TaskId :=
  match s.group g with
  | none => none
  | some v => match s.setOf (cellBlock g.cell) v.setId with
    | some x => (match x.source with | .skipper r q t m => some (r, q, t, m) | _ => none)
    | none => none

end Sys2Proof.Machine
end

