-- ==== Sys2Proof/Machine/Operands.lean ====
section
/-! DEFINITION. Brias operands: the fields of the base word (Table 3-1), register files (R64–R66), the legal
operand forms (R67, R71, R76–R79, Table 3-5), guards and active threads (R69, R70), and the registers that
an instruction names, for REG_RANGE and for readiness (R41). -/

namespace Sys2Proof.Machine

/-! ### Fields (Table 3-1) -/

def iOpc (w : DWord) : Nat := fld w 56 8
def iPred (w : DWord) : Nat := fld w 53 3
def iPneg (w : DWord) : Bool := bit w 52
def iDst (w : DWord) : Nat := fld w 44 8
def iA (w : DWord) : Nat := fld w 36 8
def iB (w : DWord) : Nat := fld w 28 8
def iC (w : DWord) : Nat := fld w 20 8
def iMod (w : DWord) : Nat := fld w 0 20

/-- Sign-extended IMM12 as a 32-bit value (R71, R90). -/
def imm12 (w : DWord) : Word := wrap 32 (sext 12 (fld w 0 12))

/-- The major opcodes that the manual assigns (Tables 3-8 to 3-21, 4-4). -/
def assignedOpc (o : Nat) : Bool :=
  decide (0x01 ≤ o) && decide (o ≤ 0x16) || decide (0x40 ≤ o) && decide (o ≤ 0x45) ||
  decide (0x48 ≤ o) && decide (o ≤ 0x4E) || decide (o = 0x50) || decide (o = 0x80) || decide (o = 0x81) ||
  decide (0x90 ≤ o) && decide (o ≤ 0x93) || decide (0xA0 ≤ o) && decide (o ≤ 0xA8) ||
  decide (0xB0 ≤ o) && decide (o ≤ 0xB5) || decide (o = 0xB8) || decide (0xC0 ≤ o) && decide (o ≤ 0xC6) ||
  decide (o = 0xD0) || decide (o = 0xD1) || decide (0xE0 ≤ o) && decide (o ≤ 0xEC) ||
  decide (0xF0 ≤ o) && decide (o ≤ 0xF9)

/-- Opcodes with an extended word (R59). -/
def twoWords (o : Nat) : Bool := decide (0xB0 ≤ o) && decide (o ≤ 0xDF)

/-! ### Register files -/

/-- Register v`r` of thread `t`. -/
def Group.vreg (v : Group) (r t : Nat) : Word := lookupD 0 v.vregs (r * 64 + t)

/-- Scalar register. -/
def Group.sreg (v : Group) (n : Nat) : Word := lookupD 0 v.sregs n

/-- Predicate; p7 reads as all ones (R65). -/
def Group.pred (v : Group) (p : Nat) : DWord := if p = 7 then 0xFFFFFFFFFFFFFFFF else lookupD 0 v.preds p

/-- A 64-bit pair from its halves (R66). -/
def pairOf (lo hi : Word) : DWord := hi ++ lo

/-- A vector pair, and a scalar pair. -/
def Group.vpair (v : Group) (r t : Nat) : DWord := pairOf (v.vreg r t) (v.vreg (r + 1) t)
def Group.spair (v : Group) (n : Nat) : DWord := pairOf (v.sreg n) (v.sreg (n + 1))

/-- The halves of a pair. -/
def loWord (d : DWord) : Word := d.setWidth 32
def hiWord (d : DWord) : Word := (d >>> 32).setWidth 32

/-- A vector register written for the threads of a mask (R70). -/
def writeLanes (m : SMap Word) (r : Nat) (mask : DWord) (f : Nat → Word) : SMap Word :=
  (List.range 64).foldl (fun m t => if bit mask t then insertD 0 m (r * 64 + t) (f t) else m) m

def Group.setV (v : Group) (r : Nat) (mask : DWord) (f : Nat → Word) : Group :=
  { v with vregs := writeLanes v.vregs r mask f }

/-- A scalar register written. -/
def Group.setS (v : Group) (n : Nat) (x : Word) : Group := { v with sregs := insertD 0 v.sregs n x }

/-- A scalar pair written. -/
def Group.setS2 (v : Group) (n : Nat) (x : DWord) : Group := (v.setS n (loWord x)).setS (n + 1) (hiWord x)

/-- A predicate written in the bits of a mask; p7 discards writes (R65, R70). -/
def Group.setP (v : Group) (p : Nat) (mask x : DWord) : Group :=
  if p = 7 then v
  else { v with preds := insertD 0 v.preds p ((lookupD 0 v.preds p &&& ~~~mask) ||| (x &&& mask)) }

/-- A mask from its bits. -/
def maskOf (f : Nat → Bool) : DWord :=
  (List.range 64).foldl (fun m t => if f t then m ||| (1#64 <<< t) else m) 0

/-- All threads. -/
def allThreads : DWord := 0xFFFFFFFFFFFFFFFF

/-- Sticky flags raised (R74). -/
def Group.raiseF (v : Group) (fl : Nat) : Group := { v with flags := v.flags ||| BitVec.ofNat 5 fl }

/-- The guard's bits (R69). -/
def Group.guardBits (v : Group) (w : DWord) : DWord :=
  if iPneg w then ~~~(v.pred (iPred w)) else v.pred (iPred w)

/-- The active threads (R69). -/
def Group.active (v : Group) (w : DWord) : DWord := v.mask &&& v.guardBits w

/-- The active threads in ascending order. -/
def Group.activeList (v : Group) (w : DWord) : List Nat := maskBits 64 (v.active w).toNat

/-! ### Shapes -/

/-- What decoding says of an instruction: whether its encoding is legal, the vector registers it names, and
the registers that it reads or writes, coded r, 256 + s, 320 + p (R41). -/
structure Shape where
  ok   : Bool
  vs   : List Nat
  uses : List Nat
  deriving DecidableEq, Repr

def Shape.none : Shape := ⟨true, [], []⟩
def Shape.and (a b : Shape) : Shape := ⟨a.ok && b.ok, a.vs ++ b.vs, a.uses ++ b.uses⟩
def Shape.when (b : Bool) : Shape := ⟨b, [], []⟩

/-- A field of `cnt` vector registers, named by a multiple of `cnt` (R66). -/
def shV (n : Nat) (cnt : Nat := 1) : Shape :=
  let l := (List.range cnt).map (n + ·)
  ⟨n % cnt == 0, l, l⟩

/-- A field of `cnt` scalar registers (R66, R67, R118). -/
def shS (n : Nat) (cnt : Nat := 1) : Shape :=
  ⟨decide (n < 64) && n % cnt == 0, [], (List.range cnt).map (fun i => 256 + n + i)⟩

/-- A predicate read, and a predicate written: p7 is no destination (R65). -/
def shP (n : Nat) : Shape := ⟨decide (n < 8), [], [320 + n]⟩
def shPd (n : Nat) : Shape := ⟨decide (n < 7), [], [320 + n]⟩

/-- A field that must be zero (R67). -/
def shZ (n : Nat) : Shape := Shape.when (n == 0)

/-- The guard predicate is read. -/
def shGuard (w : DWord) : Shape := ⟨true, [], [320 + iPred w]⟩

/-- A whole-group instruction has no guard (R69). -/
def shWhole (w : DWord) : Shape := Shape.when (iPred w == 7 && !iPneg w)

/-- The destination of a lane instruction. -/
inductive LDst where
  | v (cnt : Nat)
  | p
  | s
  deriving DecidableEq, Repr

/-- The operand form of a lane instruction (Tables 3-8, 3-9, 3-13): destination; how many registers sources
a, b and c have (0: none); whether c is a predicate; whether b must be scalar or immediate; the bits of FN
that select the operation; whether IMM = 1 is legal; and whether it copies its immediate (MOV). -/
structure LaneForm where
  dst   : LDst
  a     : Nat
  b     : Nat
  c     : Nat
  cPred : Bool := false
  bScal : Bool := false
  fn    : Nat := 0
  imm   : Bool
  mov   : Bool := false
  deriving DecidableEq, Repr

/-- The flags of Table 3-5. -/
def mIMM (w : DWord) : Bool := bit w 19
def mAS (w : DWord) : Bool := bit w 18
def mBS (w : DWord) : Bool := bit w 17
def mCS (w : DWord) : Bool := bit w 16
def mU (w : DWord) : Bool := bit w 15
def mCmp (w : DWord) : Nat := fld w 12 3
def mRM (w : DWord) : Nat := fld w 14 2
def mNA (w : DWord) : Bool := bit w 13
def mNB (w : DWord) : Bool := bit w 12
def mFn (w : DWord) : Nat := fld w 0 12

/-- A source of `cnt` registers, vector or scalar. -/
def shSrc (scalar : Bool) (n cnt : Nat) : Shape := if scalar then shS n cnt else shV n cnt

/-- The shape of a lane instruction (R67, R71). -/
def LaneForm.shape (k : LaneForm) (w : DWord) : Shape :=
  let imm := mIMM w
  let d := match k.dst with
    | .v n => shV (iDst w) n
    | .p => shPd (iDst w)
    | .s => shS (iDst w)
  let a := if k.a = 0 ∨ (k.mov = true ∧ imm = true) then shZ (iA w) |>.and (Shape.when (!mAS w)) else shSrc (mAS w) (iA w) k.a
  let b := if k.b = 0 then (shZ (iB w)).and (Shape.when (!mBS w))
    else if imm then (shZ (iB w)).and (Shape.when (!mBS w))
    else (shSrc (mBS w) (iB w) k.b).and (Shape.when (!k.bScal || mBS w))
  let c := if k.c = 0 then (shZ (iC w)).and (Shape.when (!mCS w))
    else if k.cPred then (shP (iC w)).and (Shape.when (!mCS w)) else shSrc (mCS w) (iC w) k.c
  let f := Shape.when ((!imm || k.imm) && (imm || decide ((mFn w) &&& (0xFFF - k.fn) = 0)))
  (((d.and a).and b).and c).and (f.and (shGuard w))

/-- Source values of a lane instruction for thread `t`: a register of the file that its flag picks. -/
def Group.src (v : Group) (scalar : Bool) (n t : Nat) : Word := if scalar then v.sreg n else v.vreg n t
def Group.srcPair (v : Group) (scalar : Bool) (n t : Nat) : DWord := if scalar then v.spair n else v.vpair n t

def Group.srcA (v : Group) (w : DWord) (t : Nat) : Word := v.src (mAS w) (iA w) t
def Group.srcB (v : Group) (w : DWord) (imm : Word) (t : Nat) : Word :=
  if mIMM w then imm else v.src (mBS w) (iB w) t
def Group.srcC (v : Group) (w : DWord) (t : Nat) : Word := v.src (mCS w) (iC w) t

/-- The float immediate (R71). -/
def fimm (w : DWord) : Word := BitVec.ofNat 32 (fld w 0 12 * 2 ^ 20)

/-- The address of the instruction after one of `n` words. -/
def nextPc (pc : DWord) (n : Nat) : DWord := pc + BitVec.ofNat 64 (8 * n)

end Sys2Proof.Machine
end

