-- ==== Sys2Proof/Machine/Issue.lean ====
section
/-! DEFINITION. What every Brias instruction meets before its own effect: reconvergence (R46), the ready
conditions (R41), breakpoints (R394), fetch (R101), decode and the issue checks, in the order of R98. An
instruction that cannot issue now leaves the group as it stands (log entry 23). -/

namespace Sys2Proof.Machine

/-- Issue ports (Table 2-3). -/
inductive Port where
  | lanes
  | memory
  | matrix
  | control
  deriving DecidableEq, Repr

/-- A port's round-robin pointer moved to a slot (R40). -/
def State.movePtr (s : State) (g : GRef) (p : Port) : State :=
  let c := s.cell g.cell
  s.setCell g.cell { c with ptrs := match p with
    | .lanes => { c.ptrs with lanes := g.slot }
    | .memory => { c.ptrs with memory := g.slot }
    | .matrix => { c.ptrs with matrix := g.slot }
    | .control => { c.ptrs with control := g.slot } }

/-- One reconvergence step (R46): none when the test does not hold. -/
def reconvStep (v : Group) : Option Group :=
  match v.stack with
  | [] => none
  | top :: rest =>
    if v.pc = top.rpc ∨ v.mask = 0 then
      if top.pendDone then some { v with mask := top.saved &&& v.live, pc := top.rpc, stack := rest }
      else some { v with mask := top.pendMask &&& v.live, pc := top.pendPc, stack := { top with pendDone := true } :: rest }
    else none

/-- Reconvergence until the test fails (R46): each entry is visited at most twice. -/
def reconverge : Nat → Group → Group
  | 0, v => v
  | n + 1, v => match reconvStep v with
    | none => v
    | some u => reconverge n u

/-- Registers with an outstanding write (R41): of local loads and atomics, and of Silk requests (R87). -/
def State.busyRegs (s : State) (v : Group) : List Nat :=
  v.pend.flatMap (·.regs) ++ s.silk.reqs.flatMap (fun r => match r.2.waiter with
    | .load _ gid _ dst _ => if gid = v.gid then dst.map (fun d => d.1 / 64) else []
    | _ => [])

/-- Whether the group may issue at all: running, at no fence or WAIT, and not halted unless it steps. -/
def Group.mayIssue (v : Group) : Bool :=
  decide (v.st = .running) && v.fence.isNone && v.wait.isNone && (!v.halted || v.stepOne)

/-- Whether a breakpoint of the cell is enabled at an address (Table 12-11). -/
def State.breakAt (s : State) (c : Nat) (pc : DWord) : Bool :=
  (List.range 4).any (fun i =>
    s.csrF (oCell c (0x114 + 8 * i)) 31 1 == 1 &&
    decide (s.csrF (oCell c (0x110 + 8 * i)) 3 29 * 8 + s.csrF (oCell c (0x114 + 8 * i)) 0 16 * two32 = pc.toNat))

/-- Whether an instruction goes on to its effect: the state with its port's pointer moved, and the group as it
stands at the instruction; or the state in which it did not issue. -/
inductive Front where
  | stop (s : State)
  | go (s : State) (v : Group)

/-- A freeze found at the port (R98): the pointer moves, the group is frozen. -/
def State.portFault (s : State) (g : GRef) (p : Port) (code : BitVec 16) (addr : DWord) : State :=
  (s.movePtr g p).faultGroup g code 0 addr

/-- A sector put into a cache of `cap` lines: a full cache gives one up, which one is not the manual's (Table 7-1;
log entry 6). -/
def fillLine (cap pick : Nat) (m : SMap (List Byte)) (sec : Nat) (l : List Byte) : SMap (List Byte) :=
  let m := if (find m sec).isNone && decide (cap ≤ m.length) then m.eraseIdx (pick % m.length) else m
  put m sec l

/-- A sector of program text taken into the block's instruction cache of 64 KiB (R101). -/
def State.noteFetch (s : State) (b sec : Nat) : State :=
  let v := s.free
  let k := v.2.block b
  v.2.setBlock b { k with icache := fillLine 2048 v.1.toNat k.icache sec (s.bytes sec 32) }

/-- The sector of program text at a physical address, and whether it was read at its coherence point: what the
instruction cache took since it was last invalidated, where it is still held (R101, R240; log entry 6). -/
def State.textSector (s : State) (b sec : Nat) : (List Byte × Bool) × State :=
  match find (s.block b).icache sec with
  | none => ((s.bytes sec 32, true), s.noteFetch b sec)
  | some l =>
    let h := s.held
    if h.1 then ((l, false), h.2) else ((s.bytes sec 32, true), h.2.noteFetch b sec)

/-- Why a fetch does not deliver a row's instruction: a failed translation, an uncorrectable error, or a program
text that holds another instruction there. -/
inductive FetchStop where
  | fails (f : Tr) (a : Nat)
  | ecc (pa : Nat)
  | other
  deriving DecidableEq, Repr

/-- The word at a physical address of a sector compared with a row's, unless nothing asks for it; a fill reads the
sector whole (R231). -/
def State.fetchJudge (s : State) (l : List Byte × Bool) (pa : Nat) (w : DWord) (ask : Bool := true) : Option FetchStop :=
  if l.2 && !(s.eccHits (pa / 32 * 32) 32).isEmpty then some (.ecc (pa / 32 * 32))
  else if !ask || decide (BitVec.ofNat 64 (leAt l.1 (pa % 32) 8) = w) then none
  else some .other

/-- Fetch of an instruction's words, through translation and the block's instruction cache (R101): nothing where
they are the row's. The second word is in the first one's sector, or begins the next; behind a reserved opcode it may
hold anything. -/
def State.fetchWords (s : State) (b n pc : Nat) (two : Bool) (w x : DWord) : Option FetchStop × State :=
  let a := s.translate n pc .fetch
  match a.1 with
  | .ok pa _ =>
    let l := a.2.textSector b (pa / 32 * 32)
    match l.2.fetchJudge l.1 pa w with
    | some f => (some f, l.2)
    | none =>
      if !two then (none, l.2)
      else if pa % 32 ≠ 24 then (l.2.fetchJudge l.1 (pa + 8) x (assignedOpc (iOpc w)), l.2)
      else
        let c := l.2.translate n (pc + 8) .fetch
        match c.1 with
        | .ok pb _ =>
          let m := c.2.textSector b (pb / 32 * 32)
          (m.2.fetchJudge m.1 pb x (assignedOpc (iOpc w)), m.2)
        | f => (some (.fails f (pc + 8)), c.2)
  | f => (some (.fails f pc), a.2)

/-- Whether the instruction that a base word begins has a second word: its major opcode alone decides (R59). -/
def twoFetch (w : DWord) : Bool := twoWords (iOpc w)

/-- The shared front of every instruction (a context that is being suspended issues nothing, R307): `opc` is the row's opcode, `sh` the shape of its operands, `chk`
the issue check of R98 item 4, `room` whether its port can accept it. -/
def State.front (s : State) (g : GRef) (p : Port) (opc : Nat) (w x : DWord) (sh : Shape)
    (chk : State → Group → Option (BitVec 16)) (room : State → Group → Bool) : Front :=
  let s0 := s
  match s.group g with
  | none => .stop s
  | some v0 =>
    if !v0.mayIssue || decide (s.host.ctxBusy = some (v0.ctx, 7)) then .stop s
    else
      let v := reconverge (2 * v0.stack.length + 1) v0
      let s := s.setGroup g v
      if !v.halted && !v.bpPass && s.breakAt g.cell v.pc then .stop ({ s with side := { s.side with halts := s.side.halts + 1 } }.setGroup g { v with halted := true, bpPass := true })
      else
        let f := s.fetchWords (cellBlock g.cell) v.ctx v.pc.toNat (twoFetch w) w x
        match f.1 with
        | some .other => .stop s0
        | some (.ecc pa) => .stop (f.2.readHits pa 32 (.group g) (some v.ctx) (f.2.groupTask g))
        | some (.fails (.ecc pa) _) => .stop ((f.2.movePtr g .control).tableFault pa (.group g) (some v.ctx))
        | some (.fails _ a) => .stop (f.2.portFault g .control 0x010E (BitVec.ofNat 64 a))
        | none =>
          let s := f.2
          if iOpc w ≠ opc then
            (if assignedOpc (iOpc w) then .stop s0 else .stop (s.portFault g .control 0x0109 v.pc))
          else if !sh.ok || (twoWords opc && decide (fld x 56 8 ≠ 255 - opc)) then .stop (s.portFault g p 0x0109 v.pc)
          else if sh.vs.any (fun r => decide (v.regs ≤ r)) then .stop (s.portFault g p 0x0106 v.pc)
          else match chk s v with
            | some code => .stop (s.portFault g p code v.pc)
            | none =>
              if sh.uses.any (fun r => (s.busyRegs v).contains r) || !room s v then .stop s0
              else
                let v := { v with stepOne := false, bpPass := false }
                .go ((s.movePtr g p).setGroup g v) v

/-- No check and room always. -/
def noCheck (_ : State) (_ : Group) : Option (BitVec 16) := none
def anyRoom (_ : State) (_ : Group) : Bool := true

/-- A group slot that exists (R11, R32). -/
def gOk (g : GRef) : Bool := decide (g.cell < nCells) && decide (g.slot < 16)

/-- An instruction's meaning: its own effect once its front lets it go. -/
def issueOut (s : State) (g : GRef) (p : Port) (opc : Nat) (w x : DWord) (sh : Shape)
    (chk : State → Group → Option (BitVec 16)) (room : State → Group → Bool)
    (act : State → Group → Out1) : Out1 :=
  if !gOk g then .fault .noSuchUnit
  else match s.front g p opc w x sh chk room with
    | .stop t => .next t
    | .go t v => act t v

/-- The same for an effect that always is a next state. -/
def issue (s : State) (g : GRef) (p : Port) (opc : Nat) (w x : DWord) (sh : Shape)
    (chk : State → Group → Option (BitVec 16)) (room : State → Group → Bool)
    (act : State → Group → State) : Out1 :=
  issueOut s g p opc w x sh chk room (fun t v => .next (act t v))

end Sys2Proof.Machine
end

