-- ==== Sys2Proof/Machine/Matrix.lean ====
section
/-! DEFINITION. Problems and tags (R103–R106, R120, Table 4-2) and the issue of matrix and activation
instructions (R118, R119, R132, Tables 4-3 to 4-7). -/

namespace Sys2Proof.Machine

/-! ### Problems -/

/-- P and Q of a pack mode (R118). -/
def packP (pk : Nat) : Nat := if pk = 0 then 1 else if pk = 1 then 2 else 4
def packQ (qk : Bool) : Nat := if qk then 2 else 1

/-- Slots that a problem on base `b` covers (R103, R104). -/
def coverOf (b pk : Nat) (qk : Bool) : List Nat :=
  (List.range 8).filter (fun m =>
    decide (b / 4 ≤ m / 4) && decide (m / 4 < b / 4 + 2 / packQ qk) &&
    decide (b % 4 ≤ m % 4) && decide (m % 4 < b % 4 + 4 / packP pk))

/-- Legal base slots (Table 4-2). -/
def baseOk (b pk : Nat) (qk : Bool) : Bool := b % 4 % (4 / packP pk) == 0 && (qk || decide (b < 4))

def Tag.p (t : Tag) : Nat := packP t.pk.toNat
def Tag.q (t : Tag) : Nat := packQ t.qk
def Tag.cover (t : Tag) (b : Nat) : List Nat := coverOf b t.pk.toNat t.qk

/-- The tag of a slot that is its own default problem (R106). -/
def defaultTag (owner m : Nat) : Tag :=
  { owned := true, owner := owner, base := true, baseSlot := m, pk := 2, qk := true, rows := 8, cols := 4, ld := 16 }

/-- The bases of a group's problems. -/
def basesOf (m : SMap Tag) (owner : Nat) : List Nat :=
  (m.filter (fun t => t.2.owned && decide (t.2.owner = owner) && t.2.base)).map (·.1)

/-- A new problem on base `b` (R120): the tags after it, and the slots whose accumulators become zero. What the tag of
a covered slot that is no base holds beside BASE and its base's number is the model's choice (log entry 122): a copy of
the base's tag, with KPOS zero. -/
def tagProblem (m : SMap Tag) (owner b : Nat) (t : Tag) : SMap Tag × List Nat :=
  let cov := t.cover b
  let gone := (basesOf m owner).filter (fun x => ((lookupD {} m x).cover x).any cov.contains)
  let free := (gone.flatMap (fun x => (lookupD {} m x).cover x)).filter (fun x => !cov.contains x)
  let m := free.foldl (fun m x => insertD {} m x (defaultTag owner x)) m
  let m := cov.foldl (fun m x => insertD {} m x { t with owned := true, owner := owner, base := decide (x = b), baseSlot := b }) m
  (m, free ++ cov)

/-! ### Formats (Tables 4-3 and 4-6) -/

/-- Bits of an operand element in the buffers and on the bus (R107). -/
def elemBits (f : Nat) : Nat := if f = 1 ∨ f = 2 then 16 else if f = 0xB then 4 else 8

/-- MX formats. -/
def isMx (f : Nat) : Bool := decide (9 ≤ f) && decide (f ≤ 0xD)

/-- Integer operand formats. -/
def isInt8 (f : Nat) : Bool := decide (f = 7 ∨ f = 8)

/-- The legal weight formats of an input format. -/
def wfmtsOf (f : Nat) : List Nat :=
  if f = 1 then [1] else if f = 2 then [2] else if f = 3 ∨ f = 4 then [3, 4]
  else if f = 7 ∨ f = 8 then [7, 8] else if f = 0xB then [0xB]
  else if isMx f then [9, 0xA, 0xC, 0xD] else []

/-- Reduction positions per beat (Table 4-3). -/
def kPerBeat (f : Nat) : Nat := 16 / elemBits f

/-- K per pass of a problem (Table 4-2). -/
def kPass (f p : Nat) : Nat := 16384 / elemBits f / p

/-- Bytes of an element of C, of an output or of a saved output. -/
def outBytes (f : Nat) : Nat := if f = 0 ∨ f = 5 then 4 else if f = 1 ∨ f = 2 then 2 else 1

/-! ### Fields (Table 4-5) -/

def xFmt (x : DWord) : Nat := fld x 48 4
def xTr (x : DWord) : Bool := bit x 40
def xKoff (x : DWord) : Nat := fld x 16 13
def xK (x : DWord) : Nat := fld x 0 13
def xWfmt (x : DWord) : Nat := fld x 44 4
def xRmode (x : DWord) : Nat := fld x 40 2
def xSat (x : DWord) : Bool := bit x 39
def xClr (x : DWord) : Bool := bit x 38
def xAcc (x : DWord) : Bool := bit x 37
def wSlots (w : DWord) : List Nat := maskBits 8 (fld w 0 8)

/-- An extended word with bits only in the listed fields (low bit, length) and CHECK. -/
def onlyFields (x : DWord) (l : List (Nat × Nat)) : Bool :=
  x.toNat % 2 ^ 56 == l.foldl (fun a f => a + fld x f.1 f.2 * 2 ^ f.1) 0

/-- The shape of a matrix instruction: scalar groups of SRCA, SRCB, SRCC (0: unused), how many SLOTS bits. -/
def mxShape (w x : DWord) (a b c : Nat) (one : Option Bool) (fields : List (Nat × Nat)) (ok : Bool) : Shape :=
  let src (n cnt : Nat) : Shape := if cnt = 0 then shZ n else shS n cnt
  let slots := match one with
    | some true => decide ((wSlots w).length = 1)
    | some false => decide (1 ≤ (wSlots w).length)
    | none => (wSlots w).isEmpty
  ((shZ (iDst w)).and ((src (iA w) a).and ((src (iB w) b).and (src (iC w) c)))).and
    ((Shape.when (slots && decide (fld w 8 12 = 0) && onlyFields x fields && ok)).and (shWhole w))

/-- The tag that an MX.TAG starts, from its words and captured quad. -/
def tagOf (x : DWord) (args : List Word) : Tag :=
  { pk := BitVec.ofNat 2 (fld x 50 2), qk := bit x 49, xr := bit x 48, int := bit x 47, rows := fld x 40 4 + 1,
    cols := fld x 32 4 + 1, t := args.getD 0 0, ro := args.getD 1 0, co := args.getD 2 0, ld := args.getD 3 0 }

/-- What decoding asks of an MX.TAG (R105, R118). -/
def tagOk (w x : DWord) : Bool :=
  let t := tagOf x []
  decide (t.pk ≠ 3) && (wSlots w).all (fun b => baseOk b t.pk.toNat t.qk) &&
  decide (t.rows ≤ 16 / t.q) && decide (t.cols ≤ 16 / t.p) &&
  (!t.xr || (t.p == 1 && t.q == 1 && t.rows == 16 && t.cols == 16))

/-! ### Issue checks -/

/-- MX_PARTIAL, MX_SLOT and MX_SHAPE, in this order (R48, R98, R119, R132). -/
def mxCheck (g : GRef) (named : List Nat) (shape : SMap Tag → Group → Bool) (s : State) (v : Group) : Option (BitVec 16) :=
  if v.mask ≠ v.live then some 0x0101
  else if named.any (fun m => !bit v.slots m) then some 0x0102
  else if shape (s.cell g.cell).itags v then none else some 0x0110

/-- Every named slot is a base slot whose problem meets a condition. -/
def basesMeet (w : DWord) (p : Tag → Bool) (m : SMap Tag) (_ : Group) : Bool :=
  (wSlots w).all (fun b => let t := lookupD {} m b; t.base && p t)

/-- The conditions of R119 on a pass of `k` positions. -/
def passOk (f k koff : Nat) (t : Tag) : Bool :=
  decide (k + koff ≤ kPass f t.p) && (!isMx f || (decide (k % 32 = 0) && decide (koff % 32 = 0))) && (isInt8 f == t.int)

/-- The registers from SRCA, SRCB, SRCC that an entry captures. -/
def capture (v : Group) (l : List (Nat × Nat)) : List Word :=
  l.flatMap (fun x => (List.range x.2).map (fun i => v.sreg (x.1 + i)))

/-- The entry that an instruction puts in its group's array queue (R121). -/
def entryOf (v : Group) (w x : DWord) (args : List Word) : MxEntry :=
  { pc := v.pc, w := w, x := x, args := args, started := false, pieces := [], data := [], scales := [], kdone := 0 }

/-- Room in the group's array queue (R41, R121). -/
def mxRoom (_ : State) (v : Group) : Bool := decide (v.mxq.length < 4)

/-- An issue check that reads registers: it waits for them (R41, R98). -/
def whenRead (uses : List Nat) (chk : State → Group → Option (BitVec 16)) (s : State) (v : Group) : Option (BitVec 16) :=
  if (s.busyRegs v).any uses.contains then none else chk s v

/-- A matrix instruction accepted into the array queue. -/
def mxIssue (opc : Nat) (sh : Shape) (chk : State → Group → Option (BitVec 16)) (caps : List (Nat × Nat))
    (g : GRef) (w x : DWord) (s : State) : Out1 :=
  issue s g .matrix opc w x sh chk mxRoom (fun s v =>
    s.setGroup g { v with mxq := v.mxq ++ [entryOf v w x (capture v caps)], pc := nextPc v.pc 2 })

/-- MX.TAG: the slot it names is a base slot of the group's problems as they stand, and it counts for later checks
from its issue (R119). -/
def execMxTag (g : GRef) (w x : DWord) (s : State) : Out1 :=
  let t := tagOf x []
  let named := (wSlots w).flatMap (fun b => t.cover b)
  let sh := mxShape w x 4 0 0 (some true) [(47, 5), (40, 4), (32, 4)] (tagOk w x)
  issue s g .matrix 0xC0 w x sh (mxCheck g named (basesMeet w (fun _ => true))) mxRoom (fun s v =>
    let args := capture v [(iA w, 4)]
    let s := s.setGroup g { v with mxq := v.mxq ++ [entryOf v w x args], pc := nextPc v.pc 2 }
    let c := s.cell g.cell
    let m := (wSlots w).foldl (fun m b => (tagProblem m g.slot b (tagOf x args)).1) c.itags
    s.setCell g.cell { c with itags := m })

/-- MX.ZERO. -/
def execMxZero (g : GRef) (w x : DWord) (s : State) : Out1 :=
  mxIssue 0xC1 (mxShape w x 0 0 0 (some false) [] true) (mxCheck g (wSlots w) (basesMeet w (fun _ => true))) [] g w x s

/-- MX.LOADC. -/
def execMxLoadc (g : GRef) (w x : DWord) (s : State) : Out1 :=
  mxIssue 0xC2 (mxShape w x 2 1 0 (some true) [(48, 4)] ([0, 2, 5].contains (xFmt x)))
    (mxCheck g (wSlots w) (basesMeet w (fun t => t.int == decide (xFmt x = 5)))) [(iA w, 2), (iB w, 1)] g w x s

/-- The issue checks of an MX.LOAD: bits of the descriptor that Table 4-7 does not list are reserved under R63, and its
K and KOFF meet R119. -/
def loadCheck (g : GRef) (w x : DWord) (s : State) (v : Group) : Option (BitVec 16) :=
  let k := v.sreg (iA w + 3)
  if fld k 13 19 ≠ 0 then some 0x0109
  else mxCheck g (wSlots w) (basesMeet w (passOk (xFmt x) (fld k 0 13) (xKoff x))) s v

/-- MX.LOAD. -/
def execMxLoad (g : GRef) (w x : DWord) (s : State) : Out1 :=
  mxIssue 0xC3 (mxShape w x 8 0 0 (some true) [(48, 4), (40, 1), (16, 13)] (!(wfmtsOf (xFmt x)).isEmpty))
    (whenRead [256 + iA w + 3] (loadCheck g w x)) [(iA w, 8)] g w x s

/-- MX.WCAST. -/
def execMxWcast (g : GRef) (w x : DWord) (s : State) : Out1 :=
  mxIssue 0xC4 (mxShape w x 8 0 0 none [(48, 4), (44, 2), (40, 1)] (!(wfmtsOf (xFmt x)).isEmpty))
    (whenRead [256 + iA w + 3] (mxCheck g [] (fun _ v => decide (fld (v.sreg (iA w + 3)) 0 16 ≠ 0)))) [(iA w, 8)] g w x s

/-- MX.STREAM. -/
def execMxStream (g : GRef) (w x : DWord) (s : State) : Out1 :=
  let ok := (wfmtsOf (xFmt x)).contains (xWfmt x) && decide (xRmode x < 2) && !(isInt8 (xFmt x) && decide (xRmode x = 1)) &&
    decide (xK x ≤ 4096)
  mxIssue 0xC5 (mxShape w x 0 0 0 (some false) [(48, 4), (44, 4), (42, 2), (40, 2), (16, 13), (0, 13)] ok)
    (mxCheck g (wSlots w) (basesMeet w (passOk (xFmt x) (xK x) (xKoff x)))) [] g w x s

/-- MX.DRAIN. -/
def execMxDrain (g : GRef) (w x : DWord) (s : State) : Out1 :=
  let f := xFmt x
  let ok := [0, 1, 2, 3, 4, 5, 7].contains f && decide (xRmode x < 2) && !(decide (f = 5 ∨ f = 7) && decide (xRmode x = 1)) &&
    (!xAcc x || decide (f = 0 ∨ f = 2))
  mxIssue 0xC6 (mxShape w x 2 1 0 (some true) [(48, 4), (40, 2), (37, 3)] ok)
    (mxCheck g (wSlots w) (basesMeet w (fun t => t.int == decide (f = 5 ∨ f = 7)))) [(iA w, 2), (iB w, 1)] g w x s

/-- ACT.FWD: the parameter register is SRCB, for leaky ReLU (R130). -/
def execActFwd (g : GRef) (w x : DWord) (s : State) : Out1 :=
  let p := if xFmt x = 1 then 1 else 0
  mxIssue 0xD0 (mxShape w x 0 p 0 (some false) [(48, 4)] (decide (xFmt x ≤ 6)))
    (mxCheck g (wSlots w) (basesMeet w (fun t => !t.int))) [(iB w, p)] g w x s

/-- ACT.BWD: the parameter register is SRCC. -/
def execActBwd (g : GRef) (w x : DWord) (s : State) : Out1 :=
  let p := if xFmt x = 1 then 1 else 0
  mxIssue 0xD1 (mxShape w x 2 1 p (some true) [(48, 4), (44, 4)] (decide (xFmt x ≤ 4) && decide (xWfmt x ≤ 4)))
    (mxCheck g (wSlots w) (basesMeet w (fun t => !t.int))) [(iA w, 2), (iB w, 1), (iC w, p)] g w x s

end Sys2Proof.Machine
end

