-- ==== Sys2Proof/Machine/Array.lean ====
section
/-! DEFINITION. The array's queue and engines (R121–R126, R132, R133): when an entry starts, what it checks
and reads then, and what it leaves when it completes. -/

namespace Sys2Proof.Machine

/-! ### Geometry (R102–R104, R129) -/

/-- First row and column of a base slot. -/
def slotRow (b : Nat) : Nat := 8 * (b / 4)
def slotCol (b : Nat) : Nat := 4 * (b % 4)

/-- First byte of a problem's part of each buffer row, and of each scale buffer row (R104). -/
def partByte (b : Nat) (t : Tag) : Nat := slotCol b * t.p / 16 * (2048 / t.p)
def partScale (b : Nat) (t : Tag) : Nat := slotCol b * t.p / 16 * (128 / t.p)

/-- The output positions of a problem, row by row: (r, c), the array element (i, j) within the problem that
holds it (R129). -/
def outputs (t : Tag) : List (Nat × Nat × Nat × Nat) :=
  (List.range t.rows).flatMap (fun r => (List.range t.cols).map (fun c => if t.xr then (r, c, c, r) else (r, c, r, c)))

/-- The key of element (i, j) of the problem on base `b`. -/
def elemKey (b i j : Nat) : Nat := (slotRow b + i) * 16 + slotCol b + j

/-- The element index e (R108, R152). -/
def elemIndex (t : Tag) (i j : Nat) : Nat :=
  ((t.ro + BitVec.ofNat 32 i) * t.ld + (t.co + BitVec.ofNat 32 j)).toNat

/-- Accumulators of slots set to zero with their flags. -/
def zeroSlots (l : List Nat) (m : SMap Acc) : SMap Acc :=
  m.filter (fun e => !(l.contains (e.1 / 16 / 8 * 4 + e.1 % 16 / 4)))

/-- The rounding of an element: RMODE stochastic in domain `d` at position `pos` (R110, R152). -/
def mxRm (stoch : Bool) (sd : Seed) (d : Nat) (t : Tag) (i j pos : Nat) : Rm :=
  if stoch then .stoch (randWord sd d t.t.toNat (elemIndex t i j) pos) else .near

/-! ### Engines (R121, R122) -/

/-- Engines. -/
inductive Eng where
  | none
  | compute
  | load
  | drain
  deriving DecidableEq, Repr

/-- The engine of an entry. -/
def MxEntry.eng (e : MxEntry) : Eng :=
  if e.opc = 0xC1 ∨ e.opc = 0xC5 then .compute
  else if e.opc = 0xC2 ∨ e.opc = 0xC3 then .load
  else if e.opc = 0xC6 ∨ e.opc = 0xD0 ∨ e.opc = 0xD1 then .drain
  else .none

/-- The slots that an entry works on. -/
def MxEntry.covers (e : MxEntry) (owner : Nat) (m : SMap Tag) : List Nat :=
  if e.opc = 0xC0 then (wSlots e.w).flatMap (fun b => (tagProblem m owner b (tagOf e.x e.args)).2)
  else (wSlots e.w).flatMap (fun b => (lookupD {} m b).cover b)

/-- K of a STREAM; other entries need no beat. -/
def MxEntry.need (e : MxEntry) : Nat := if e.opc = 0xC5 then xK e.x else 0

/-- Whether a STREAM follows another with the same SLOTS and channel, of which every beat is granted (R122). -/
def chains (p e : MxEntry) : Bool :=
  decide (p.opc = 0xC5) && decide (e.opc = 0xC5) && decide (p.w = e.w) && decide (p.chan = e.chan) &&
  decide (1 ≤ p.need) && decide (p.kdone = p.need)

/-- The started entries of an engine of a cell, with their group slots. -/
def State.running (s : State) (c : Nat) (g : Eng) : List (Nat × MxEntry) :=
  (s.cell c).groups.flatMap (fun x => (x.2.mxq.filter (fun e => e.started && decide (e.eng = g))).map (fun e => (x.1, e)))

/-- A channel of a block. -/
def State.chan (s : State) (b c : Nat) : Channel := lookupD {} (s.block b).chans c
def State.setChan (s : State) (b c : Nat) (k : Channel) : State :=
  let v := s.block b
  s.setBlock b { v with chans := insertD {} v.chans c k }

/-- Beats of a WCAST. -/
def Wcast.beats (w : Wcast) : Nat := (w.kw + kPerBeat w.fmt - 1) / kPerBeat w.fmt

/-- The cells, by position, that a WCAST subscribes and that are in service (R114). -/
def State.subscribers (s : State) (b : Nat) (w : Wcast) : List Nat :=
  (List.range 16).filter (fun c => bit w.subs c && s.cellUp (b * 16 + c))

/-- R114: whether a STREAM of a group may start on its channel. -/
def State.streamMay (s : State) (g : GRef) (ctx : Nat) (e : MxEntry) : Bool :=
  let b := cellBlock g.cell
  match e.chan with
  | none => false
  | some c =>
    let k := s.chan b c
    match k.q with
    | [] => false
    | w :: _ => !k.frozen && decide (w.ctx = ctx) && (s.subscribers b w).contains (g.cell % 16)

/-- Whether an entry may start now (R121, R122, Table 4-17). -/
def State.mayStart (s : State) (g : GRef) (v : Group) (e : MxEntry) : Bool :=
  let tags := (s.cell g.cell).tags
  let run := s.running g.cell e.eng
  let mine := v.mxq.filter (fun x => x.started)
  let free := e.eng = .none || run.all (fun x => decide (x.1 = g.slot) && chains x.2 e)
  let apart := mine.all (fun x => chains x e || !((e.covers g.slot tags).any (x.covers g.slot tags).contains))
  decide (s.csrF (oCell g.cell 0x084) 0 1 = 0) && free && apart &&
  (if e.opc = 0xC5 ∧ e.need ≠ 0 then s.streamMay g v.ctx e else true) &&
  (if e.opc = 0xC4 then decide ((s.chan (cellBlock g.cell) (fld e.x 44 2)).q.length < 3) else true)

/-- A cell's round-robin pointer of an engine. -/
def Cell.engPtr (c : Cell) : Eng → Nat
  | .none => 15
  | .compute => c.ptrs.compute
  | .load => c.ptrs.load
  | .drain => c.ptrs.drain

/-- The first entry that has not started, with its place. -/
def nextEntry (q : List MxEntry) : Option (Nat × MxEntry) :=
  match q.findIdx? (fun e => !e.started) with
  | none => none
  | some k => (q[k]?).map (fun e => (k, e))

/-- Whether a group has an entry able to start on an engine. -/
def State.ableOn (s : State) (g : GRef) (e : Eng) : Bool :=
  match s.group g with
  | none => false
  | some v =>
    match nextEntry v.mxq with
    | none => false
    | some (_, x) => decide (x.eng = e) && s.mayStart g v x

/-- Whether an engine takes a group's entry next: round-robin over the slots from its pointer; an entry that needs no
engine waits for none (R121). -/
def State.startTurn (s : State) (g : GRef) (e : Eng) : Bool :=
  decide (e = .none) ||
  decide (((List.range 16).map (fun i => ((s.cell g.cell).engPtr e + 1 + i) % 16)).find?
    (fun n => s.ableOn { cell := g.cell, slot := n } e) = some g.slot)

/-- The engine's round-robin pointer moved to a slot. -/
def State.moveEng (s : State) (g : GRef) (e : Eng) : State :=
  let c := s.cell g.cell
  s.setCell g.cell { c with ptrs := match e with
    | .none => c.ptrs
    | .compute => { c.ptrs with compute := g.slot }
    | .load => { c.ptrs with load := g.slot }
    | .drain => { c.ptrs with drain := g.slot } }

/-! ### Checks at start (R132, R133) -/

/-- Rows translated: the pieces of each, and the failures. -/
def State.rowPieces (s : State) (n : Nat) (m : Mode) : List (Nat × Nat) → List (List (Nat × Nat)) × List (Tr × Nat) × State
  | [] => ([], [], s)
  | (va, len) :: rest =>
    let r := s.range n (va % 2 ^ 64) len m
    let u := r.2.rowPieces n m rest
    match r.1 with
    | .ok ps => (ps :: u.1, u.2.1, u.2.2)
    | .error f => ([] :: u.1, f :: u.2.1, u.2.2)

/-- What an entry's checks find. -/
inductive Started where
  | ok (rows : List (List (Nat × Nat)))
  | fault (code : BitVec 16) (addr : Nat)
  | table (pa : Nat)
  deriving DecidableEq, Repr

/-- The first failure of a kind. -/
def firstFail (l : List (Tr × Nat)) (p : Tr → Bool) : Option Nat := (l.find? (fun x => p x.1)).map (·.2)

/-- The address of the first row that is not wholly in the Layer Store (R128, R132). -/
def outsideLs (vas : List (Nat × Nat)) (rows : List (List (Nat × Nat))) : Option Nat :=
  ((vas.zip rows).find? (fun x => x.2.any (fun p => match placeOf p.1 with | some (.ls _) => false | _ => true))).map (·.1.1)

/-- A value that Table 4-7 or R132 asks to be a multiple of `unit`, and the base address it belongs to. -/
structure Align where
  value : Nat
  unit  : Nat
  base  : Nat
  deriving DecidableEq, Repr

/-- The checks in their order: alignment, translation, permission, source (R98, R132, R224). The event of a breach of
alignment carries the base address that breaks it; where only a stride does, it carries the base address that the
stride counts from, which is the model's choice (log entry 123). The first `ls` rows must lie in the Layer Store. -/
def State.checkRows (s : State) (n : Nat) (m : Mode) (al : List Align) (base : Nat) (vas : List (Nat × Nat))
    (refuse : Bool) (ls : Nat) : Started × State :=
  match al.find? (fun a => decide (a.value % a.unit ≠ 0)) with
  | some a => (.fault 0x010A a.base, s)
  | none =>
    let r := s.rowPieces n m vas
    match r.2.1.findSome? (fun f => match f.1 with | .ecc pa => some pa | _ => none),
        firstFail r.2.1 (fun t => decide (t = .xlate)), firstFail r.2.1 (fun t => decide (t = .perm)) with
    | some pa, _, _ => (.table pa, r.2.2)
    | none, some a, _ => (.fault 0x010B a, r.2.2)
    | none, none, some a => (.fault 0x010C a, r.2.2)
    | none, none, none =>
      if refuse then (.fault 0x0111 base, r.2.2)
      else
        (match outsideLs (vas.take ls) r.1 with
          | some a => .fault 0x0111 a
          | none => .ok r.1, r.2.2)

/-- An address pair among captured registers. -/
def argPair (e : MxEntry) (i : Nat) : Nat := (pairOf (e.args.getD i 0) (e.args.getD (i + 1) 0)).toNat
def argW (e : MxEntry) (i : Nat) : Nat := (e.args.getD i 0).toNat

/-- The descriptor of an MX.LOAD: K, the rows of elements and the rows of scales (Table 4-7). -/
def loadK (e : MxEntry) : Nat := argW e 3 % 8192
def loadRows (t : Tag) (e : MxEntry) : List (Nat × Nat) :=
  let bw := elemBits (xFmt e.x)
  let base := argPair e 0
  if xTr e.x then (List.range (loadK e)).map (fun k => (base + k * argW e 2, t.rows * bw / 8))
  else (List.range t.rows).map (fun r => (base + r * argW e 2, loadK e * bw / 8))
def loadScales (t : Tag) (e : MxEntry) : List (Nat × Nat) :=
  if isMx (xFmt e.x) then (List.range t.rows).map (fun r => (argPair e 4 + r * argW e 6, loadK e / 32)) else []

/-- Rows of C, of outputs or of saved outputs, each element of `n` bytes (R132). -/
def outRows (t : Tag) (e : MxEntry) (n : Nat) : List (Nat × Nat) :=
  (List.range t.rows).map (fun r => (argPair e 0 + r * argW e 2, t.cols * n))

/-- The working accumulator of a context's program that a virtual address lies in: region and record as one
number, and virtual address of the element's residue (R183). -/
def State.workingAt (s : State) (ctx va : Nat) : Option (Nat × Nat) :=
  (List.range 8).findSome? (fun r =>
    match s.program r with
    | none => none
    | some p =>
      if (s.region r).skip.ctx ≠ ctx then none
      else (List.range p.tensors.length).findSome? (fun i => match p.tensors[i]? with
        | some t =>
          if t.kind = 2 ∧ t.a.toNat ≤ va ∧ va < t.a.toNat + 2 * t.elems then
            some (r * 65536 + i, t.c.toNat + (va - t.a.toNat) / 2)
          else none
        | none => none))

/-- The working accumulator and residue of every element of a drain, row by row: those of a bf16 drain with ACC = 1
(R183). The array checks the residues' pages with the others that the drain touches (R133). -/
def State.residues (s : State) (ctx : Nat) (t : Tag) (e : MxEntry) : List (Option (Nat × Nat)) :=
  if e.opc = 0xC6 ∧ xAcc e.x = true ∧ xFmt e.x = 2 then
    (outRows t e 2).flatMap (fun p => (List.range t.cols).map (fun c => s.workingAt ctx (p.1 + 2 * c)))
  else []

/-- The alignments of a descriptor (Table 4-7): base, stride, and for MX formats those of the scales. -/
def descAlign (base stride unit sbase sstride sunit : Nat) (mx : Bool) : List Align :=
  [⟨base, 32, base⟩] ++ (if mx then [⟨sbase, 32, sbase⟩] else []) ++ [⟨stride, unit, base⟩] ++
  (if mx then [⟨sstride, sunit, sbase⟩] else [])

/-- The checks of an entry that reads or writes memory. -/
def State.entryChecks (s : State) (v : Group) (t : Tag) (e : MxEntry) : Started × State :=
  if e.opc = 0xC3 then
    let f := xFmt e.x
    let al := descAlign (argPair e 0) (argW e 2) 32 (argPair e 4) (argW e 6) 32 (isMx f)
    s.checkRows v.ctx .load al (argPair e 0) (loadRows t e ++ loadScales t e)
      (xTr e.x && (isMx f)) (if xTr e.x then (loadRows t e).length else 0)
  else
    let n := if e.opc = 0xD1 then outBytes (xWfmt e.x) else outBytes (xFmt e.x)
    let drain := decide (e.opc = 0xC6)
    let rows := outRows t e n
    s.checkRows v.ctx (if drain then .store else .load) [⟨argPair e 0, n, argPair e 0⟩, ⟨argW e 2, n, argPair e 0⟩] (argPair e 0)
      (rows ++ (s.residues v.ctx t e).filterMap (·.map (fun w => (w.2, 1)))) false (if drain && xAcc e.x then rows.length else 0)

/-- A fault of a starting entry (R133): entries that have not started are discarded, the group is frozen with
its program counter set back, and started entries go on. -/
def State.entryFault (s : State) (g : GRef) (e : MxEntry) (code : BitVec 16) (addr : Nat) : State :=
  let s := s.modGroup g (fun v => { v with mxq := v.mxq.filter (fun x => x.started) })
  (s.lateFault g e.pc code 0 (BitVec.ofNat 64 addr)).settleGroup g

/-- The same for an uncorrectable table entry (R237). -/
def State.entryTable (s : State) (g : GRef) (n : Nat) (e : MxEntry) (pa : Nat) : State :=
  let s := s.modGroup g (fun v => { v with
    mxq := v.mxq.filter (fun x => x.started), pc := if v.st = .frozen then v.pc else e.pc })
  (s.tableFault pa (.group g) (some n)).settleGroup g

/-- An entry of a group replaced. -/
def State.setEntry (s : State) (g : GRef) (k : Nat) (e : MxEntry) : State :=
  s.modGroup g (fun v => { v with mxq := v.mxq.set k e })

/-! ### Drains (R124, R149, R157) -/

/-- One element of a drain: its bytes, its encoding, the flags of its conversion and of its accumulator, and
what Antenna sees of it. -/
structure DrainElem where
  bits   : Nat
  fl     : Nat
  nonfin : Bool
  sat    : Bool
  zero   : Bool
  deriving DecidableEq, Repr

/-- The conversion of one accumulator to OFMT (R149). -/
def drainElem (int : Bool) (f : Nat) (rm : Rm) (sat : Bool) (a : Acc) : DrainElem :=
  let r : Res :=
    if f = 0 ∨ f = 5 then ⟨a.value.toNat, 0, false⟩
    else cvtOne (if int then 5 else 0) f rm sat a.value.toNat
  let o := valOf f r.bits
  { bits := r.bits
    fl := fOr r.fl (fOr (if a.inv then fINV else 0) (if a.ovf || a.sat then fOVF else 0))
    nonfin := match o with | .fin _ _ _ => false | _ => true
    sat := r.clamp || a.sat
    zero := match o with | .fin _ m _ => decide (m = 0) | _ => false }

/-- The elements that a drain writes, row by row. -/
def State.drainElems (s : State) (g : GRef) (ctx b : Nat) (t : Tag) (x : DWord) : List DrainElem :=
  let c := s.cell g.cell
  let sd := s.seed ctx
  (outputs t).map (fun o =>
    drainElem t.int (xFmt x) (mxRm (decide (xRmode x = 1)) sd 1 t o.2.2.1 o.2.2.2 t.kpos.toNat) (xSat x)
      (lookupD {} c.accs (elemKey b o.2.2.1 o.2.2.2)))

/-- The physical addresses of a drain's residues beside the elements they belong to. -/
def takeResidues : List (Option (Nat × Nat)) → List (List (Nat × Nat)) → List (Option (Nat × Nat))
  | [], _ => []
  | none :: r, ps => none :: takeResidues r ps
  | some w :: r, ps => (ps.headD []).head?.map (fun p => (w.1, p.1)) :: takeResidues r ps.tail

/-- Whether an element follows a fold group's last one in its value line and its residue line (R226). -/
def FoldGroup.joins (f x : FoldGroup) : Bool :=
  let k := f.vals.length
  decide (x.addr = f.addr + (if f.bf16 then 2 else 4) * k) && decide (x.addr / 128 = f.addr / 128) && decide (x.accum = f.accum) &&
  (match f.resid, x.resid with
    | none, none => true
    | some a, some b => decide (b = a + k) && decide (b / 64 = a / 64)
    | _, _ => false)

/-- An element added behind the fold groups before it, the last of them first. -/
def addFold (l : List FoldGroup) (x : FoldGroup) : List FoldGroup :=
  match l with
  | f :: r => if f.joins x then { f with vals := f.vals ++ x.vals } :: r else x :: f :: r
  | [] => [x]

/-- The fold groups of one row of a drain with ACC = 1: element addresses, residues and values. -/
def rowFolds (g : GRef) (v : Group) (bf16 : Bool) (ps : List (Nat × Nat)) (res : List (Option (Nat × Nat))) (vals : List Word) :
    List FoldGroup :=
  let n := if bf16 then 2 else 4
  let pas := ps.flatMap (fun p => (List.range (p.2 / n)).map (fun i => p.1 + n * i))
  ((List.range pas.length).foldl (fun a i =>
    let w := (res[i]?).join
    addFold a {
      g := g, gid := v.gid, ctx := v.ctx, ticket := v.ticket, bf16 := bf16, addr := pas.getD i 0, resid := w.map (·.2)
      accum := w.map (·.1), vals := [vals.getD i 0] }) []).reverse

/-- The folds of a drain handed to the accumulate ports of their destinations (R226); the launch's set notes the
working accumulators that it drains into (R228), and its task the tensor id (R164). -/
def State.sendFolds (s : State) (g : GRef) (v : Group) (t : Tag) (e : MxEntry) (rows : List (List (Nat × Nat))) (els : List DrainElem) : State :=
  let vals := els.map (fun d => BitVec.ofNat 32 d.bits)
  let res := takeResidues (s.residues v.ctx t e) (rows.drop t.rows)
  let fs := (rows.take t.rows).mapIdx (fun i ps =>
    rowFolds g v (decide (xFmt e.x = 2)) ps ((res.drop (i * t.cols)).take t.cols) ((vals.drop (i * t.cols)).take t.cols))
  let s := s.modSet (cellBlock g.cell) v.setId (fun x => { x with drains := (x.drains ++ res.filterMap (·.map (·.1))).eraseDups })
  let s := match s.groupTask g with
    | some i => s.modRun i (fun y => { y with accIds := if y.accIds.contains t.t then y.accIds else y.accIds ++ [t.t] })
    | none => s
  fs.flatten.foldl (fun z f =>
    let r := match placeOf f.addr with | some q => q.region | none => 0
    let k := z.region r
    z.setRegion r { k with accPort := k.accPort ++ [f] }) s

/-! ### Start -/

/-- An entry that reads or writes memory starts. -/
def State.startMem (s : State) (g : GRef) (v : Group) (k : Nat) (e : MxEntry) : State :=
  let b := (wSlots e.w).headD 0
  let t := lookupD {} (s.cell g.cell).tags b
  let r := s.entryChecks v t e
  match r.1 with
  | .fault code a => r.2.entryFault g e code a
  | .table pa => r.2.entryTable g v.ctx e pa
  | .ok rows =>
    let s := r.2
    if e.opc = 0xC6 then
      let s := s.setEntry g k { e with started := true, pieces := rows.take t.rows }
      if xAcc e.x then s.sendFolds g v t e rows (s.drainElems g v.ctx b t e.x) else s
    else
      let nel := if e.opc = 0xC3 then (loadRows t e).length else rows.length
      let el := rows.take nel
      let sc := rows.drop nel
      let s' := s.setEntry g k { e with
        started := true, pieces := rows, data := el.flatMap (fun p => s.pieces p), scales := sc.flatMap (fun p => s.pieces p) }
      s'.pieceHits rows.flatten (.group g) (some v.ctx) (s.groupTask g)

/-- A WCAST placed on its channel (R112, R113). -/
def State.placeWcast (s : State) (g : GRef) (v : Group) (e : MxEntry) : State :=
  let b := cellBlock g.cell
  let c := fld e.x 44 2
  let k := s.chan b c
  s.setChan b c { k with q := k.q ++ [{
    ctx := v.ctx, cid := v.cid, cell := g.cell % 16, slot := g.slot, fmt := xFmt e.x, tr := xTr e.x,
    addr := BitVec.ofNat 64 (argPair e 0), stride := argW e 2, kw := argW e 3 % 65536,
    subs := BitVec.ofNat 16 (argW e 3 / 65536), saddr := BitVec.ofNat 64 (argPair e 4), sstride := argW e 6,
    granted := 0 }] }

/-- MX_ENTRY_START: the group's oldest entry that has not started starts, where R121 lets it. -/
def execMxEntryStart (g : GRef) (s : State) : Out1 :=
  if !gOk g then .fault .noSuchUnit
  else match s.group g with
    | none => .next s
    | some v =>
      match nextEntry v.mxq with
      | none => .next s
      | some (k, e) =>
        if s.mayStart g v e && s.startTurn g e.eng then
          let s := s.moveEng g e.eng
          if e.opc = 0xC2 ∨ e.opc = 0xC3 ∨ e.opc = 0xC6 ∨ e.opc = 0xD1 then .next (s.startMem g v k e)
          else
            let s := s.setEntry g k { e with started := true }
            .next (if e.opc = 0xC4 then s.placeWcast g v e else s)
        else .next s

/-! ### Completion -/

/-- KPOS of problems set to zero (R109). -/
def zeroKpos (l : List Nat) (m : SMap Tag) : SMap Tag := l.foldl (fun m b => insertD {} m b { lookupD {} m b with kpos := 0 }) m

/-- MX.LOAD: element and scale bytes into the problem's buffer parts (R104, R128). -/
def fillLoad (c : Cell) (b : Nat) (t : Tag) (e : MxEntry) : Cell :=
  let bw := elemBits (xFmt e.x)
  let k := loadK e
  let o := partByte b t + xKoff e.x * bw / 8
  let row (r : Nat) : List Byte :=
    if xTr e.x then (List.range k).flatMap (fun i => slice e.data (i * (t.rows * bw / 8) + r * (bw / 8)) (bw / 8))
    else slice e.data (r * (k * bw / 8)) (k * bw / 8)
  let buf := (List.range t.rows).foldl (fun m r => rawWrite m ((slotRow b + r) * 2048 + o) (row r)) c.rowBuf
  let so := partScale b t + xKoff e.x / 32
  let sc := if isMx (xFmt e.x) then
      (List.range t.rows).foldl (fun m r => rawWrite m ((slotRow b + r) * 128 + so) (slice e.scales (r * (k / 32)) (k / 32))) c.scaleBuf
    else c.scaleBuf
  { c with rowBuf := buf, scaleBuf := sc }

/-- An element of C widened; a NaN becomes the canonical one (R140). -/
def widenC (f v : Nat) : Word :=
  if f = 5 then BitVec.ofNat 32 v
  else
    let w := BitVec.ofNat 32 (if f = 2 then v * 65536 else v)
    if isNan (f32 w) then nan32 else w

/-- MX.LOADC: every element of the problem set (Table 4-4). -/
def fillC (c : Cell) (b : Nat) (t : Tag) (e : MxEntry) : Cell :=
  let n := outBytes (xFmt e.x)
  let m := zeroSlots (t.cover b) c.accs
  let m := (outputs t).foldl (fun m o =>
    insertD {} m (elemKey b o.2.2.1 o.2.2.2) { value := widenC (xFmt e.x) (leAt e.data ((o.1 * t.cols + o.2.1) * n) n) }) m
  { c with accs := m, tags := zeroKpos [b] c.tags }

/-- Accumulators of a problem replaced, with the flags raised. -/
def actAll (c : Cell) (b : Nat) (t : Tag) (f : Nat → Nat → Word → Word × Nat) : Cell × Nat :=
  (outputs t).foldl (fun a o =>
    let k := elemKey b o.2.2.1 o.2.2.2
    let x := lookupD {} a.1.accs k
    let r := f o.1 o.2.1 x.value
    ({ a.1 with accs := insertD {} a.1.accs k { x with value := r.1 } }, fOr a.2 r.2)) (c, 0)

/-- A saved output widened to fp32 (R173). -/
def savedY (e : MxEntry) (t : Tag) (r c : Nat) : Word :=
  let n := outBytes (xWfmt e.x)
  let v := leAt e.data ((r * t.cols + c) * n) n
  if xWfmt e.x = 0 then BitVec.ofNat 32 v else BitVec.ofNat 32 (cvtOne (xWfmt e.x) 0 .near false v).bits

/-- An access that meets a hole after it was translated (R352): refused, its group frozen with ADDR_HOLE. -/
def State.holeFault (s : State) (g : GRef) (n pa : Nat) : State :=
  (s.freezeGroup g 0x0907 true).raise {
    unit := .beu (cellBlock g.cell), sev := sevF, code := 0x0907, master := .group g, ctx := some n, addr := BitVec.ofNat 64 pa }

/-- MX.DRAIN: rows written (but for ACC = 1), elements counted, flags raised, CLR applied. -/
def State.finishDrain (s : State) (g : GRef) (v : Group) (b : Nat) (t : Tag) (e : MxEntry) : State :=
  let els := s.drainElems g v.ctx b t e.x
  let n := outBytes (xFmt e.x)
  match e.pieces.flatten.find? (fun p => !s.inMem p.1 p.2) with
  | some p => s.holeFault g v.ctx p.1
  | none =>
    let s := if xAcc e.x then s
      else (e.pieces.zip (List.range t.rows)).foldl (fun z x =>
        z.writePiecesAs v.ctx x.1 (((els.drop (x.2 * t.cols)).take t.cols).flatMap (fun d => leBytes n d.bits))) s
    let s := s.modGroup g (fun u => u.raiseF (els.foldl (fun a d => fOr a d.fl) 0))
    let s := s.antDrain (cellRegion g.cell) t.t v.ctx v.mute (els.foldl (fun a d => a.add d.nonfin d.sat d.zero) {})
    if xClr e.x then
      let c := s.cell g.cell
      s.setCell g.cell { c with
        accs := (outputs t).foldl (fun m o => insertD {} m (elemKey b o.2.2.1 o.2.2.2) {}) c.accs
        tags := zeroKpos [b] c.tags }
    else s

/-- What an entry leaves when it completes (Table 4-4). -/
def State.finishEntry (s : State) (g : GRef) (v : Group) (e : MxEntry) : State :=
  let b := (wSlots e.w).headD 0
  let c := s.cell g.cell
  let t := lookupD {} c.tags b
  if e.opc = 0xC0 then
    let r := tagProblem c.tags g.slot b (tagOf e.x e.args)
    s.setCell g.cell { c with tags := r.1, accs := zeroSlots r.2 c.accs }
  else if e.opc = 0xC1 then
    s.setCell g.cell { c with
      accs := zeroSlots ((wSlots e.w).flatMap (fun b => (lookupD {} c.tags b).cover b)) c.accs
      tags := zeroKpos (wSlots e.w) c.tags }
  else if e.opc = 0xC2 then s.setCell g.cell (fillC c b t e)
  else if e.opc = 0xC3 then s.setCell g.cell (fillLoad c b t e)
  else if e.opc = 0xC5 then s.setCell g.cell { c with tags := addKpos e.slots e.kdone c.tags }
  else if e.opc = 0xC6 then s.finishDrain g v b t e
  else if e.opc = 0xD0 then
    let r := (wSlots e.w).foldl (fun a b =>
      let x := actAll a.1 b (lookupD {} c.tags b) (fun _ _ x => actFwdVal (xFmt e.x) x (e.args.getD 0 0))
      (x.1, fOr a.2 x.2)) (c, 0)
    (s.setCell g.cell r.1).modGroup g (fun u => u.raiseF r.2)
  else if e.opc = 0xD1 then
    let r := actAll c b t (fun i j x => actBwdVal (xFmt e.x) x (savedY e t i j) (e.args.getD 3 0))
    (s.setCell g.cell r.1).modGroup g (fun u => u.raiseF r.2)
  else s

/-- Whether a started entry has done its work: a STREAM has all its beats, a DRAIN its folds (R124, R125). -/
def State.entryDone (s : State) (v : Group) (e : MxEntry) : Bool :=
  e.started && decide (e.kdone = e.need) &&
  !(decide (e.opc = 0xC6) && s.regions.any (fun r => r.2.accPort.any (fun f => decide (f.gid = v.gid))))

/-- MX_ENTRY_COMPLETE: entry `k` of a group's array queue completes. -/
def execMxEntryComplete (g : GRef) (k : Nat) (s : State) : Out1 :=
  if !gOk g then .fault .noSuchUnit
  else match s.group g with
    | none => .next s
    | some v =>
      match v.mxq[k]? with
      | none => .next s
      | some e =>
        if s.entryDone v e then
          let s := s.finishEntry g v e
          let s := s.modGroup g (fun u => { u with mxq := u.mxq.eraseIdx k })
          .next (s.settleGroup g)
        else .next s

end Sys2Proof.Machine
end

