-- ==== Sys2Proof/Machine/Admit.lean ====
section
/-! DEFINITION. Group sets from their launch fields to their admission on a block (R34–R38, R58, R68, R106,
R219, R240, R296). -/

namespace Sys2Proof.Machine

/-! ### Launch fields (Table 9-7) -/

/-- The target block. -/
def launchBlock (b : List Byte) : Nat := leAt b 24 2

/-- The declaration lies in the ranges of R34; a group count outside Table 9-7 breaks it too. -/
def declOk (b : List Byte) : Bool :=
  decide (1 ≤ leAt b 26 2) && decide (leAt b 26 2 ≤ 256) && decide (16 ≤ leAt b 28 1) && decide (leAt b 29 1 ≤ 64) &&
  decide (leAt b 31 1 ≤ 16)

/-- The reserved bytes and bits of a launch are zero (R295). -/
def launchRsvOk (b : List Byte) : Bool := decide (leAt b 32 1 < 4) && allZero (slice b 33 23)

/-- The 16 launch parameters (R68). -/
def launchParams (b : List Byte) : List Word := (List.range 16).map (fun i => BitVec.ofNat 32 (leAt b (64 + 4 * i) 4))

/-- The group set of a launch. -/
def launchSet (b : List Byte) (id ctx : Nat) (cid : BitVec 16) (src : Source) (entry : DWord) (ticket : Nat) : GroupSet :=
  { id := id, ctx := ctx, cid := cid, source := src, entry := entry, groups := leAt b 26 2, regs := leAt b 28 1
    scratch := leAt b 29 1, slots := BitVec.ofNat 8 (leAt b 30 1), bars := leAt b 31 1
    mute := leAt b 32 1 % 2 == 1, icinv := leAt b 32 1 / 2 % 2 == 1, ticket := ticket, params := launchParams b
    barIds := [], placed := [], gids := [], exited := [], left := [], fault := 0 }

/-! ### Capacity (R35, R36) -/

/-- Registers of a cell that a group holds. -/
def groupRegs (r : Nat) : Nat := 64 * (8 * ((r + 7) / 8))

/-- Groups of a set that fall on the cell at position `k` of `n` (R36). -/
def groupsOn (count n k : Nat) : Nat := (count + n - 1 - k) / n

/-- MAX_GROUPS in force (Table 2-8). -/
def State.maxGroups (s : State) (c : Nat) : Nat :=
  let v := s.csrF (oCell c 0) 4 5
  if 1 ≤ v ∧ v ≤ 16 then v else 16

/-- An empty cell can hold `m` groups of a set. -/
def State.emptyHolds (s : State) (c : Nat) (x : GroupSet) (m : Nat) : Bool :=
  decide (m * groupRegs x.regs ≤ 32768) && decide (m * x.scratch ≤ 64) && (x.slots == 0 || decide (m ≤ 1)) &&
  decide (m ≤ s.maxGroups c)

/-- Registers that a cell's groups hold: a group that has exited has released its own (R54). -/
def Cell.regsUsed (k : Cell) : Nat :=
  k.groups.foldl (fun a g => if g.2.exited then a else a + groupRegs g.2.regs) 0

/-- Scratch units that a cell's groups hold. -/
def Cell.unitsUsed (k : Cell) : List Nat := k.groups.flatMap (fun g => g.2.scratchUnits)

/-- Matrix slots that a cell's groups own. -/
def Cell.slotsUsed (k : Cell) : BitVec 8 := k.groups.foldl (fun a g => a ||| g.2.slots) 0

/-- A cell can hold `m` more groups of a set now (R35, Table 2-8). -/
def State.holdsNow (s : State) (c : Nat) (x : GroupSet) (m : Nat) : Bool :=
  let k := s.cell c
  m == 0 ||
  (decide (k.regsUsed + m * groupRegs x.regs ≤ 32768) && decide (k.unitsUsed.length + m * x.scratch ≤ 64) &&
   (x.slots == 0 || (decide (m ≤ 1) && k.slotsUsed &&& x.slots == 0)) &&
   decide (k.groups.length + m ≤ s.maxGroups c) && decide (s.csrF (oCell c 0) 0 1 = 0))

/-- A block can take a launch: it exists, its region is in service and a cell of it is (R296). -/
def State.blockUp (s : State) (b : Nat) : Bool :=
  decide (b < nBlocks) && s.regionUp (blockRegion b) && !(s.cellsUp b).isEmpty

/-- A set that could not be admitted even onto empty cells (R36). -/
def State.neverFits (s : State) (b : Nat) (x : GroupSet) : Bool :=
  let up := s.cellsUp b
  (up.mapIdx (fun k c => s.emptyHolds (b * 16 + c) x (groupsOn x.groups up.length k))).any (fun ok => !ok)

/-- Barrier counters of a block that are free (R58). -/
def State.freeBars (s : State) (b : Nat) : List Nat :=
  (List.range 64).filter (fun n => !(lookupD {} (s.block b).bars n).inUse)

/-- A set can be admitted now (R36, R58). -/
def State.fitsNow (s : State) (b : Nat) (x : GroupSet) : Bool :=
  let up := s.cellsUp b
  (up.mapIdx (fun k c => s.holdsNow (b * 16 + c) x (groupsOn x.groups up.length k))).all id &&
  decide (x.bars ≤ (s.freeBars b).length)

/-- A set reaches its block (R36, R37, R296): queued, or waiting for room in the queue, or the status that ends its
launch. -/
def State.submitSet (s : State) (b : Nat) (x : GroupSet) : Except (BitVec 16) State :=
  if !s.blockUp b then .error stBadBlock
  else if s.neverFits b x then .error stNoFit
  else
    .ok (s.setBlock b ((s.block b).enqueue x))

/-! ### Admission -/

/-- The numbers below `n` that a list does not hold. -/
def freeOf (used : List Nat) (n : Nat) : List Nat := (List.range n).filter (fun i => !used.contains i)

/-- The initial scalar registers (Table 3-3). -/
def initScalars (x : GroupSet) (i b c slot : Nat) : SMap Word :=
  let l := [i, x.groups, b, c, slot, x.ctx].mapIdx (fun n v => (n, BitVec.ofNat 32 v))
  (l ++ x.params.mapIdx (fun n v => (8 + n, v))).foldl (fun m e => insertD 0 m e.1 e.2) []

/-- A group at its admission (R38, R68). FLAGS and the MCOUNT_HI latch start at 0, though Table 3-3 names neither
(DESIGN CHOICE, log entry 58). -/
def newGroup (x : GroupSet) (gid i b c slot : Nat) (units : List Nat) : Group :=
  { gid := gid, setId := x.id, ctx := x.ctx, cid := x.cid, index := i, count := x.groups, regs := x.regs
    scratchUnits := units, slots := x.slots, bars := x.bars, st := .running, code := 0, pc := x.entry
    live := 0xFFFFFFFFFFFFFFFF, mask := 0xFFFFFFFFFFFFFFFF, stack := [], vregs := [], sregs := initScalars x i b c slot
    preds := [], flags := 0, mcountHi := 0, scratch := [], halted := false, stepOne := false, bpPass := false
    pend := [], fence := none, wait := none, mxq := [], mute := x.mute, ticket := x.ticket }

/-- A slot's part of the row buffers or scale buffers zeroed: rows of `width` bytes in four parts (R106). -/
def zeroPart (slots : List Nat) (width : Nat) (m : SMap Byte) : SMap Byte :=
  m.filter (fun e => !(slots.contains (e.1 / width / 8 * 4 + e.1 % width / (width / 4))))

/-- The matrix slots of a cell granted to a group: each the base of its own problem, all zero (R38, R106). -/
def grantSlots (k : Cell) (owner : Nat) (slots : List Nat) : Cell :=
  { k with
    accs := zeroSlots slots k.accs
    rowBuf := zeroPart slots 2048 k.rowBuf
    scaleBuf := zeroPart slots 128 k.scaleBuf
    tags := slots.foldl (fun m b => insertD {} m b (defaultTag owner b)) k.tags
    itags := slots.foldl (fun m b => insertD {} m b (defaultTag owner b)) k.itags }

/-- Scratch units of a cell given to a group read zero: an error that they held has ended (R38, R231). -/
def State.cleanScratch (s : State) (c : Nat) (units : List Nat) : State :=
  { s with scratchEcc := s.scratchEcc.filter (fun k => !(decide (k / 8192 = c) && units.contains (k % 8192 / 128))) }

/-- Group `i` of a set placed on cell `c` of block `b` (R35, R36, R219): the state and the slot. -/
def State.placeGroup (s : State) (b : Nat) (x : GroupSet) (i c gid : Nat) : State × Nat :=
  let k := s.cell (b * 16 + c)
  let slot := (freeOf (k.groups.map (·.1)) 16).headD 0
  let units := (freeOf k.unitsUsed 64).take x.scratch
  let k := grantSlots { k with lineCache := [], groups := put k.groups slot (newGroup x gid i b c slot units) } slot
    (maskBits 8 x.slots.toNat)
  ((s.cleanScratch (b * 16 + c) units).setCell (b * 16 + c) k, slot)

/-- Groups of a set from index `i` on placed: the state, and the places and identities in order. -/
def State.placeAll (s : State) (b : Nat) (x : GroupSet) (up : List Nat) : Nat → Nat → State × List ((Nat × Nat) × Nat)
  | _, 0 => (s, [])
  | i, n + 1 =>
    let c := up.getD (i % up.length) 0
    let f := s.fresh
    let p := f.2.placeGroup b x i c f.1
    let r := p.1.placeAll b x up (i + 1) n
    (r.1, ((c, p.2), f.1) :: r.2)

/-- The head set of a block admitted. -/
def State.admitSet (s : State) (b : Nat) (x : GroupSet) : State :=
  let up := s.cellsUp b
  let bars := (s.freeBars b).take x.bars
  let r := s.placeAll b x up 0 x.groups
  let s := r.1
  let k := s.block b
  let v : Barrier := { setId := x.id, expected := x.groups, done := 0, phase := false, inUse := true }
  s.setBlock b { k with
    bars := bars.foldl (fun m n => insertD {} m n v) k.bars
    cache := []
    icache := if x.icinv then [] else k.icache
    sets := k.sets ++ [{ x with barIds := bars, placed := r.2.map (·.1), gids := r.2.map (·.2) }] }

/-- The latched MAX_GROUPS of a block's cells applied (Table 2-8). -/
def State.applyMaxGroups (s : State) (b : Nat) : State :=
  (List.range 16).foldl (fun t c => t.applyB (oCell (b * 16 + c) 0)) s

/-- A launch of the Skipper that can never be admitted raises TASK_TAINT and freezes its stream (R350). -/
def State.neverTask (s : State) (x : GroupSet) : State :=
  match x.source with
  | .skipper r q t m => s.taintStop (r, q, t, m)
  | _ => s

/-- GROUP_SET_ADMIT: the head of a block's launch queue is admitted, found never admissible, or waits. -/
def execGroupSetAdmit (b : Nat) (s : State) : Out1 :=
  if nBlocks ≤ b then .fault .noSuchUnit
  else match (s.block b).launchQ with
    | [] => .next s
    | x :: rest =>
      let s := s.applyMaxGroups b
      let pop (s : State) : State := s.setBlock b (Block.refill { s.block b with launchQ := rest })
      if !s.blockUp b || !s.sideOk x.ctx (blockRegion b) then .next (((pop s).setRemoved x stBadBlock).neverTask x)
      else if s.neverFits b x then .next (((pop s).setRemoved x stNoFit).neverTask x)
      else if s.fitsNow b x && (s.ctx x.ctx).st == 1 && !decide (s.host.ctxBusy = some (x.ctx, 7)) then
        .next ((pop s).admitSet b x)
      else .next s

end Sys2Proof.Machine
end

