-- ==== Sys2Proof/Machine/Lane.lean ====
section
/-! DEFINITION. The lane instructions' shared effect: one value per active thread from the sources' values
(R69–R72). -/

namespace Sys2Proof.Machine

/-- A lane result written to a vector register of the active threads, with the flags of those threads raised
(R70, R74); the program counter moves on. -/
def laneWrite (v : Group) (w : DWord) (f : Nat → Word × Nat) : Group :=
  let act := v.active w
  let fl := (v.activeList w).foldl (fun a t => fOr a (f t).2) 0
  { ((v.setV (iDst w) act (fun t => (f t).1)).raiseF fl) with pc := nextPc v.pc 1 }

/-- A lane instruction whose result is one word per thread. -/
def laneOp (opc : Nat) (k : LaneForm) (f : Group → Nat → Word × Nat) (g : GRef) (w : DWord) (s : State) : Out1 :=
  issue s g .lanes opc w 0 (k.shape w) noCheck anyRoom (fun s v => s.setGroup g (laneWrite v w (f v)))

/-- A lane instruction whose result is one predicate bit per thread (R70). -/
def lanePred (opc : Nat) (k : LaneForm) (f : Group → Nat → Bool × Nat) (more : Bool) (g : GRef) (w : DWord) (s : State) : Out1 :=
  issue s g .lanes opc w 0 ((k.shape w).and (Shape.when more)) noCheck anyRoom (fun s v =>
    let act := v.active w
    let fl := (v.activeList w).foldl (fun a t => fOr a (f v t).2) 0
    let v := ((v.setP (iDst w) act (maskOf (fun t => (f v t).1))).raiseF fl)
    s.setGroup g { v with pc := nextPc v.pc 1 })

/-- Forms: vd, a; vd, a, b; vd, a, b, c. -/
def fmA : LaneForm := { dst := .v 1, a := 1, b := 0, c := 0, imm := false }
def fmAB : LaneForm := { dst := .v 1, a := 1, b := 1, c := 0, imm := true }
def fmABC : LaneForm := { dst := .v 1, a := 1, b := 1, c := 1, imm := true }

/-- An integer instruction of one, two or three sources. -/
def intOp (opc : Nat) (k : LaneForm) (f : DWord → Word → Word → Word → Word) (g : GRef) (w : DWord) (s : State) : Out1 :=
  laneOp opc k (fun v t => (f w (v.srcA w t) (v.srcB w (imm12 w) t) (v.srcC w t), 0)) g w s

/-- Signed or unsigned a < b. -/
def ltW (u : Bool) (a b : Word) : Bool := if u then a.ult b else a.slt b

/-- Integer compare codes (Table 3-7). -/
def icmp (u : Bool) (code : Nat) (a b : Word) : Bool :=
  match code with
  | 0 => decide (a = b)
  | 1 => decide (a ≠ b)
  | 2 => ltW u a b
  | 3 => !ltW u b a
  | 4 => ltW u b a
  | _ => !ltW u a b

/-- Shifts by the unsigned value of b, not cut down (Table 3-8). -/
def shlW (a b : Word) : Word := a <<< b.toNat
def shrW (u : Bool) (a b : Word) : Word := if u then a >>> b.toNat else a.sshiftRight b.toNat

/-- The high half of a product (IMULHI). -/
def mulHi (u : Bool) (a b : Word) : Word :=
  if u then BitVec.ofNat 32 (a.toNat * b.toNat / 2 ^ 32) else wrap 32 (a.toInt * b.toInt / 2 ^ 32)

/-- One byte that a BSHUF selector picks. -/
def bshufByte (a b : Word) (sel : Nat) : Nat :=
  if sel < 4 then fld a (8 * sel) 8 else if sel < 7 then fld b (8 * (sel - 4)) 8 else 0

/-- BSHUF (Table 3-8). -/
def bshufW (fn : Nat) (a b : Word) : Word :=
  BitVec.ofNat 32 (bshufByte a b (nfld fn 0 3) + bshufByte a b (nfld fn 3 3) * 2 ^ 8 +
    bshufByte a b (nfld fn 6 3) * 2 ^ 16 + bshufByte a b (nfld fn 9 3) * 2 ^ 24)

end Sys2Proof.Machine
end

