-- ==== Sys2Proof/Machine/Scalar.lean ====
section
/-! DEFINITION. Scalar instructions (R90, R91, Tables 3-19 and 3-20) and the read of a block's measurement
counter (R25). -/

namespace Sys2Proof.Machine

/-- The shape of an arithmetic scalar instruction: `cnt` registers each; MOD[18:16] are reserved, CMP but for
S.SETP, and MOD[11:0] without IMM. -/
def scalShape (w : DWord) (d : Shape) (cnt : Nat) (mov cmp : Bool) : Shape :=
  let a := if mov && mIMM w then shZ (iA w) else shS (iA w) cnt
  let b := if mov || mIMM w then shZ (iB w) else shS (iB w) cnt
  ((d.and a).and (b.and (shZ (iC w)))).and
    ((Shape.when (decide (fld w 16 3 = 0) && (mIMM w || decide (fld w 0 12 = 0)) &&
      (if cmp then decide (mCmp w < 6) else decide (mCmp w = 0)))).and (shGuard w))

/-- A once instruction on the control port: its effect where some thread is active (R69). -/
def onceOp (opc : Nat) (sh : Shape) (w : DWord) (f : Group → Group) (g : GRef) (s : State) : Out1 :=
  issue s g .control opc w 0 sh noCheck anyRoom (fun s v =>
    let u := if v.active w = 0 then v else f v
    s.setGroup g { u with pc := nextPc v.pc 1 })

/-- The sources of a scalar instruction. -/
def Group.scA (v : Group) (w : DWord) : Word := v.sreg (iA w)
def Group.scB (v : Group) (w : DWord) : Word := if mIMM w then imm12 w else v.sreg (iB w)

/-- A scalar instruction of two sources. -/
def scalOp (opc : Nat) (f : Word → Word → Word) (g : GRef) (w : DWord) (s : State) : Out1 :=
  onceOp opc (scalShape w (shS (iDst w)) 1 false false) w (fun v => v.setS (iDst w) (f (v.scA w) (v.scB w))) g s

/-- S.ADD. -/
def execSAdd (g : GRef) (w : DWord) (s : State) : Out1 := scalOp 0xE0 (fun a b => a + b) g w s

/-- S.SUB. -/
def execSSub (g : GRef) (w : DWord) (s : State) : Out1 := scalOp 0xE1 (fun a b => a - b) g w s

/-- S.MUL. -/
def execSMul (g : GRef) (w : DWord) (s : State) : Out1 := scalOp 0xE2 (fun a b => a * b) g w s

/-- S.AND. -/
def execSAnd (g : GRef) (w : DWord) (s : State) : Out1 := scalOp 0xE3 (fun a b => a &&& b) g w s

/-- S.OR. -/
def execSOr (g : GRef) (w : DWord) (s : State) : Out1 := scalOp 0xE4 (fun a b => a ||| b) g w s

/-- S.XOR. -/
def execSXor (g : GRef) (w : DWord) (s : State) : Out1 := scalOp 0xE5 (fun a b => a ^^^ b) g w s

/-- S.SHL. -/
def execSShl (g : GRef) (w : DWord) (s : State) : Out1 := scalOp 0xE6 (fun a b => shlW a b) g w s

/-- S.SHR: U = 1 logical, U = 0 arithmetic. -/
def execSShr (g : GRef) (w : DWord) (s : State) : Out1 := scalOp 0xE7 (fun a b => shrW (mU w) a b) g w s

/-- S.MOV. -/
def execSMov (g : GRef) (w : DWord) (s : State) : Out1 :=
  onceOp 0xE8 (scalShape w (shS (iDst w)) 1 true false) w
    (fun v => v.setS (iDst w) (if mIMM w then imm12 w else v.scA w)) g s

/-- S.SETP: pd = all ones or all zeros. -/
def execSSetp (g : GRef) (w : DWord) (s : State) : Out1 :=
  onceOp 0xE9 (scalShape w (shPd (iDst w)) 1 false true) w
    (fun v => v.setP (iDst w) allThreads (if icmp (mU w) (mCmp w) (v.scA w) (v.scB w) then allThreads else 0)) g s

/-- S.ADD64: pair sum; IMM adds the sign-extended immediate. -/
def execSAdd64 (g : GRef) (w : DWord) (s : State) : Out1 :=
  onceOp 0xEA (scalShape w (shS (iDst w) 2) 2 false false) w
    (fun v => v.setS2 (iDst w) (v.spair (iA w) + (if mIMM w then wrap 64 (sext 12 (fld w 0 12)) else v.spair (iB w)))) g s

/-! ### Special registers -/

/-- A block's measurement counter as it is read now: while the window is open it has counted on by a number
of ACLK cycles that commands do not tell (R25, log entry 8). -/
def State.countNow (s : State) (b : Nat) : DWord × State :=
  let k := s.block b
  if k.win.opened then
    let c := k.win.counter + BitVec.ofNat 64 (Config.elapsed s.freeCtr)
    (c, { s.setBlock b { k with win := { k.win with counter := c } } with freeCtr := s.freeCtr + 1 })
  else (k.win.counter, s)

/-- The value of a special register (Table 3-20), and the state and group after its read. -/
def readSpr (s : State) (g : GRef) (v : Group) (n : Nat) : Word × State × Group :=
  match n with
  | 0x00 => (BitVec.ofNat 32 v.index, s, v)
  | 0x01 => (BitVec.ofNat 32 v.count, s, v)
  | 0x02 => (BitVec.ofNat 32 (cellBlock g.cell), s, v)
  | 0x03 => (BitVec.ofNat 32 (g.cell % 16), s, v)
  | 0x04 => (BitVec.ofNat 32 g.slot, s, v)
  | 0x05 => (BitVec.ofNat 32 v.ctx, s, v)
  | 0x06 => (v.flags.setWidth 32, s, v)
  | 0x07 => let c := s.countNow (cellBlock g.cell); (loWord c.1, c.2, { v with mcountHi := hiWord c.1 })
  | 0x08 => (v.mcountHi, s, v)
  | _ => (s.node.setWidth 32, s, v)

/-- The shape of a special-register instruction. -/
def sprShape (w : DWord) (r : Shape) (other ok : Nat → Bool) (z : Nat) : Shape :=
  ((r.and (shZ z)).and ((shZ (iB w)).and (shZ (iC w)))).and
    ((Shape.when (decide (fld w 8 12 = 0) && other (fld w 0 8) && ok (fld w 0 8))).and (shGuard w))

/-- S.RDSPR. -/
def execSRdspr (g : GRef) (w : DWord) (s : State) : Out1 :=
  issue s g .control 0xEB w 0 (sprShape w (shS (iDst w)) (fun n => decide (n ≤ 9)) (fun _ => true) (iA w)) noCheck anyRoom
    (fun s v =>
      if v.active w = 0 then s.setGroup g { v with pc := nextPc v.pc 1 }
      else
        let r := readSpr s g v (fld w 0 8)
        r.2.1.setGroup g { r.2.2.setS (iDst w) r.1 with pc := nextPc v.pc 1 })

/-- S.WRSPR: FLAGS is the one writable register. -/
def execSWrspr (g : GRef) (w : DWord) (s : State) : Out1 :=
  onceOp 0xEC (sprShape w (shS (iA w)) (fun n => decide (n ≤ 9)) (fun n => decide (n = 6)) (iDst w)) w
    (fun v => { v with flags := (v.scA w).setWidth 5 }) g s

end Sys2Proof.Machine
end

