-- ==== Sys2Proof/Machine/HostCmd.lean ====
section
/-! DEFINITION. The queue unit (R287–R300, R302, R304): command starts, the commands of Table 9-6 that act on
groups, fences, block memory and measurement windows, and their completion. -/

namespace Sys2Proof.Machine

/-! ### Command addresses (R287, R288) -/

/-- The memory object table's physical address. -/
def State.mobjBase (s : State) : Nat := s.csrF (oHost 0x1C00) 16 16 * 65536 + s.csrF (oHost 0x1C04) 0 16 * two32

/-- A command address resolved for `len` bytes: a virtual address, or the fault code; table entries are read at
their coherence point, where an uncorrectable error is met as R231 says. -/
def State.resolve (s : State) (n : Nat) (m : Master) (a : DWord) (len : Nat) : Except (BitVec 16) Nat × State :=
  if !bit a 63 then (if fld a 48 15 = 0 then .ok a.toNat else .error 0x010B, s)
  else if bit a 62 then (.error 0x010B, s)
  else
    let e := s.mobjBase + 32 * fld a 44 18
    let o := fld a 0 44
    if !s.inDram e 32 then (.error 0x010B, s)
    else if !(s.eccHits e 32).isEmpty then (.error 0x0502, s.readHits e 32 m (some n) none)
    else
      let b := s.bytes e 32
      if leAt b 0 1 % 2 = 1 ∧ leAt b 2 2 = (s.cid n).toNat ∧ o + len ≤ leAt b 16 8 then (.ok (leAt b 8 8 + o), s)
      else (.error 0x010B, s)

/-- A bound context may not name upper-half addresses in a command (R317). -/
def State.upperBad (s : State) (n va len : Nat) : Bool := (s.boundTo n).isSome && decide (2 ^ 47 ≤ va + (len - 1))

/-! ### Queue faults (R293, Table 9-14) -/

/-- A queue frozen with an event of Table 9-14. -/
def State.queueFault (s : State) (q : Nat) (code : BitVec 16) (addr : DWord) : State :=
  let n := s.qCtx q
  (s.freezeQueue q).raise { unit := .chip, sev := sevF, code := code, master := .queue q, ctx := n, addr := addr }

/-- A command whose own address fails (R287, R302): it completes with FAULT and its context is lost. -/
def State.cmdXlate (s : State) (q k n : Nat) (code : BitVec 16) (addr : DWord) : State :=
  let s := s.cmdResult q k stFault (code.setWidth 8)
  if code = 0x0502 then s else (s.loseContext n 4).queueFault q 0x0702 addr

/-- A command's engine access that fails after it started, with no engine of its own to freeze. -/
def State.cmdFault (s : State) (q k n : Nat) (code : BitVec 16) (addr : Nat) : State :=
  ((s.cmdResult q k stFault (code.setWidth 8)).loseContext n 4).queueFault q 0x0703 (BitVec.ofNat 64 addr)

/-- Ring bytes read by the queue unit, or the state after the fault of R293: a failed translation, or an
uncorrectable error, which is taken as F (R348). -/
def State.readRing (s : State) (q n va len : Nat) : Except State (List Byte × State) :=
  let r := s.range n va len .load
  match r.1 with
  | .error (.ecc pa, _) => .error (r.2.tableFault pa (.queue q) (some n))
  | .error (_, a) => .error (r.2.queueFault q 0x0702 (BitVec.ofNat 64 a))
  | .ok ps =>
    if ps.any (fun p => !(r.2.eccHits p.1 p.2).isEmpty) then .error (r.2.pieceHits ps (.queue q) (some n) none)
    else .ok (r.2.pieces ps, r.2)

/-- The queue unit reads a ring's TAIL afresh through a context slot (R291, R293). Commands that it brings in for a
lost context end at once (R302); those of a teardown that has only frozen its queues wait for its DISCARD (R305). -/
def State.takeTail (s : State) (q n : Nat) : State :=
  match s.readRing q n (s.qRing q) 8 with
  | .error t => t
  | .ok (b, t) =>
    let u := t.queue q
    let tail := BitVec.ofNat 32 (leAt b 0 4)
    if 2 ^ t.qSize q < (tail - u.head).toNat then t.queueFault q 0x0701 (BitVec.ofNat 64 q)
    else
      let t := t.setQueue q { u with tail := tail }
      let c := t.ctx n
      if c.st = 2 ∧ ¬(c.cause = 6 ∧ c.phase = 1) then t.endUnstarted q n stCtxLost (tail - u.head).toNat else t

/-- The same for an enabled queue whose context holds a slot. -/
def State.readTail (s : State) (q : Nat) : State :=
  if !s.qEnabled q then s
  else match s.qCtx q with
    | none => s
    | some n => s.takeTail q n

/-- A queue leaves the parked state; HEAD and TAIL are brought up to date with its ring (log entry 27). -/
def State.unpark (s : State) (q : Nat) : State :=
  let u := s.queue q
  if u.parked then
    let s := s.setQueue q { u with parked := false }
    match s.qCtx q with
    | some n => (s.writeHead q n).readTail q
    | none => s
  else s

/-- A FENCE_WAIT leaves its fence and lets its queue go (R300). -/
def State.leaveFence (s : State) (q : Nat) (c : Cmd) : State :=
  if c.holds then
    let f := leAt c.bytes 16 2
    (s.setQueue q { s.queue q with waiting := false }).setFence f { s.fence f with waiters := (s.fence f).waiters - 1 }
  else s

/-- A queue disabled: its commands are gone, and its waits leave their fences. -/
def State.disableQueue (s : State) (q : Nat) : State :=
  let u := s.queue q
  let s := u.running.foldl (fun t c => t.leaveFence q c) s
  (s.setCsr (oQ q 0) (setFld (s.csrAt (oQ q 0)) 0 1 0)).setQueue q { head := u.head, tail := u.head, lastSeq := u.lastSeq }

/-! ### Command start (R290, R294, R295, R299) -/

/-- The next command's bytes, nothing while TAIL does not cover it all, or the state after a ring fault. -/
def State.fetchCmd (s : State) (q n : Nat) : Except State (Option (List Byte) × State) :=
  let u := s.queue q
  match s.readRing q n (s.qEntry q u.head.toNat) 64 with
  | .error t => .error t
  | .ok (b, t) =>
    if leAt b 1 1 / 2 % 2 = 0 then .ok (some b, t)
    else if (u.tail - u.head).toNat < 2 then .ok (none, t)
    else match t.readRing q n (t.qEntry q (u.head.toNat + 1)) 64 with
      | .error t => .error t
      | .ok (d, t) => .ok (some (b ++ d), t)

/-- Bytes 16 to 55 that a command uses (Table 9-7). -/
def usedBytes (opc i : Nat) : Bool :=
  match opc with
  | 1 => decide (i ≤ 32)
  | 2 => decide (i < 18) || (decide (24 ≤ i) && decide (i < 30))
  | 3 => decide (i < 42)
  | 4 => decide (i < 36) || i == 40 || i == 41
  | 5 => decide (i < 25)
  | 6 => decide (i < 25)
  | 7 => i == 24
  | 8 => i == 24
  | 9 => decide (i < 21) || (decide (24 ≤ i) && decide (i < 44))
  | _ => false

/-- Reserved bits inside used bytes (Tables 9-7, 9-10). -/
def usedBitsOk (opc : Nat) (b : List Byte) : Bool :=
  match opc with
  | 1 => decide (leAt b 32 1 < 4)
  | 2 => decide (leAt b 16 2 < 16384)
  | 9 => decide (leAt b 20 1 < 4)
  | _ => true

/-- A command that breaks R295 or the rules of its layout: `k` is its ring index, `size` the ring's log₂. -/
def badCmd (b : List Byte) (k size : Nat) : Bool :=
  let opc := leAt b 0 1
  let two := leAt b 1 1 / 2 % 2 == 1
  decide (9 < opc) || (two != (opc == 1)) || decide (4 ≤ leAt b 1 1) || decide (leAt b 4 4 ≠ 0) ||
  decide (leAt b 8 8 / 16384 % 2 = 1) || !((List.range 40).all (fun i => usedBytes opc (16 + i) || leAt b (16 + i) 1 == 0)) ||
  !usedBitsOk opc b || (two && decide (k % 2 ^ size = 2 ^ size - 1))

/-- SIGNAL of a command. -/
def cmdSignal (b : List Byte) : DWord := BitVec.ofNat 64 (leAt b 8 8)

/-- The status that a command's start gives it, if any (R295, R299). -/
def State.startCheck (s : State) (q : Nat) (b : List Byte) (k : Nat) : Option (BitVec 16) :=
  let sig := cmdSignal b
  let f := s.fence (fld sig 0 14)
  if badCmd b k (s.qSize q) then some stBadCmd
  else if bit sig 15 && (f.st == 0 || f.owner != s.qCid q) then some stBadFence
  else none

/-- LAUNCH commands for a block that have started and not yet reached it. -/
def State.launching (s : State) (b : Nat) : Nat :=
  s.host.queues.foldl (fun a u => a + (u.2.running.filter (fun c =>
    !c.begun && c.result.isNone && leAt c.bytes 0 1 == 1 && launchBlock c.bytes == b)).length) 0

/-- The last two conditions of R294: BARRIER, and room for a LAUNCH. -/
def State.startable (s : State) (q : Nat) (b : List Byte) : Bool :=
  let u := s.queue q
  (leAt b 1 1 % 2 == 0 || u.running.isEmpty) &&
  (leAt b 0 1 != 1 || decide ((s.block (launchBlock b)).waiting + s.launching (launchBlock b) < 32))

/-- A queue may start a command: enabled, in none of the holding states, of an active context, with commands. -/
def State.qReady (s : State) (q : Nat) : Bool :=
  let u := s.queue q
  s.qEnabled q && !u.frozen && !u.stopped && !u.waiting && !u.parked && u.head != u.tail &&
  (match s.qCtx q with | some n => (s.ctx n).st == 1 | none => false)

/-- A command starts: HEAD advances and is written to the ring (R294); a FENCE_WAIT holds its queue and counts in its
fence from here on (R300). -/
def State.startCmd (s : State) (q n : Nat) (b : List Byte) : State :=
  let u := s.queue q
  let r := s.startCheck q b u.head.toNat
  let c : Cmd := { k := u.head.toNat, ctx := n, bytes := b, begun := false, result := r.map (fun st => (st, 0)) }
  let s := s.setQueue q { u with
    head := u.head + (if leAt b 1 1 / 2 % 2 = 1 then 2 else 1), running := u.running ++ [c]
    stopped := u.stopped || r == some stBadFence, waiting := u.waiting || c.holds }
  let f := leAt b 16 2
  let s := if c.holds then s.setFence f { s.fence f with waiters := (s.fence f).waiters + 1 } else s
  s.writeHead q n

/-- The first queue of a list that starts a command, or whose ring fails, does so. -/
def State.startFirst (s : State) (p : Nat) : List Nat → Option State × State
  | [] => (none, s)
  | q :: rest =>
    match s.qCtx q with
    | none => s.startFirst p rest
    | some n =>
      match s.fetchCmd q n with
      | .error t => (some t, s)
      | .ok (none, t) => t.startFirst p rest
      | .ok (some b, t) =>
        if t.startable q b then
          (some ({ t with host := { t.host with lastQueue := insertD 1023 t.host.lastQueue p q } }.startCmd q n b), s)
        else t.startFirst p rest

/-- The ready queues of a priority, in round-robin order. -/
def State.readyQueues (s : State) (p : Nat) : List Nat :=
  let l := (s.host.queues.map (·.1)).filter (fun q => s.qReady q && decide (s.csrF (oQ q 0) 1 2 = p))
  let last := lookupD 1023 s.host.lastQueue p
  l.filter (fun q => decide (last < q)) ++ l.filter (fun q => decide (q ≤ last))

/-- The priorities from the highest. -/
def State.startPrio (s : State) : List Nat → State
  | [] => s
  | p :: rest =>
    let r := s.startFirst p (s.readyQueues p)
    match r.1 with
    | some t => t
    | none => r.2.startPrio rest

/-- COMMAND_START: the queue unit starts the next startable command (R294); latched priorities apply. -/
def execCommandStart (s : State) : Out1 :=
  let s := s.host.queues.foldl (fun t q => t.applyB (oQ q.1 0) 0x6) s
  .next (s.startPrio [3, 2, 1, 0])

/-! ### Work of a started command -/

/-- A started command of a queue. -/
def State.cmd (s : State) (q k : Nat) : Option Cmd := (s.queue q).running.find? (fun c => decide (c.k = k))

/-- A command's work is marked as begun. -/
def State.begin (s : State) (q k : Nat) : State :=
  let u := s.queue q
  s.setQueue q { u with running := u.running.map (fun c => if c.k = k then { c with begun := true } else c) }

/-- Every command before `k` in a list has begun its work or has its status. -/
def earlierBegun (k : Nat) : List Cmd → Bool
  | [] => true
  | c :: r => if c.k = k then true else (c.begun || c.result.isSome) && earlierBegun k r

/-- The work of a started command of an opcode begins: commands of one queue begin in ring order (R294), and none begins
while the queue is parked (R307). -/
def runCmd (opc q k : Nat) (s : State) (work : State → Cmd → State) : Out1 :=
  if 1024 ≤ q then .fault .noSuchUnit
  else match s.cmd q k with
    | none => .next s
    | some c =>
      if (s.queue q).parked || c.begun || c.result.isSome || leAt c.bytes 0 1 != opc || !earlierBegun k (s.queue q).running then .next s
      else .next (work (s.begin q k) c)

/-- NOP. -/
def execNopCommand (q k : Nat) (s : State) : Out1 := runCmd 0 q k s (fun s _ => s.cmdResult q k stOk 0)

/-- LAUNCH (R296). The entry address is not checked: one that is not a multiple of 8 is fetched as it stands (DESIGN
CHOICE, log entry 125). -/
def execLaunch (q k : Nat) (s : State) : Out1 :=
  runCmd 1 q k s (fun s c =>
    let b := launchBlock c.bytes
    if (s.ctx c.ctx).st ≠ 1 then s.cmdResult q k stCtxLost 0
    else if !declOk c.bytes then s.cmdResult q k stBadDecl 0
    else if !s.blockUp b || !s.sideOk c.ctx (blockRegion b) then s.cmdResult q k stBadBlock 0
    else
      let a := BitVec.ofNat 64 (leAt c.bytes 16 8)
      let r := s.resolve c.ctx (.queue q) a 8
      match r.1 with
      | .error e => r.2.cmdXlate q k c.ctx e a
      | .ok va =>
        let f := r.2.fresh
        match f.2.submitSet b (launchSet c.bytes f.1 c.ctx (f.2.cid c.ctx) (.command q k) (BitVec.ofNat 64 va) 0) with
        | .error st => f.2.cmdResult q k st 0
        | .ok t => t)

/-- FENCE_WAIT: it looks at its fence, and goes on holding its queue until a change of the fence lets it end (R300). -/
def execFenceWait (q k : Nat) (s : State) : Out1 :=
  runCmd 2 q k s (fun s c =>
    match fenceVerdict (s.fence (leAt c.bytes 16 2)) c with
    | some st =>
      let s := s.leaveFence q c
      let u := s.queue q
      (s.setQueue q { u with stopped := u.stopped || st != stOk }).cmdResult q k st 0
    | none => s)

/-! ### Block DMA (R295, R296, R345) -/

/-- An engine access of a block's DMA engine fails (R211, R237, R302, Table 9-14): the state and DETAIL. -/
def State.dmaFail (s : State) (n b : Nat) (f : Tr × Nat) : State × BitVec 16 :=
  let code := f.1.code.getD 0
  match f.1 with
  | .ecc pa => (s.tableFault pa (.dma b) (some n), code)
  | _ =>
    match s.holeAt n f.2 with
    | some pa => (((s.loseContext n 4).freezeDma b n).raise {
        unit := .beu b, sev := sevF, code := 0x0907, master := .dma b, ctx := some n, addr := BitVec.ofNat 64 pa }, 0x0907)
    | none => (((s.loseContext n 4).freezeDma b n).raise {
        unit := .chip, sev := sevF, code := 0x0703, master := .dma b, ctx := some n, addr := BitVec.ofNat 64 f.2 }, code)

/-- One beat of 32 bytes: what is read, if anything, is written. -/
def State.dmaBeat (s : State) (n b : Nat) (src : Option Nat) (dst : Nat) (pat : List Byte) : State × Option (BitVec 16) :=
  let rd : Except (State × BitVec 16) (List Byte × State) :=
    match src with
    | none => .ok (pat, s)
    | some a =>
      let r := s.range n a 32 .load
      match r.1 with
      | .error f => .error (r.2.dmaFail n b f)
      | .ok ps =>
        if ps.any (fun p => !(r.2.eccHits p.1 p.2).isEmpty) then .error (r.2.pieceHits ps (.dma b) (some n) none, 0x0502)
        else .ok (r.2.pieces ps, r.2)
  match rd with
  | .error (t, e) => (t, some e)
  | .ok (bs, s) =>
    let w := s.range n dst 32 .store
    match w.1 with
    | .error f => let x := w.2.dmaFail n b f; (x.1, some x.2)
    | .ok ps => (w.2.writePieces ps bs, none)

/-- Beats in ascending order until one fails. -/
def State.dmaBeats (s : State) (n b : Nat) (pat : List Byte) : Nat → Option Nat → Nat → State × Option (BitVec 16)
  | 0, _, _ => (s, none)
  | m + 1, src, dst =>
    let r := s.dmaBeat n b src dst pat
    match r.2 with
    | some e => (r.1, some e)
    | none => r.1.dmaBeats n b pat m (src.map (· + 32)) (dst + 32)

/-- A transfer of a block's DMA engine for a command. -/
def State.dmaRun (s : State) (q k n b len : Nat) (src : Option DWord) (dst : DWord) (pat : List Byte) : State :=
  let d (s : State) (sa : Option Nat) : State :=
    let r := s.resolve n (.queue q) dst len
    match r.1 with
    | .error e => r.2.cmdXlate q k n e dst
    | .ok va =>
      if r.2.upperBad n va len then r.2.cmdResult q k stBadCmd 0
      else
      let x := r.2.dmaBeats n b pat (len / 32) sa va
      match x.2 with
      | some e => x.1.cmdResult q k stFault (e.setWidth 8)
      | none => x.1.cmdResult q k stOk 0
  match src with
  | none => d s none
  | some a =>
    let r := s.resolve n (.queue q) a len
    match r.1 with
    | .error e => r.2.cmdXlate q k n e a
    | .ok va => if r.2.upperBad n va len then r.2.cmdResult q k stBadCmd 0 else d r.2 (some va)

/-- COPY and FILL: an engine that a fault froze takes nothing more until its context is freed. -/
def dmaCmd (opc q k len : Nat) (c : Cmd) (s0 s : State) : State :=
  let b := leAt c.bytes 40 2
  if len % 32 ≠ 0 then s.cmdResult q k stBadCmd 0
  else if nBlocks ≤ b ∨ !s.regionUp (blockRegion b) ∨ (s.block b).fenced ∨ !s.sideOk c.ctx (blockRegion b) then s.cmdResult q k stBadBlock 0
  else if (s.block b).dmaFrozen then (if (s.ctx c.ctx).st = 1 then s0 else s.cmdResult q k stCtxLost 0)
  else if opc = 3 then
    s.dmaRun q k c.ctx b len (some (BitVec.ofNat 64 (leAt c.bytes 16 8))) (BitVec.ofNat 64 (leAt c.bytes 24 8)) []
  else
    s.dmaRun q k c.ctx b len none (BitVec.ofNat 64 (leAt c.bytes 16 8))
      ((List.range 8).flatMap (fun _ => slice c.bytes 32 4))

/-- COPY. -/
def execCopy (q k : Nat) (s : State) : Out1 := runCmd 3 q k s (fun t c => dmaCmd 3 q k (leAt c.bytes 32 8) c s t)

/-- FILL. -/
def execFill (q k : Nat) (s : State) : Out1 := runCmd 4 q k s (fun t c => dmaCmd 4 q k (leAt c.bytes 24 8) c s t)

/-! ### Measurement windows (R304) -/

/-- The blocks that a MEASURE names. -/
def measureBlocks (b : List Byte) : List Nat := (List.range (leAt b 18 2)).map (leAt b 16 2 + ·)

/-- A MEASURE's range breaks Table 9-7. -/
def measureBad (b : List Byte) : Bool :=
  leAt b 18 2 == 0 || decide (640 < leAt b 16 2 + leAt b 18 2) ||
  (leAt b 20 1 % 2 == 0 && (leAt b 32 8 != 0 || leAt b 40 4 != 0))

/-- Windows of the named blocks opened. -/
def State.openWindows (s : State) (n log cap : Nat) (clear : Bool) (l : List Nat) : State :=
  (l.mapIdx (fun j b => (j, b))).foldl (fun t x =>
    let k := t.block x.2
    t.setBlock x.2 { k with win := { k.win with
      opened := true, ctx := n, counter := if clear then 0 else k.win.counter, steps := 0, latches := []
      logAddr := BitVec.ofNat 64 log, logCap := cap, logIdx := x.1, logN := 0 } }) s

/-- MEASURE with open = 1. -/
def State.measureOpen (s : State) (q k : Nat) (c : Cmd) : State :=
  let l := measureBlocks c.bytes
  if l.any (fun b => (s.block b).win.opened && decide ((s.block b).win.ctx ≠ c.ctx)) then s.cmdResult q k stMeasureBusy 0
  else
    let a := BitVec.ofNat 64 (leAt c.bytes 32 8)
    let cap := leAt c.bytes 40 4
    let r := if a = 0 then (.ok 0, s) else s.resolve c.ctx (.queue q) a (16 * cap * l.length)
    match r.1 with
    | .error e => r.2.cmdXlate q k c.ctx e a
    | .ok va =>
      if r.2.upperBad c.ctx va (16 * cap * l.length) && decide (a ≠ 0) then r.2.cmdResult q k stBadCmd 0
      else (r.2.openWindows c.ctx va (if a = 0 then 0 else cap) (leAt c.bytes 20 1 / 2 % 2 == 1) l).cmdResult q k stOk 0

/-- A block's window closed: its counter, and the state (R25, log entry 8). -/
def State.closeWindow (s : State) (b : Nat) : DWord × State :=
  let x := s.countNow b
  let k := x.2.block b
  (x.1, x.2.setBlock b { k with win := { k.win with opened := false } })

/-- Windows closed in block order: their counters. -/
def State.closeWindows (s : State) : List Nat → List DWord × State
  | [] => ([], s)
  | b :: r =>
    let x := s.closeWindow b
    let y := x.2.closeWindows r
    (x.1 :: y.1, y.2)

/-- MEASURE with open = 0. -/
def State.measureClose (s : State) (q k : Nat) (c : Cmd) : State :=
  let l := measureBlocks c.bytes
  if l.any (fun b => !(s.block b).win.opened || decide ((s.block b).win.ctx ≠ c.ctx)) then s.cmdResult q k stMeasureBusy 0
  else
    let a := BitVec.ofNat 64 (leAt c.bytes 24 8)
    let r := if a = 0 then (.ok 0, s) else s.resolve c.ctx (.queue q) a (8 * l.length)
    match r.1 with
    | .error e => r.2.cmdXlate q k c.ctx e a
    | .ok va =>
      if r.2.upperBad c.ctx va (8 * l.length) && decide (a ≠ 0) then r.2.cmdResult q k stBadCmd 0
      else
      let x := r.2.closeWindows l
      if a = 0 then x.2.cmdResult q k stOk 0
      else
        let w := x.2.range c.ctx va (8 * l.length) .store
        match w.1 with
        | .ok ps => (w.2.writePieces ps (x.1.flatMap (fun v => leBytes 8 v.toNat))).cmdResult q k stOk 0
        | .error (.ecc pa, _) => (w.2.tableFault pa (.queue q) (some c.ctx)).cmdResult q k stFault 0x02
        | .error (f, va) => w.2.cmdFault q k c.ctx (f.code.getD 0) va

/-- A MEASURE in one of its two forms; the other form's row leaves it waiting. -/
def measureCmd (op q k : Nat) (s : State) : Out1 :=
  runCmd 9 q k s (fun t c =>
    if leAt c.bytes 20 1 % 2 ≠ op then s
    else if measureBad c.bytes then t.cmdResult q k stBadCmd 0
    else if op = 1 then t.measureOpen q k c
    else t.measureClose q k c)

/-- MEASURE_OPEN. -/
def execMeasureOpen (q k : Nat) (s : State) : Out1 := measureCmd 1 q k s

/-- MEASURE_CLOSE. -/
def execMeasureClose (q k : Nat) (s : State) : Out1 := measureCmd 0 q k s

/-! ### Completion (R297, R302) -/

/-- The status that a command's status word takes: a lost context's commands end with CTX_LOST, but for the one
whose own work faulted or whose step stopped. -/
def State.finalStatus (s : State) (n : Nat) (r : BitVec 16 × BitVec 8) : BitVec 16 × BitVec 8 :=
  if (s.ctx n).st ≠ 2 ∨ r.1 = stFault ∨ r.1 = stStepStopped then r else (stCtxLost, 0)

/-- Whether a queue's commands can complete: its context holds a slot, and is not suspended (R307). -/
def State.mayComplete (s : State) (q : Nat) : Bool :=
  match s.qCtx q with
  | some n => decide ((s.ctx n).st ≠ 3)
  | none => false

/-- COMMAND_COMPLETE: the status word is written once, then the SIGNAL applies (R297, R299): not after BAD_CMD,
which has no other effect (R295), and not for a lost context (R302). -/
def execCommandComplete (q k : Nat) (s : State) : Out1 :=
  if 1024 ≤ q then .fault .noSuchUnit
  else match s.cmd q k with
    | none => .next s
    | some c =>
      match c.result with
      | none => .next s
      | some r =>
        if !s.mayComplete q then .next s
        else
          let f := s.finalStatus c.ctx r
          let u := s.queue q
          let s := s.setQueue q { u with running := u.running.filter (fun x => decide (x.k ≠ k)) }
          let s := s.writeStatus q k c.ctx f.1 f.2 (leAt c.bytes 2 2)
          let x := s.ctx c.ctx
          if f.1 = stBadCmd ∨ x.st = 2 ∨ x.noSignal then .next s
          else .next (s.applySignal (s.qCid q) (cmdSignal c.bytes))

end Sys2Proof.Machine
end

