-- ==== Sys2Proof/Machine/Link.lean ====
section
/-! DEFINITION. Links (R242, R249–R251, R277, R278, R344): what a port accepts, acknowledgements, credits and
resends, violations and quarantine, and frames on their way through the device (R255, R256, R268). -/

namespace Sys2Proof.Machine

/-! ### Ports and links -/

/-- A link that a frame can arrive by: a fabric port or a host association. -/
def linkOk (l : Nat) : Bool := decide (l < 24) || (decide (32 ≤ l) && decide (l < 64))

/-- The error unit of a link's port (R279). -/
def portUnit (l : Nat) : UnitRef := if l < 24 then .geu (l / 3) else .chip

/-- The links of a port: the host port's associations, or the fabric link itself. -/
def linksOf (l : Nat) : List Nat := if l = 24 then (List.range 32).map (32 + ·) else [l]

/-- Whether a link's port is on: enabled, its region in service, and for the host port open to a valid endpoint
(R282, R389, Table 8-19). -/
def State.portOn (s : State) (l : Nat) : Bool :=
  decide (s.csrF (oPort (linkPort l)) 0 1 = 1) &&
  (if l < 24 then s.regionUp (l / 3) else decide (s.boot.phase = 8) && decide (s.csrF (oEp (l - 32)) 0 1 = 1))

/-- A link changed. -/
def State.modLink (s : State) (l : Nat) (f : Link → Link) : State := s.setLink l (f (s.link l))

/-- Waiting frames of a link sent. -/
def State.flushLink (s : State) (l : Nat) : State := s.flush ((s.link l).txq.length + 1) l

/-! ### Violations and quarantine (R277, R278) -/

/-- A port quarantined, with the kind of its last violation. -/
def State.quarantine (s : State) (p : Nat) : State :=
  (s.modLink p (fun k => { k with quar := true })).raise {
    unit := portUnit p, sev := sevC, code := 0x0603
    addr := BitVec.ofNat 64 (p + (s.link p).violLast.toNat * 256) }

/-- A violation counted. How long the window has run is open (log entry 8); a new window takes the latched
settings. -/
def State.violate (s : State) (l : Nat) (kind : BitVec 8) : State :=
  let p := linkPort l
  let k := s.link p
  let lapsed := decide (k.violWin = 0) || decide (s.csrF (oSilk 0x18) 16 8 * 2 ^ 20 ≤ Config.elapsed s.freeCtr)
  let s := { s with freeCtr := s.freeCtr + 1 }
  let s := if lapsed then s.applyB (oSilk 0x18) else s
  let n := if lapsed then 1 else k.violWin + 1
  let s := s.setLink p { k with viol := satInc k.viol, violLast := kind, violWin := n }
  let thresh := s.csrF (oSilk 0x18) 0 16
  if thresh ≠ 0 ∧ thresh ≤ n ∧ !k.quar then s.quarantine p else s

/-- A violation of no kind of Table 8-13: its kind is open (log entry 5). -/
def State.violateAny (s : State) (l : Nat) : State :=
  let v := s.free
  v.2.violate l (BitVec.ofNat 8 v.1.toNat)

/-! ### Acknowledgement and resending (R249, R250) -/

/-- One RETRY with the expected LSEQ. -/
def State.sendRetry (s : State) (l : Nat) : State :=
  let k := s.link l
  if k.retrySent then s else (s.setLink l { k with retrySent := true }).control l (.retry k.rxNext)

/-- Frames of the replay buffer that an ACKSEQ acknowledges; none where it names a frame never sent. -/
def Link.acked (k : Link) (seq : BitVec 16) : Option Nat :=
  let oldest := k.txNext - BitVec.ofNat 16 k.replay.length
  let n := (seq - oldest).toNat + 1
  if n ≤ k.replay.length then some n
  else if (seq - k.txNext).toNat < 2 ^ 15 then none
  else some 0

/-- An acknowledgement and returned credits of a frame's link header taken in. -/
def State.takeHeader (s : State) (l : Nat) (h : LinkHdr) : State :=
  let s := s.modLink l (fun k => if h.ackv then { k with replay := k.replay.drop ((k.acked h.ackseq).getD 0) } else k)
  let s := s.modLink l (fun k => if h.crv then
    { k with credits := insertD 0 k.credits h.crlane.toNat (lookupD 0 k.credits h.crlane.toNat + h.credits.toNat) } else k)
  s.flushLink l

/-- Whether a link sends data lanes now: not in quarantine, nor in lockdown (R278, R344). -/
def State.dataLanes (s : State) (l : Nat) : Bool := !(s.link (linkPort l)).quar && !s.chip.errs.locked

/-- Frames from an LSEQ on resent, in the original order; none where it names a frame never sent. A port that sends
lane M alone resends no other frame. -/
def State.resendFrom (s : State) (l : Nat) (seq : BitVec 16) : Option State :=
  let k := s.link l
  let oldest := k.txNext - BitVec.ofNat 16 k.replay.length
  let n := (seq - oldest).toNat
  if n ≤ k.replay.length then
    some (((k.replay.drop n).filter (fun f => decide (f.link.lane = 0) || s.dataLanes l)).foldl (fun t f => t.emit (.frame l f)) s)
  else none

/-! ### Reception -/

/-- A link header that breaks Table 8-2. -/
def linkHdrBad (h : LinkHdr) : Bool := h.ver != 1 || h.ftype != 0 || h.lane == 7 || h.rsv != 0 || (h.crv && h.crlane == 7)

/-- The same of a link control frame, which travels on lane M and carries no LSEQ (R246, R249, Table 8-3). -/
def ctlHdrBad (h : LinkHdr) : Bool := h.ver != 1 || h.ftype != 1 || h.lane != 0 || h.lseq != 0 || h.rsv != 0 || (h.crv && h.crlane == 7)

/-- An IPv6 extension header or fragment (R244). -/
def ipExt (e : Envelope) : Bool := match e.ip with | some i => i.nextHdr != 17 | none => false

/-- Whether a frame is for the device (Table 8-13 kind 0x01, R282): its MAC address, 802.1Q tag and EtherType, and on
the host port its VID, addresses and UDP port, and its source, a valid endpoint's. -/
def State.envOk (s : State) (l : Nat) (hello : Bool) (e : Envelope) : Bool :=
  let own := decide (e.dstMac.toNat = s.portMac (linkPort l)) || (hello && e.dstMac == broadcastMac)
  e.tagged && own &&
  (if l < 24 then e.etherType == 0x88B5 && e.ip.isNone
   else e.etherType == 0x86DD && decide (e.vid.toNat = s.csrF (oHost 0) 0 12) && decide (s.csrF (oEp (l - 32)) 0 1 = 1) &&
    e.srcMac == s.epMac (l - 32) && (match e.ip with
      | some i => i.dst == s.ownIp && decide (i.dport.toNat = s.csrF (oHost 0x20) 0 16) && i.src == s.epIp (l - 32)
      | none => false))

/-- The violation that a frame's envelope makes, if any. -/
def State.envBad (s : State) (l : Nat) (hello : Bool) (e : Envelope) : Option (BitVec 8) :=
  if ipExt e then some 0x06 else if s.envOk l hello e then none else some 0x01

/-- A frame longer than R243 and R244 allow. -/
def frameTooLong (f : Frame) : Bool := decide (4096 < f.payload.length) || decide (16 < f.trailer.length)

/-- The frame that stands first of its lane at the device's own link. -/
def selfFirst (f : Frame) : List (Nat × Frame) → Option (Nat × Frame)
  | [] => none
  | x :: r => if x.2.link.lane = f.link.lane then (if x.2 = f then some x else none) else selfFirst f r

/-- A transaction frame at a link: `.ok` where it is passed on, `.error` where it ends here (R249, R251, R277,
R278, R282). -/
def State.receive (s : State) (l : Nat) (f : Frame) : Except State State :=
  if l = selfLink then
    match selfFirst f (s.link l).txq with
    | some x => .ok (s.modLink l (fun k => { k with txq := removeTx x k.txq }))
    | none => .error s
  else
    let k := s.link l
    let lane := f.link.lane.toNat
    if !k.up then .error s
    else match s.envBad l false f.env with
    | some v => .error (s.violate l v)
    | none =>
    if 24 ≤ l ∧ f.tx.src.toNat ≠ s.csrF (oEp (l - 32)) 16 16 then .error (s.violate l 0x01)
    else if linkHdrBad f.link then .error ((s.violate l 0x02).sendRetry l)
    else if frameTooLong f then .error ((s.violate l 0x04).sendRetry l)
    else if f.link.lseq ≠ k.rxNext then
      (if (f.link.lseq - k.rxNext).toNat < 2 ^ 15 then .error (s.sendRetry l) else .error s)
    else if laneBuffer lane < lookupD 0 k.owed lane + frameCredits f then .error ((s.violate l 0x03).sendRetry l)
    else if f.link.ackv && (k.acked f.link.ackseq).isNone then .error (s.violate l 0x07)
    else
      let s := s.setLink l { k with
        rxNext := k.rxNext + 1, retrySent := false
        owed := insertD 0 k.owed lane (lookupD 0 k.owed lane + frameCredits f) }
      let s := s.takeHeader l f.link
      if (s.link (linkPort l)).quar && !(decide (f.link.lane = 0) && (decide (f.tx.op = opMgmt) || decide (f.tx.op = opEpochDone))) then
        .error ((s.returnCredit l f).violateAny l)
      else .ok s

/-- A link control frame at a link that is up: `.ok`, its acknowledgement and credits taken in, or `.error` where it
ends here (R246, R249, R277). -/
def State.receiveCtl (s : State) (l : Nat) (h : CtlHdr) : Except State State :=
  if !(s.link l).up then .error s
  else match s.envBad l false h.env with
    | some v => .error (s.violate l v)
    | none =>
      if ctlHdrBad h.link then .error ((s.violate l 0x02).sendRetry l)
      else if h.link.ackv && ((s.link l).acked h.link.ackseq).isNone then .error (s.violate l 0x07)
      else .ok (s.takeHeader l h.link)

/-- A link control row: what a frame does once its headers are taken. -/
def ctlRow (l : Nat) (h : CtlHdr) (s : State) (work : State → State) : Out1 :=
  if !linkOk l then .fault .noSuchUnit
  else match s.receiveCtl l h with
    | .error t => .next t
    | .ok t => .next (work t)

/-! ### Link rows -/

/-- HELLO: the peer announces itself and the link is up, its LSEQ spaces at 0 (log entry 31). -/
def execHello (l : Nat) (h : Hello) (s : State) : Out1 :=
  if !linkOk l then .fault .noSuchUnit
  else if !s.portOn l then .next s
  else match s.envBad l true h.hdr.env with
    | some v => .next (s.violate l v)
    | none =>
      if ctlHdrBad h.hdr.link then .next ((s.violate l 0x02).sendRetry l)
      else
        let k := s.link l
        let s := if k.up then s else s.sendHello l
        let credits := (h.credits.mapIdx (fun i c => (i, c))).foldl (fun m c => insertD 0 m c.1 c.2) []
        let s := s.setLink l { k with
          up := true, training := false, lost := false, peerLock := false, peerNode := h.node, peerMac := h.hdr.env.srcMac
          rxNext := 0, txNext := 0, replay := [], retrySent := false, owed := [], credits := credits }
        .next ((s.flushLink l).reroute)

/-- RESUME: the peer's expected LSEQ after the link has returned: resent from there (R250). -/
def execResumeFrame (l : Nat) (h : CtlHdr) (lseq : BitVec 16) (s : State) : Out1 :=
  ctlRow l h s (fun s => match s.resendFrom l lseq with
    | none => s
    | some t => t.flushLink l)

/-- RETRY: resent from the LSEQ; one that names a frame never sent is a violation (R249, Table 8-13). -/
def execRetryFrame (l : Nat) (h : CtlHdr) (lseq : BitVec 16) (s : State) : Out1 :=
  ctlRow l h s (fun s => match s.resendFrom l lseq with
    | none => s.violate l 0x07
    | some t => t)

/-- CREDIT: the credits that its header returns are taken in (R246, R251). -/
def execCredit (l : Nat) (h : CtlHdr) (s : State) : Out1 := ctlRow l h s id

/-- LOCKED: the peer is in lockdown (R344). -/
def execLocked (l : Nat) (h : CtlHdr) (_node : BitVec 16) (s : State) : Out1 :=
  ctlRow l h s (fun s => s.modLink l (fun k => { k with peerLock := true }))

/-- LOCKED_REPEAT: in lockdown every port sends LOCKED again (R344). -/
def execLockedRepeat (s : State) : Out1 := if s.chip.errs.locked then .next s.sendLocked else .next s

/-- REPLAY_TIMEOUT: resent from the oldest unacknowledged frame (R249). -/
def execReplayTimeout (l : Nat) (s : State) : Out1 :=
  if !linkOk l then .fault .noSuchUnit
  else
    let k := s.link l
    if k.up && !k.replay.isEmpty then .next ((s.resendFrom l (k.txNext - BitVec.ofNat 16 k.replay.length)).getD s)
    else .next s

/-- BLOCK_LOCK_LOST: the link is lost and keeps its LSEQ state, replay buffer and credits (R250); a latched HOLD
applies. The host port loses all its associations. -/
def execBlockLockLost (l : Nat) (s : State) : Out1 :=
  if !(linkOk l || l == 24) then .fault .noSuchUnit
  else
    let s := s.applyB (oPort (linkPort l)) 0xFF00
    .next ((linksOf l).foldl (fun t i =>
      if (t.link i).up then t.modLink i (fun k => { k with up := false, lost := true, training := true }) else t) s)

/-- LINK_RETURN: a lost link is up again: RESUME goes out, and LINK_RETRAIN is raised (R250, Table 8-14). -/
def execLinkReturn (l : Nat) (s : State) : Out1 :=
  if !(linkOk l || l == 24) then .fault .noSuchUnit
  else if (linksOf l).all (fun i => !(s.link i).lost) then .next s
  else
    let s := (linksOf l).foldl (fun t i =>
      if (t.link i).lost then
        (t.modLink i (fun k => { k with up := true, lost := false, training := false, peerLock := false, retrySent := false })).control i
          (.resume (t.link i).rxNext)
      else t) s
    .next ((s.raise { unit := portUnit l, sev := sevC, code := 0x0601, addr := BitVec.ofNat 64 (linkPort l) }).reroute)

/-- The record of a frame that is dropped before it was forwarded is given up (R268). -/
def State.dropRecord (s : State) (f : Frame) : State :=
  { s with silk := { s.silk with slices := s.silk.slices.map (fun x => (x.1, { x.2 with
      recs := x.2.recs.filter (fun r => r.sent || !(decide (r.frame.tx.src = f.tx.src) && decide (r.frame.tx.tag = f.tx.tag))) })) } }

/-- A link taken down: its replay buffer is discarded, its queued frames are lost (R250, Table 8-19). -/
def State.dropLink (s : State) (l : Nat) : State :=
  let q := (s.link l).txq
  let s := s.modLink l (fun k => { k with up := false, lost := false, training := false, replay := [], txq := [] })
  q.foldl (fun t x => (t.dropRecord x.2).returnCredit x.1 x.2) s

/-- LINK_DOWN: a lost link has not returned within HOLD (R250). -/
def execLinkDown (l : Nat) (s : State) : Out1 :=
  if !(linkOk l || l == 24) then .fault .noSuchUnit
  else if (linksOf l).all (fun i => !(s.link i).lost) then .next s
  else
    let s := (linksOf l).foldl (fun t i => if (t.link i).lost then t.dropLink i else t) s
    .next (s.raise { unit := portUnit l, sev := sevC, code := 0x0602, addr := BitVec.ofNat 64 (linkPort l) })

/-- PFC_RECEIVE: priorities 0–6 of the host port are paused or released; PFC on a fabric port or for priority 7
is a violation and is ignored (R242, R259, Table 8-13). -/
def execPfcReceive (l : Nat) (prios pause : BitVec 8) (s : State) : Out1 :=
  if !(linkOk l || l == 24) then .fault .noSuchUnit
  else if l < 24 ∨ bit prios 7 then .next (s.violate l 0x05)
  else
    let s := s.modLink 24 (fun k => { k with paused := (k.paused &&& ~~~prios) ||| (pause &&& prios) })
    .next ((linksOf 24).foldl (fun t i => if (t.link i).up then t.flushLink i else t) s)

/-- FEC codewords counted, by lane of the port (Table 8-1). -/
def countLanes (l : List Nat) (m : SMap Nat) : SMap Nat := l.foldl (fun m i => insertD 0 m (i % 8) (lookupD 0 m (i % 8) + 1)) m

/-- A frame whose FCS turns out bad after cut-through has begun is ended with a corrupted FCS at its egress (R258): it
takes no LSEQ there, and the next link asks for it again. Cut-through has begun where the frame came in order and its
egress lane holds the credits for all of it with nothing before it. -/
def State.cutThrough (s : State) (l : Nat) (f : Frame) : State :=
  if f.tx.dst = s.node ∨ s.chip.errs.locked ∨ f.tx.ttl.toNat ≤ 1 ∨ f.link.lseq ≠ (s.link l).rxNext ∨ linkHdrBad f.link ∨
      (s.envBad l false f.env).isSome then s
  else
    let sl := linkSlice l
    let f := { f with tx := { f.tx with ttl := f.tx.ttl - 1 } }
    let r := s.route sl f
    match r.1 with
    | .out e dl =>
      let g := r.2.stamp sl dl f
      if (r.2.link e).txq.isEmpty && r.2.mayTransmit e g then r.2.emit (.cut e (r.2.dress e g)) else s
    | _ => s

/-- CORRUPTED_FRAME: a frame with a bad FCS or UDP checksum: discarded, with one RETRY (R249). -/
def execCorruptedFrame (l : Nat) (c : Corrupt) (s : State) : Out1 :=
  if !linkOk l then .fault .noSuchUnit
  else
    let s := s.modLink (linkPort l) (fun k => { k with fecCorr := countLanes c.corr k.fecCorr, fecUncorr := countLanes c.uncorr k.fecUncorr })
    if !(s.link l).up then .next s
    else match c.cut with
      | some f => .next ((s.cutThrough l f).sendRetry l)
      | none => .next (s.sendRetry l)

/-! ### Frames that pass through -/

/-- A frame that this device forwards or ends (R255, R256, R268, R344). -/
def State.passThrough (s : State) (l : Nat) (f : Frame) : State :=
  let sl := linkSlice l
  if s.chip.errs.locked then (s.returnCredit l f).violateAny l
  else if f.tx.ttl.toNat ≤ 1 then
    let s := s.returnCredit l f
    if isRequest f then s.sendResp sl (respFrame s f nakTtl []) else s.dropCount sl
  else
    let f := { f with tx := { f.tx with ttl := f.tx.ttl - 1 } }
    if f.tx.op = opResp ∧ f.tx.rsp then (s.forward sl l f).fanOut sl f else s.forward sl l f

/-- FRAME_FORWARD: a frame of another destination. -/
def execFrameForward (l : Nat) (f : Frame) (s : State) : Out1 :=
  if !linkOk l then .fault .noSuchUnit
  else if f.tx.dst = s.node then .next s
  else match s.receive l f with
    | .error t => .next t
    | .ok t => .next (t.passThrough l f)

/-- FOLD_ENTRY_CLOSE: a fold entry takes no further requester (R268). -/
def execFoldEntryClose (sl k : Nat) (s : State) : Out1 :=
  if 8 ≤ sl then .fault .noSuchUnit
  else
    let v := s.slice sl
    match v.recs[k]? with
    | none => .next s
    | some r => if r.isLoad then .next (s.setSlice sl { v with recs := v.recs.set k { r with closed := true } }) else .next s

/-- ROUTE_HOLD_EXPIRE: a frame that has found no hop for ROUTE_HOLD is refused, with every requester that it stands for,
or dropped (R256, R268). -/
def execRouteHoldExpire (sl k : Nat) (s : State) : Out1 :=
  if 8 ≤ sl then .fault .noSuchUnit
  else
    let v := s.slice sl
    match v.waiting[k]? with
    | none => .next s
    | some (from', f) =>
      let s := (s.setSlice sl { v with waiting := v.waiting.eraseIdx k }).returnCredit from' f
      let a := respFrame s f nakNoroute []
      .next (if isRequest f then (s.fanOut sl a).sendResp sl a else s.dropCount sl)

end Sys2Proof.Machine
end

