-- ==== Sys2Proof/Machine/LocalMem.lean ====
section
/-! DEFINITION. Local memory instructions (R81–R84, Tables 3-14 and 3-15), the caches they use (R217, R218),
the return of their data (R41) and the faults found on the memory path (R99). -/

namespace Sys2Proof.Machine

/-! ### Fields and shapes (Table 3-14) -/

def lMode (w : DWord) : Nat := fld w 18 2
def lSize (w : DWord) : Nat := fld w 15 3
def lScale (w : DWord) : Bool := bit w 14
def lSx (w : DWord) : Bool := bit w 13

/-- Bytes per thread. -/
def lBytes (w : DWord) : Nat := 2 ^ lSize w

/-- Registers per thread (R66, R82). -/
def lRegs (w : DWord) : Nat := max 1 (lBytes w / 4)

/-- The shape of a local memory instruction: `wide` registers in an address, whether d and c are used, and
what else its encoding asks. -/
def memShape (w : DWord) (wide : Nat) (hasD hasC ok : Bool) : Shape :=
  let a := if lMode w = 2 then shV (iA w) wide else shS (iA w) wide
  let b := if lMode w = 1 then shV (iB w) else shZ (iB w)
  let d := if hasD then shV (iDst w) (lRegs w) else shZ (iDst w)
  let c := if hasC then shV (iC w) (lRegs w) else shZ (iC w)
  let m := Shape.when (ok && decide (lMode w ≠ 3) && decide (lSize w ≤ 4) && !bit w 12 && (!lScale w || decide (lMode w = 1)))
  ((a.and b).and (d.and c)).and (m.and (shGuard w))

/-- SX is reserved in stores, in loads of four bytes or more, and in SWAP and CAS. -/
def loadOk (w : DWord) : Bool := !lSx w || decide (lSize w < 2)
def storeOk (w : DWord) : Bool := !lSx w

/-- The index of mode 0b01 in bytes: signed, scaled where SCALE says so (R82). -/
def lIndex (v : Group) (w : DWord) (t : Nat) : Int :=
  (v.vreg (iB w) t).toInt * (if lScale w then Int.ofNat (lBytes w) else 1)

/-- A thread's scratch offset (R82). -/
def scratchAddr (v : Group) (w : DWord) (t : Nat) : Nat :=
  let imm := sext 12 (fld w 0 12)
  (match lMode w with
    | 0 => wrap 32 ((v.sreg (iA w)).toInt + imm)
    | 1 => wrap 32 ((v.sreg (iA w)).toInt + lIndex v w t + imm)
    | _ => wrap 32 ((v.vreg (iA w) t).toInt + imm)).toNat

/-- A thread's virtual address, modulo 2^64 (R81, R82). -/
def virtAddr (v : Group) (w : DWord) (t : Nat) : Nat :=
  let imm := sext 12 (fld w 0 12)
  (match lMode w with
    | 0 => wrap 64 ((v.spair (iA w)).toInt + imm)
    | 1 => wrap 64 ((v.spair (iA w)).toInt + lIndex v w t + imm)
    | _ => wrap 64 ((v.vpair (iA w) t).toInt + imm)).toNat

/-- The first thread whose address breaks a rule. -/
def firstBad (l : List (Nat × Nat)) (p : Nat → Bool) : Option Nat := (l.find? (fun x => p x.2)).map (·.2)

/-! ### Registers and bytes -/

/-- A loaded value as its registers hold it: 1, 2 or 4 bytes extended, wider ones word by word (R66, R82). -/
def loadWords (n : Nat) (sx : Bool) (bs : List Byte) : List Word :=
  if n < 4 then [if sx then wrap 32 (sext (8 * n) (leNat bs)) else BitVec.ofNat 32 (leNat bs)]
  else (List.range (n / 4)).map (fun i => BitVec.ofNat 32 (leAt bs (4 * i) 4))

/-- The bytes that a thread stores from v(c) (R82). -/
def storeBytes (v : Group) (w : DWord) (t : Nat) : List Byte :=
  ((List.range (lRegs w)).flatMap (fun i => leBytes 4 (v.vreg (iC w + i) t).toNat)).take (lBytes w)

/-- The registers that a load fills, for one thread: keys and values, and where each was read. -/
def fillOf (w : DWord) (t addr : Nat) (ws : List Word) : List ((Nat × Word) × (Nat × Nat)) :=
  ws.mapIdx (fun i x => (((iDst w + i) * 64 + t, x), ((addr + 4 * i) / 8 * 8, (addr + 4 * i) % 8)))

/-- A load's record, with no fault. -/
def accessOf (v : Group) (w : DWord) (scratch : Bool) (hits : List Nat) (f : List ((Nat × Word) × (Nat × Nat))) : Access :=
  { pc := v.pc, regs := (List.range (lRegs w)).map (iDst w + ·), writes := f.map (·.1), srcs := f.map (·.2),
    size := min 4 (lBytes w), sx := lSx w, scratch := scratch, hits := hits, fault := none }

/-- A group that goes on after a memory instruction, with an access added. -/
def withAccess (v : Group) (a : Access) : Group := { v with pend := v.pend ++ [a], pc := nextPc v.pc 1 }

/-! ### Scratch -/

/-- `n` bytes of scratch. -/
def scratchBytes (v : Group) (o n : Nat) : List Byte := (List.range n).map (fun i => lookupD 0 v.scratch (o + i))

/-- Bytes written to scratch. -/
def scratchWrite (v : Group) (o : Nat) (bs : List Byte) : Group := { v with scratch := rawWrite v.scratch o bs }

/-- The place of a scratch offset in the cell's scratch (R35). -/
def scratchPlace (v : Group) (o : Nat) : Nat := v.scratchUnits.getD (o / 1024) 0 * 1024 + o % 1024

/-- The words of a cell's scratch that hold an uncorrectable error, among those of an access. -/
def State.scratchHits (s : State) (c : Nat) (v : Group) (o n : Nat) : List Nat :=
  let k := c * 8192 + scratchPlace v o / 8
  let l := (List.range ((o % 8 + n + 7) / 8)).map (k + ·)
  s.scratchEcc.filter (fun x => l.contains x)

/-- The ADDRESS of an ECC event in cell scratch (R232). -/
def scratchEccAddr (v : Group) (g : GRef) (o : Nat) : DWord :=
  BitVec.ofNat 64 (scratchPlace v o / 8 * 8 + g.slot * 2 ^ 32 + 2 ^ 36 + o / 8 * 8 % 65536 * 2 ^ 40)

/-- ECC_UNCORR in cell scratch, met by a group (R232, R348), counted (R350). -/
def State.scratchUncorr (s : State) (g : GRef) (m : Master) (o : Nat) : State :=
  match s.group g with
  | none => s
  | some v =>
    let a := scratchEccAddr v g o
    let s := match s.groupTask g, m with
      | some t, .group _ => s.deferTask t (.ceu g.cell) m (some v.ctx) 0x02 a none
      | _, .nobody => s.raise { unit := .ceu g.cell, sev := sevD, code := 0x0502, ext := 0x02, ctx := some v.ctx, addr := a }
      | _, _ => s.raiseReclass (.ceu g.cell) m (some v.ctx) 0x02 a
    s.countUncorr g.cell

/-- The offset within a group's scratch of a word of the cell's scratch. -/
def scratchOffset (v : Group) (k : Nat) : Nat :=
  (v.scratchUnits.findIdx (fun u => decide (u = k % 8192 / 128))) * 1024 + k % 128 * 8

/-- LDS. -/
def execLds (g : GRef) (w : DWord) (s : State) : Out1 :=
  issue s g .memory 0xA0 w 0 (memShape w 1 true false (loadOk w)) noCheck anyRoom (fun s v =>
    let l := (v.activeList w).map (fun t => (t, scratchAddr v w t))
    let n := lBytes w
    match firstBad l (fun a => decide (a % n ≠ 0)), firstBad l (fun a => decide (v.scratchUnits.length * 1024 < a + n)) with
    | some a, _ => s.faultGroup g 0x010A 0 (BitVec.ofNat 64 a)
    | none, some a => s.faultGroup g 0x0108 0 (BitVec.ofNat 64 a)
    | none, none =>
      let f := l.flatMap (fun x => fillOf w x.1 x.2 (loadWords n (lSx w) (scratchBytes v x.2 n)))
      let h := (l.flatMap (fun x => s.scratchHits g.cell v x.2 n)).foldl addMem []
      s.setGroup g (withAccess v (accessOf v w true h f)))

/-- Scratch words written: those covered whole are good again; others that hold an error raise it (R231). -/
def State.scratchStored (s : State) (g : GRef) (v : Group) (l : List (Nat × Nat)) : State :=
  let hits := (l.flatMap (fun x => s.scratchHits g.cell v x.1 x.2)).foldl addMem []
  hits.foldl (fun z k =>
    let o := scratchOffset v k
    if (List.range 8).all (fun i => l.any (fun x => decide (x.1 ≤ o + i) && decide (o + i < x.1 + x.2))) then
      { z with scratchEcc := delMem z.scratchEcc k }
    else z.scratchUncorr g .nobody o) s

/-- STS. -/
def execSts (g : GRef) (w : DWord) (s : State) : Out1 :=
  issue s g .memory 0xA1 w 0 (memShape w 1 false true (storeOk w)) noCheck anyRoom (fun s v =>
    let l := (v.activeList w).map (fun t => (t, scratchAddr v w t))
    let n := lBytes w
    match firstBad l (fun a => decide (a % n ≠ 0)), firstBad l (fun a => decide (v.scratchUnits.length * 1024 < a + n)) with
    | some a, _ => s.faultGroup g 0x010A 0 (BitVec.ofNat 64 a)
    | none, some a => s.faultGroup g 0x0108 0 (BitVec.ofNat 64 a)
    | none, none =>
      let u := l.foldl (fun u x => scratchWrite u x.2 (storeBytes v w x.1)) v
      (s.setGroup g { u with pc := nextPc v.pc 1 }).scratchStored g v (l.map (fun x => (x.2, n))))

/-! ### Context virtual space -/

/-- Addresses translated in order, each with whether it took a walk. -/
def State.translateAll (s : State) (n : Nat) (m : Mode) : List Nat → List (Tr × Bool) × State
  | [] => ([], s)
  | a :: r =>
    let t := s.translateW n a m
    let u := t.2.translateAll n m r
    (t.1 :: u.1, u.2)

/-- What the checks of R84 find: the first misaligned address; then an uncorrectable table entry, XLATE and
PERM, each with its lowest thread's address (R98). `late` tells a fault that is found when the last walk returns, for
not every translation was held (R99). -/
inductive Checked where
  | table (pa : Nat)
  | fault (code : BitVec 16) (a : Nat) (late : Bool)
  | ok (l : List (Nat × Nat × Nat × Bool))
  deriving DecidableEq, Repr

/-- The address of the first failure of a kind. -/
def firstTr (l : List (Nat × Nat)) (ts : List Tr) (p : Tr → Bool) : Option Nat :=
  ((l.zip ts).find? (fun x => p x.2)).map (·.1.2)

/-- The checks of a local memory instruction over its threads' virtual addresses (R83, R84, R98). -/
def State.checkAccess (s : State) (n : Nat) (m : Mode) (size : Nat) (l : List (Nat × Nat)) : Checked × State :=
  let r := s.translateAll n m (l.map (·.2))
  let ts := r.1.map (·.1)
  let late := r.1.any (·.2)
  match firstBad l (fun a => decide (a % size ≠ 0)) with
  | some a => (.fault 0x010A a late, r.2)
  | none =>
    match ts.findSome? (fun t => match t with | .ecc pa => some pa | _ => none),
        firstTr l ts (fun t => decide (t = .xlate)), firstTr l ts (fun t => decide (t = .perm)) with
    | some pa, _, _ => (.table pa, r.2)
    | none, some a, _ => (.fault 0x010B a late, r.2)
    | none, none, some a => (.fault 0x010C a late, r.2)
    | none, none, none =>
      (.ok ((l.zip ts).map (fun x => match x.2 with
        | .ok pa nc => (x.1.1, x.1.2, pa, nc)
        | _ => (x.1.1, x.1.2, 0, false))), r.2)

/-- An access whose checks end with a fault when its last walk returns (R99): its destinations stay outstanding. Code
0x0502 stands for an uncorrectable table entry, whose address it carries. -/
def lateAccess (v : Group) (regs : List Nat) (code : BitVec 16) (a : Nat) : Access :=
  { pc := v.pc, regs := regs, writes := [], srcs := [], size := 4, sx := false, scratch := false, hits := [],
    fault := some (code, BitVec.ofNat 64 a) }

/-- A failed check's outcome (R99): found in the instruction's first memory-path cycle where every translation was
held; else it waits for MEMORY_PATH_FAULT. -/
def State.accessFault (s : State) (g : GRef) (v : Group) (regs : List Nat) : Checked → State
  | .table pa => s.setGroup g (withAccess v (lateAccess v regs 0x0502 pa))
  | .fault code a late =>
    if late then s.setGroup g (withAccess v (lateAccess v regs code a)) else s.faultGroup g code 0 (BitVec.ofNat 64 a)
  | .ok _ => s

/-- Whether a cache may hold an address: Layer Store and HBM3E only (R217). -/
def cacheable (pa : Nat) : Bool :=
  match placeOf pa with
  | some (.hbm _) => true
  | some (.ls _) => true
  | _ => false

/-- A cache's line, if one is found and still held (log entry 6). -/
def State.cacheLine (s : State) (m : SMap (List Byte)) (sec : Nat) : Option (List Byte) × State :=
  match find m sec with
  | none => (none, s)
  | some l => let h := s.held; (if h.1 then some l else none, h.2)

/-- Where a load found a sector: at its coherence point, without or with a line for it, in the cell's line cache, or
in the block cache. -/
inductive Served where
  | bypass
  | filled
  | line
  | blk
  deriving DecidableEq, Repr

/-- A sector read by a load of a cell (R217, R218): its bytes, and where it was found. -/
def State.loadSector (s : State) (c sec : Nat) (nc : Bool) : List Byte × Served × State :=
  if nc || !cacheable sec then (s.bytes sec 32, .bypass, s)
  else
    let b := cellBlock c
    let l := s.cacheLine (s.cell c).lineCache sec
    match l.1 with
    | some x => (x, .line, l.2)
    | none =>
      let k := if l.2.cacheBytes b = 0 then (none, l.2) else l.2.cacheLine (l.2.block b).cache sec
      let r := match k.1 with
        | some x => (x, Served.blk)
        | none => (k.2.bytes sec 32, Served.filled)
      let v := k.2.free
      let s := v.2.setCell c { v.2.cell c with lineCache := fillLine 256 v.1.toNat (v.2.cell c).lineCache sec r.1 }
      let s := if s.cacheBytes b = 0 then s
        else s.setBlock b { s.block b with cache := fillLine (s.cacheBytes b / 32) v.1.toNat (s.block b).cache sec r.1 }
      (r.1, r.2, s)

/-- Every sector of a load read once, in the order its threads touch them. -/
def State.loadSectors (s : State) (c : Nat) : List (Nat × Bool) → List (Nat × List Byte × Served) × State
  | [] => ([], s)
  | (sec, nc) :: r =>
    let x := s.loadSector c sec nc
    let y := x.2.2.loadSectors c r
    ((sec, x.1, x.2.1) :: y.1, y.2)

/-- The distinct sectors of an access list, in order. -/
def distinctSectors (l : List (Nat × Nat × Nat × Bool)) : List (Nat × Bool) :=
  l.foldl (fun a x => let k := x.2.2.1 / 32 * 32
    if a.any (fun y => decide (y.1 = k)) then a else a ++ [(k, x.2.2.2)]) []

/-- The words of an access list that loads found in one way. -/
def wordsFound (l : List (Nat × Nat × Nat × Bool)) (n : Nat) (at' : Nat → Served) (p : Served → Bool) : List Nat :=
  (l.flatMap (fun y => if p (at' y.2.2.1) then (List.range ((n + 7) / 8)).map (fun i => y.2.2.1 / 8 * 8 + 8 * i) else [])).foldl addMem []

/-- The uncorrectable units that a load's reads at home meet: a fill reads its sector whole (R217, R231). -/
def State.loadHits (s : State) (l : List (Nat × Nat × Nat × Bool)) (n : Nat) (at' : Nat → Served) : List Nat :=
  (l.flatMap (fun y => match at' y.2.2.1 with
    | .bypass => s.eccHits y.2.2.1 n
    | .filled => s.eccHits (y.2.2.1 / 32 * 32) 32
    | _ => [])).foldl addMem []

/-- LD. -/
def execLd (g : GRef) (w : DWord) (s : State) : Out1 :=
  issue s g .memory 0xA2 w 0 (memShape w 2 true false (loadOk w)) noCheck anyRoom (fun s v =>
    let n := lBytes w
    let r := s.checkAccess v.ctx .load n ((v.activeList w).map (fun t => (t, virtAddr v w t)))
    match r.1 with
    | .ok l =>
      let x := r.2.loadSectors g.cell (distinctSectors l)
      let line (pa : Nat) : List Byte × Served := ((x.1.find? (fun y => decide (y.1 = pa / 32 * 32))).map (·.2)).getD ([], .bypass)
      let at' (pa : Nat) : Served := (line pa).2
      let f := l.flatMap (fun y => fillOf w y.1 y.2.2.1 (loadWords n (lSx w) (slice (line y.2.2.1).1 (y.2.2.1 % 32) n)))
      x.2.setGroup g (withAccess v { accessOf v w false (x.2.loadHits l n at') f with
        cached := wordsFound l n at' (fun z => decide (z = .line) || decide (z = .blk))
        inBlk := wordsFound l n at' (fun z => decide (z = .blk)) })
    | e => r.2.accessFault g v ((List.range (lRegs w)).map (iDst w + ·)) e)

/-- A line of a cache with bytes replaced. -/
def patchLine (m : SMap (List Byte)) (pa : Nat) (bs : List Byte) : SMap (List Byte) :=
  match find m (pa / 32 * 32) with
  | none => m
  | some l => put m (pa / 32 * 32) (l.take (pa % 32) ++ bs ++ l.drop (pa % 32 + bs.length))

/-- The copies in a cell's own caches updated by a store (R217). -/
def State.patchCaches (s : State) (c pa : Nat) (bs : List Byte) : State :=
  let b := cellBlock c
  let s := s.setCell c { s.cell c with lineCache := patchLine (s.cell c).lineCache pa bs }
  s.setBlock b { s.block b with cache := patchLine (s.block b).cache pa bs }

/-- The copies in a cell's own caches invalidated by an atomic (R217). -/
def State.dropCaches (s : State) (c pa : Nat) : State :=
  let b := cellBlock c
  let s := s.setCell c { s.cell c with lineCache := drop (s.cell c).lineCache (pa / 32 * 32) }
  s.setBlock b { s.block b with cache := drop (s.block b).cache (pa / 32 * 32) }

/-- An address that stored bytes cover. -/
def covers (l : List (Nat × List Byte)) (p : Nat) : Bool := l.any (fun x => decide (x.1 ≤ p) && decide (p < x.1 + x.2.length))

/-- Bytes stored by the accesses of one instruction, in thread order; its writes to one protected unit count
as one (R231). -/
def State.scatter (s : State) (l : List (Nat × List Byte)) : State :=
  let units := (l.flatMap (fun x => s.eccHits x.1 x.2.length)).foldl addMem []
  let s := units.foldl (fun z u =>
    if (List.range (eccUnit u).2).all (fun i => covers l (u + i)) then { z with ecc := delMem z.ecc u }
    else z.eccUncorrected u .nobody none none) s
  l.foldl (fun z x => z.store x.1 x.2) s

/-- One thread's atomic at the coherence point: the old value, and the state after it. -/
def State.atomicAt (s : State) (op : AOp) (pa cmp x : Nat) : Nat × State :=
  let n := op.bytes
  let old := s.word pa n
  (old, (s.eccWrite pa n).store pa (leBytes n (op.apply old cmp x)))

/-- The atomics of one instruction in ascending thread order (R83): old values by thread, units with an
uncorrectable error met, and the state after them. -/
def State.atomicAll (s : State) (op : AOp) (c : Nat) (cmp x : Nat → Nat) :
    List (Nat × Nat × Nat × Bool) → List (Nat × Nat × Nat) × List Nat × State
  | [] => ([], [], s)
  | y :: r =>
    let h := s.eccHits y.2.2.1 op.bytes
    let a := s.atomicAt op y.2.2.1 (cmp y.1) (x y.1)
    let u := (a.2.dropCaches c y.2.2.1).atomicAll op c cmp x r
    ((y.1, y.2.2.1, a.1) :: u.1, h ++ u.2.1, u.2.2)

/-- A thread's value of `n` bytes from the registers at `r`. -/
def regValue (v : Group) (r n t : Nat) : Nat :=
  if n = 8 then (v.vpair r t).toNat else (v.vreg r t).toNat % 2 ^ (8 * n)

/-- An ATOM instruction of a given operation; none where SIZE or SX is reserved for it. -/
def atomOp (opc : Nat) (op : Option AOp) (g : GRef) (w : DWord) (s : State) : Out1 :=
  issue s g .memory opc w 0 (memShape w 2 true true op.isSome) noCheck anyRoom (fun s v =>
    match op with
    | none => s
    | some o =>
      let n := lBytes w
      let r := s.checkAccess v.ctx .atomic n ((v.activeList w).map (fun t => (t, virtAddr v w t)))
      match r.1 with
      | .ok l =>
        let a := r.2.atomicAll o g.cell (fun t => regValue v (iDst w) n t) (fun t => regValue v (iC w) n t) l
        let f := a.1.flatMap (fun y => (fillOf w y.1 y.2.1 (loadWords n false (leBytes n y.2.2))).map (·.1))
        let acc : Access := { accessOf v w false (a.2.1.foldl addMem []) [] with writes := f }
        a.2.2.setGroup g (withAccess v acc)
      | e => r.2.accessFault g v ((List.range (lRegs w)).map (iDst w + ·)) e)

/-- ATOM.ADD: integers of 4 or 8 bytes; with SX = 1 fp32 or bf16 (Table 3-15). -/
def execAtomAdd (g : GRef) (w : DWord) (s : State) : Out1 :=
  atomOp 0xA4 (match lSx w, lSize w with
    | false, 2 => some (.addI 4)
    | false, 3 => some (.addI 8)
    | true, 2 => some .addF32
    | true, 1 => some .addBf16
    | _, _ => none) g w s

/-- ATOM.MIN. -/
def execAtomMin (g : GRef) (w : DWord) (s : State) : Out1 :=
  atomOp 0xA5 (if lSize w = 2 then some (.minI (lSx w)) else none) g w s

/-- ATOM.MAX. -/
def execAtomMax (g : GRef) (w : DWord) (s : State) : Out1 :=
  atomOp 0xA6 (if lSize w = 2 then some (.maxI (lSx w)) else none) g w s

/-- ATOM.SWAP. -/
def execAtomSwap (g : GRef) (w : DWord) (s : State) : Out1 :=
  atomOp 0xA7 (if !lSx w && decide (lSize w = 2 ∨ lSize w = 3) then some (.swap (lBytes w)) else none) g w s

/-- ATOM.CAS: the compare value stands in vd. -/
def execAtomCas (g : GRef) (w : DWord) (s : State) : Out1 :=
  atomOp 0xA8 (if !lSx w && decide (lSize w = 2 ∨ lSize w = 3) then some (.cas (lBytes w)) else none) g w s

/-! ### The return of data -/

/-- What the protection of R230 makes of flipped bits of a protected unit. -/
inductive UpsetKind where
  | none
  | corrected
  | uncorrected
  | beyond
  deriving DecidableEq, Repr

/-- What R230 counts in the flipped bits of a word: bits in SRAM, 16-bit symbols in HBM3E. -/
def upsetCount (hbm : Bool) (m : DWord) : Nat :=
  if hbm then ([0, 16, 32, 48].filter (fun i => decide (fld m i 16 ≠ 0))).length else popN 64 m.toNat

/-- One is corrected, two are detected (R230). -/
def upsetOf : Nat → UpsetKind
  | 0 => .none
  | 1 => .corrected
  | 2 => .uncorrected
  | _ => .beyond

/-- SRAM: one bit is corrected, two are detected. HBM3E: one 16-bit symbol is corrected, two are detected. -/
def upsetKind (hbm : Bool) (m : DWord) : UpsetKind := upsetOf (upsetCount hbm m)

/-- The same over the words of one unit. -/
def upsetKindAll (hbm : Bool) (ms : List (Nat × DWord)) : UpsetKind := upsetOf (ms.foldl (fun a x => a + upsetCount hbm x.2) 0)

/-- A register's value with the flipped bits of the word it was read from. -/
def flipValue (a : Access) (src : Nat × Nat) (word : Nat) (m : DWord) (x : Word) : Word :=
  if src.1 ≠ word then x
  else
    let lo := (x.toNat % 2 ^ (8 * a.size)) ^^^ (fld m (8 * src.2) (8 * a.size))
    if a.sx then wrap 32 (sext (8 * a.size) lo) else BitVec.ofNat 32 lo

/-- The access with a word's bits flipped in every register read from it. -/
def Access.flip (a : Access) (word : Nat) (m : DWord) : Access :=
  { a with writes := (a.writes.zip a.srcs).map (fun p => (p.1.1, flipValue a p.2 word m p.1.2)) }

/-- The access with the registers read from a word read again from home (R231). -/
def Access.reread (a : Access) (word : Nat) (bs : List Byte) : Access :=
  { a with writes := (a.writes.zip a.srcs).map (fun p =>
      if p.2.1 ≠ word then p.1 else (p.1.1, (loadWords a.size a.sx (slice bs p.2.2 a.size)).headD p.1.2)) }

/-- Bits of a stored word flipped. -/
def State.flipMem (s : State) (pa : Nat) (m : DWord) : State :=
  s.store pa (leBytes 8 (s.word pa 8 ^^^ m.toNat))

/-- Flipped words by the protected unit that they lie in, in the order of their units' first words (R230). -/
def byUnit (unit : Nat → Nat) (ws : List (Nat × DWord)) : List (Nat × List (Nat × DWord)) :=
  (ws.map (fun x => unit x.1)).eraseDups.map (fun k => (k, ws.filter (fun x => decide (unit x.1 = k))))

/-- The same for words of memory. -/
def unitsHit (ws : List (Nat × DWord)) : List (Nat × List (Nat × DWord)) := byUnit (fun a => (eccUnit a).1) ws

/-- What upsets of stored units do when a unit reads them (R231): one error is corrected, with its event; two spoil the
unit. Answers the state and the units spoilt, and nothing where R230 describes no error of so many bits. -/
def State.upsetMem (s : State) (who : Master) (ctx : Option Nat) : List (Nat × List (Nat × DWord)) → Option (State × List Nat)
  | [] => some (s, [])
  | (unit, ms) :: rest =>
    match upsetKindAll (match placeOf unit with | some (.hbm _) => true | _ => false) ms with
    | .none => s.upsetMem who ctx rest
    | .corrected => (s.eccCorrected ((ms.map (·.1)).headD unit) who ctx).upsetMem who ctx rest
    | .uncorrected =>
      let z := ms.foldl (fun z x => z.flipMem x.1 x.2) s
      ({ z with ecc := addMem z.ecc unit }.upsetMem who ctx rest).map (fun (r : State × List Nat) => (r.1, unit :: r.2))
    | .beyond => none

/-- The words that an upset names, with their flipped bits. -/
def namedWords (u : Upset) (pick : Nat → Option Nat) : List (Nat × DWord) :=
  u.list.filterMap (fun x => (pick x.1).map (fun w => (w, x.2)))

/-- The word that an upset names among those of an access. -/
def Access.upsetWord (a : Access) (k : Nat) : Option Nat :=
  ((a.srcs.map (·.1)).foldl (fun l x => if l.contains x then l else l ++ [x]) ([] : List Nat))[k]?

/-- The protected unit of a word of an access: a sector where HBM3E was read, else the word itself (R230). -/
def Access.unitOf (a : Access) (word : Nat) : Nat := if a.scratch || a.cached.contains word then word else (eccUnit word).1

/-- The flipped words of an access by protected unit, in the order of their units' first words. -/
def Access.upsetUnits (a : Access) (u : Upset) : List (Nat × List (Nat × DWord)) :=
  byUnit a.unitOf (namedWords u a.upsetWord)

/-- A group whose access is under way: the group, resident or as it left its slot, and the access. -/
structure UnderWay where
  v    : Group
  here : Bool
  a    : Access
  deriving DecidableEq, Repr

/-- Access `k` of a group slot: those of the group in it, then those of groups that have left it (R54). -/
def State.accessAt (s : State) (g : GRef) (k : Nat) : Option UnderWay :=
  let mine := match s.group g with | some v => v.pend.map (fun a => (⟨v, true, a⟩ : UnderWay)) | none => []
  let gone := ((s.cell g.cell).gone.filter (fun x => decide (x.1 = g.slot))).flatMap (fun x =>
    x.2.pend.map (fun a => (⟨x.2, false, a⟩ : UnderWay)))
  (mine ++ gone)[k]?

/-- The first access of a list that equals one, removed. -/
def eraseAccess (a : Access) (l : List Access) : List Access := l.eraseIdx (l.findIdx (fun x => decide (x = a)))

/-- An access that has ended: of a resident group its outstanding writes end; a group that had left is forgotten with
its last one. -/
def State.endAccess (s : State) (g : GRef) (k : Nat) (u : UnderWay) : State :=
  if u.here then s.modGroup g (fun x => { x with pend := x.pend.eraseIdx k })
  else
    let c := s.cell g.cell
    s.setCell g.cell { c with gone := (c.gone.map (fun x =>
      if x.1 = g.slot ∧ x.2.gid = u.v.gid then (x.1, { x.2 with pend := eraseAccess u.a x.2.pend }) else x)).filter (fun x => !x.2.pend.isEmpty) }

/-- The Skipper task that launched a group's set. -/
def State.taskOf (s : State) (g : GRef) (v : Group) : Option TaskId :=
  match s.setOf (cellBlock g.cell) v.setId with
  | some x => (match x.source with | .skipper r q t m => some (r, q, t, m) | _ => none)
  | none => none

/-- An uncorrectable unit of memory met by an access (R231, R347, R348): the group's context is lost even where the
group has left its slot. -/
def State.accessHit (s : State) (g : GRef) (u : UnderWay) (pa : Nat) : State :=
  if u.here || (s.taskOf g u.v).isSome then s.eccUncorrected pa (.group g) (some u.v.ctx) (s.taskOf g u.v)
  else
    let x := s.eccUnitOf pa true
    (x.2.loseContext u.v.ctx 1).raise {
      unit := x.1, sev := sevD, code := 0x0502, master := .group g, ctx := some u.v.ctx, addr := BitVec.ofNat 64 pa, reclass := true }

/-- The same for a word of scratch, by its offset within the group's scratch. -/
def State.accessScratchHit (s : State) (g : GRef) (u : UnderWay) (o : Nat) : State :=
  if u.here then s.scratchUncorr g (.group g) o
  else
    ((s.loseContext u.v.ctx 1).raise {
      unit := .ceu g.cell, sev := sevD, code := 0x0502, ext := 0x02, master := .group g, ctx := some u.v.ctx, addr := BitVec.ofNat 64 (o / 8 * 8), reclass := true }).countUncorr g.cell

/-- What an upset in one protected unit does to an access whose data returns (R230–R232): in scratch, in a cache,
where an uncorrectable error reads the line again from home, or in memory: the access, and the state with its event. -/
def State.upsetUnit (s : State) (g : GRef) (w : UnderWay) (unit : Nat) (ms : List (Nat × DWord)) : Option (UnderWay × State) :=
  let a := w.a
  let flipped : UnderWay := { w with a := ms.foldl (fun a x => a.flip x.1 x.2) a }
  if a.scratch then
    match upsetKindAll false ms with
    | .none => some (w, s)
    | .corrected =>
      some (w, s.raise { unit := .ceu g.cell, sev := sevC, code := 0x0501, ext := 0x02, master := .group g,
                         ctx := some w.v.ctx, addr := scratchEccAddr w.v g unit })
    | .uncorrected =>
      let s := if !w.here then s else
        let s := s.modGroup g (fun u => ms.foldl (fun u x => scratchWrite u x.1 (leBytes 8 (leNat (scratchBytes u x.1 8) ^^^ x.2.toNat))) u)
        { s with scratchEcc := addMem s.scratchEcc (g.cell * 8192 + scratchPlace w.v unit / 8) }
      some (flipped, s.accessScratchHit g w unit)
    | .beyond => none
  else if a.cached.contains unit then
    let eu : UnitRef × BitVec 16 := if a.inBlk.contains unit then (.beu (cellBlock g.cell), 0x07) else (.ceu g.cell, 0x06)
    match upsetKindAll false ms with
    | .none => some (w, s)
    | .corrected =>
      let f := s.free
      some (w, f.2.raise { unit := eu.1, sev := sevC, code := 0x0501, ext := eu.2, master := .group g,
                           ctx := some w.v.ctx, addr := BitVec.ofNat 64 (fld f.1 0 24) })
    | .uncorrected =>
      let s := s.dropCaches g.cell unit
      some ({ w with a := a.reread unit (s.bytes unit 8) },
        s.raise { unit := eu.1, sev := sevC, code := 0x0503, ext := eu.2, master := .group g,
                  ctx := some w.v.ctx, addr := BitVec.ofNat 64 (unit / 32 * 32) })
    | .beyond => none
  else
    match upsetKindAll (match placeOf unit with | some (.hbm _) => true | _ => false) ms with
    | .none => some (w, s)
    | .corrected => some (w, s.eccCorrected (match ms with | x :: _ => x.1 | [] => unit) (.group g) (some w.v.ctx))
    | .uncorrected =>
      let s := { (ms.foldl (fun z x => z.flipMem x.1 x.2) s) with ecc := addMem s.ecc unit }
      some (flipped, s.accessHit g w unit)
    | .beyond => none

/-- The units of an upset, one after another. -/
def State.upsetUnits (s : State) (g : GRef) (w : UnderWay) : List (Nat × List (Nat × DWord)) → Option (UnderWay × State)
  | [] => some (w, s)
  | x :: rest => match s.upsetUnit g w x.1 x.2 with
    | none => none
    | some r => r.2.upsetUnits g r.1 rest

/-- The 64-bit words that the merges of stored bytes read at their coherence point: those of each protected unit that
the bytes cover in part (R231). -/
def mergeWords (l : List (Nat × List Byte)) : List Nat :=
  let units := (l.flatMap (fun x => (List.range x.2.length).map (fun i => eccUnit (x.1 + i)))).eraseDups
  (units.filter (fun u => !(List.range u.2).all (fun i => covers l (u.1 + i)))).flatMap (fun u =>
    (List.range (u.2 / 8)).map (fun i => u.1 + 8 * i))

/-- The 64-bit words that stored bytes cover in part in the line cache of a cell or in its block's cache. -/
def State.cacheMerges (s : State) (c : Nat) (l : List (Nat × List Byte)) : List Nat :=
  ((l.flatMap (fun x => (List.range x.2.length).map (fun i => (x.1 + i) / 8 * 8))).eraseDups.filter (fun a =>
    !(List.range 8).all (fun i => covers l (a + i)))).filter (fun a =>
      (find (s.cell c).lineCache (a / 32 * 32)).isSome || (find (s.block (cellBlock c)).cache (a / 32 * 32)).isSome)

/-- What an upset does that a store's merges meet (R231): it names words of memory, and after these words of the
caches. One that is corrected has its event, one in a cache that is not has the line dropped, and one in memory that is
not spoils the unit, whose event the store raises. Nothing where R230 describes no error of so many bits. -/
def State.storeUpset (s : State) (g : GRef) (v : Group) (l : List (Nat × List Byte)) (u : Upset) : Option State :=
  let m := mergeWords l
  let held := s.cacheMerges g.cell l
  match s.upsetMem (.group g) (some v.ctx) (unitsHit (namedWords u (fun i => m[i]?))) with
  | none => none
  | some (z, _) =>
    let a : Access := {
      pc := v.pc, regs := [], writes := [], srcs := [], size := 8, sx := false, scratch := false, hits := [], fault := none
      cached := held, inBlk := held.filter (fun k => (find (s.cell g.cell).lineCache (k / 32 * 32)).isNone) }
    (z.upsetUnits g { v := v, here := true, a := a }
      (byUnit id (namedWords u (fun i => if i < m.length then none else held[i - m.length]?)))).map (·.2)

/-- A store's effect: its bytes at their coherence point and in the caches that its cell reads through (R217), and the
group goes on. -/
def State.storeRuns (s : State) (g : GRef) (pc : DWord) (l : List (Nat × List Byte)) : State :=
  (l.foldl (fun z x => z.patchCaches g.cell x.1 x.2) (s.scatter l)).modGroup g (fun u => { u with pc := pc })

/-- ST. -/
def execSt (g : GRef) (w : DWord) (u : Upset) (s : State) : Out1 :=
  issueOut s g .memory 0xA3 w 0 (memShape w 2 false true (storeOk w)) noCheck anyRoom (fun s v =>
    let r := s.checkAccess v.ctx .store (lBytes w) ((v.activeList w).map (fun t => (t, virtAddr v w t)))
    match r.1 with
    | .ok l =>
      let runs := l.map (fun y => (y.2.2.1, storeBytes v w y.1))
      match r.2.storeUpset g v runs u with
      | none => .fault .undescribedUpset
      | some s => .next (s.storeRuns g (nextPc v.pc 1) runs)
    | e => .next (r.2.accessFault g v [] e))

/-- Registers written by returned data. -/
def writeRegs (m : SMap Word) (l : List (Nat × Word)) : SMap Word := l.foldl (fun m x => insertD 0 m x.1 x.2) m

/-- LOAD_DATA_RETURN: the data of access `k` returns, its registers are written and its outstanding writes
end (R41); a group that has exited has no registers left. The uncorrectable units that it read are raised first
(R347). -/
def execLoadDataReturn (g : GRef) (k : Nat) (u : Upset) (s : State) : Out1 :=
  if !gOk g then .fault .noSuchUnit
  else match s.accessAt g k with
    | none => .next s
    | some w =>
      if w.a.fault.isSome then .next s
      else
        let s := if w.a.scratch then w.a.hits.foldl (fun z h => z.accessScratchHit g w (scratchOffset w.v h)) s
          else w.a.hits.foldl (fun z h => z.accessHit g w h) s
        match s.upsetUnits g w (w.a.upsetUnits u) with
        | none => .fault .undescribedUpset
        | some (x, s) =>
          .next ((if w.here then s.modGroup g (fun v => { v with
            vregs := if v.exited then v.vregs else writeRegs v.vregs x.a.writes }) else s).endAccess g k w)

/-- MEMORY_PATH_FAULT: the checks of access `k` end with their fault (R99): the group is frozen before the
first instruction it has not issued, with the program counter set back, and the event is raised even for a
group that is frozen already (R100), or that has left its slot. Its destinations are never written. -/
def execMemoryPathFault (g : GRef) (k : Nat) (s : State) : Out1 :=
  if !gOk g then .fault .noSuchUnit
  else match s.accessAt g k with
    | none => .next s
    | some w =>
      match w.a.fault with
      | none => .next s
      | some (code, addr) =>
        if !w.here then
          let s := s.endAccess g k w
          if code = 0x0502 then .next (s.accessHit g { w with here := false } addr.toNat)
          else .next (s.goneFault g w.v.gid w.v.ctx code 0 addr)
        else
          let s := s.modGroup g (fun v => { v with
            pend := v.pend.set k { w.a with fault := none, writes := [], srcs := [], hits := [] }
            pc := if code = 0x0502 ∧ v.st ≠ .frozen then w.a.pc else v.pc })
          if code = 0x0502 then .next (s.tableFault addr.toNat (.group g) (some w.v.ctx))
          else .next (s.lateFault g w.a.pc code 0 addr)

end Sys2Proof.Machine
end

