-- ==== Sys2Proof/Machine/SilkInstr.lean ====
section
/-! DEFINITION. Silk instructions (R85–R89, Tables 3-16 to 3-18): the requests that a group's threads form
(R86), loads that the remote line cache serves (R264), bulk transfers (R88, R272) and remote triggers. -/

namespace Sys2Proof.Machine

/-! ### Fields and shapes (Table 3-16) -/

def xSize (x : DWord) : Nat := fld x 53 3
def xAop (x : DWord) : Nat := fld x 48 4

/-- Bytes and registers per thread of SILK.LD, SILK.ST and SILK.ATOM. -/
def silkBytes (x : DWord) : Nat := 4 * 2 ^ xSize x
def silkRegs (x : DWord) : Nat := 2 ^ xSize x

/-- The shape of a per-thread Silk instruction. -/
def silkShape (w x : DWord) (hasD hasC ok : Bool) : Shape :=
  let d := if hasD then shV (iDst w) (silkRegs x) else shZ (iDst w)
  let c := if hasC then shV (iC w) (silkRegs x) else shZ (iC w)
  ((shV (iA w) 2).and ((shZ (iB w)).and (d.and c))).and
    ((Shape.when (ok && iMod w == 0 && !bit x 52 && fld x 32 16 == 0)).and (shGuard w))

/-- A thread's Silk address: the offset is displaced modulo 2^40, node and window stay (Table 3-16). -/
def silkAddr (v : Group) (w x : DWord) (t : Nat) : Nat :=
  let a := (v.vpair (iA w) t).toNat
  a / 2 ^ 40 * 2 ^ 40 + (wrap 40 (Int.ofNat (a % 2 ^ 40) + sext 32 (fld x 0 32))).toNat

/-- The addresses of the active threads. -/
def silkAddrs (v : Group) (w x : DWord) : List (Nat × Nat) :=
  (v.activeList w).map (fun t => (t, silkAddr v w x t))

/-! ### Requests (R86) -/

/-- Maximal runs of touched words, each inside one 256-byte span: first word and count. -/
def wordRuns : List Nat → List (Nat × Nat)
  | [] => []
  | k :: r =>
    match wordRuns r with
    | (k', n) :: rest => if k' = k + 1 ∧ k' / 64 = k / 64 then (k, n + 1) :: rest else (k, 1) :: (k', n) :: rest
    | [] => [(k, 1)]

/-- The requests of SILK.LD and SILK.ST: first byte and length, in ascending order of their lowest thread. -/
def silkRuns (l : List (Nat × Nat)) (n : Nat) : List (Nat × Nat) :=
  let words := (l.flatMap (fun x => (List.range (n / 4)).map (x.2 / 4 + ·))).foldl addMem []
  let runs := wordRuns words
  (l.foldl (fun a x => match runs.find? (fun r => decide (r.1 ≤ x.2 / 4) && decide (x.2 / 4 < r.1 + r.2)) with
    | some r => if a.contains r then a else a ++ [r]
    | none => a) []).map (fun r => (4 * r.1, 4 * r.2))

/-- The distinct 4 KiB regions of SILK.INV, in ascending order of their lowest thread. -/
def silkRegions (l : List (Nat × Nat)) : List Nat :=
  l.foldl (fun a x => let k := x.2 / 4096 * 4096; if a.contains k then a else a ++ [k]) []

/-- The header of a request to a Silk address. -/
def silkHdr (s : State) (ctx : Nat) (op : BitVec 6) (addr len : Nat) : TxHdr :=
  let a := BitVec.ofNat 64 addr
  reqHdr op (addrNode a) s.node 0 (s.job ctx) (addrWindow a) (addrOffset a) len s.ttl

/-- A group's instruction of two words goes on. -/
def Group.past2 (v : Group) : Group := { v with pc := nextPc v.pc 2 }

/-- The line cache key of a line of a context's remote memory (R264). -/
def remoteKey (ctx addr : Nat) : Nat := ctx * 2 ^ 58 + addr / 64

/-- Every line of a list found in a region's remote line cache and still held (R264, log entry 6). -/
def State.remoteLines (s : State) (r ctx : Nat) : List Nat → Option (List (Nat × List Byte)) × State
  | [] => (some [], s)
  | a :: rest =>
    match find (s.region r).lineCache (remoteKey ctx a) with
    | none => (none, s)
    | some b =>
      let h := s.held
      if h.1 then
        let u := h.2.remoteLines r ctx rest
        (u.1.map (fun l => (a / 64, b) :: l), u.2)
      else (none, h.2)

/-- SILK.LD. -/
def execSilkLd (g : GRef) (w x : DWord) (s : State) : Out1 :=
  let room (s : State) (v : Group) : Bool :=
    s.tagsFree (cellRegion g.cell) (silkRuns (silkAddrs v w x) (silkBytes x)).length
  issue s g .memory 0xB0 w x (silkShape w x true false (decide (xSize x ≤ 2) && decide (xAop x = 0))) noCheck room (fun s v =>
    let n := silkBytes x
    let l := silkAddrs v w x
    let rg := cellRegion g.cell
    let regs := (List.range (silkRegs x)).map (iDst w + ·)
    match firstBad l (fun a => decide (a % n ≠ 0)) with
    | some a => s.faultGroup g 0x010A 0 (BitVec.ofNat 64 a)
    | none =>
      let lines := (l.map (fun y => y.2 / 64 * 64)).foldl (fun a k => if a.contains k then a else a ++ [k]) []
      let c := s.remoteLines rg v.ctx lines
      match c.1 with
      | some k =>
        let line (a : Nat) : List Byte := ((k.find? (fun y => decide (y.1 = a / 64))).map (·.2)).getD []
        let ws := l.flatMap (fun y => (fillOf w y.1 y.2 (loadWords n false (slice (line y.2) (y.2 % 64) n))).map (·.1))
        let acc : Access := {
          pc := v.pc, regs := regs, writes := ws, srcs := [], size := 4, sx := false, scratch := false, hits := [],
          fault := none, silk := true }
        c.2.setGroup g { v.past2 with pend := if l.isEmpty then v.pend else v.pend ++ [acc] }
      | none =>
        (silkRuns l n).foldl (fun z q =>
          let dst := l.flatMap (fun y => if q.1 ≤ y.2 ∧ y.2 < q.1 + q.2 then
            (List.range (silkRegs x)).map (fun i => ((iDst w + i) * 64 + y.1, y.2 + 4 * i - q.1)) else [])
          z.sendReq rg v.ctx (.load g v.gid v.pc dst true) { silkHdr z v.ctx opLoad q.1 q.2 with status := 0x20 } [])
          (c.2.setGroup g v.past2))

/-- SILK.ST. -/
def execSilkSt (g : GRef) (w x : DWord) (s : State) : Out1 :=
  let room (s : State) (v : Group) : Bool :=
    s.tagsFree (cellRegion g.cell) (silkRuns (silkAddrs v w x) (silkBytes x)).length
  issue s g .memory 0xB1 w x (silkShape w x false true (decide (xSize x ≤ 2) && decide (xAop x = 0))) noCheck room (fun s v =>
    let n := silkBytes x
    let l := silkAddrs v w x
    match firstBad l (fun a => decide (a % n ≠ 0)) with
    | some a => s.faultGroup g 0x010A 0 (BitVec.ofNat 64 a)
    | none =>
      (silkRuns l n).foldl (fun z q =>
        let bs := l.foldl (fun m y => if q.1 ≤ y.2 ∧ y.2 < q.1 + q.2 then
          rawWrite m (y.2 - q.1) ((List.range (silkRegs x)).flatMap (fun i => leBytes 4 (v.vreg (iC w + i) y.1).toNat)) else m) []
        z.sendReq (cellRegion g.cell) v.ctx (.group g v.gid v.pc) (silkHdr z v.ctx opStore q.1 q.2) (rawBytes bs 0 q.2))
        (s.setGroup g v.past2))

/-- Bytes of a SILK.ATOM operand in a frame: add bf16 is a 4-byte access (Table 3-17). -/
def AOp.frameBytes : AOp → Nat
  | .addBf16 => 4
  | op => op.bytes

/-- SILK.ATOM: for compare-and-swap the compare value comes first. -/
def execSilkAtom (g : GRef) (w x : DWord) (s : State) : Out1 :=
  let ok := match aopOf (xAop x) with
    | some op => decide (xSize x ≤ 1) && decide (silkBytes x = op.frameBytes)
    | none => false
  let room (s : State) (v : Group) : Bool := s.tagsFree (cellRegion g.cell) (v.activeList w).length
  issue s g .memory 0xB2 w x (silkShape w x true true ok) noCheck room (fun s v =>
    let n := silkBytes x
    let l := silkAddrs v w x
    match firstBad l (fun a => decide (a % n ≠ 0)) with
    | some a => s.faultGroup g 0x010A 0 (BitVec.ofNat 64 a)
    | none =>
      l.foldl (fun z y =>
        let op := leBytes n (regValue v (iC w) n y.1)
        let bs := if xAop x = 0xC ∨ xAop x = 0xD then leBytes n (regValue v (iDst w) n y.1) ++ op else op
        let dst := (List.range (silkRegs x)).map (fun i => ((iDst w + i) * 64 + y.1, 4 * i))
        let h := { silkHdr z v.ctx opAtomic y.2 bs.length with aop := BitVec.ofNat 4 (xAop x) }
        z.sendReq (cellRegion g.cell) v.ctx (.load g v.gid v.pc dst false) h bs)
        (s.setGroup g v.past2))

/-- SILK.INV: one request per region, at the region's first byte (log entry 24). -/
def execSilkInv (g : GRef) (w x : DWord) (s : State) : Out1 :=
  let room (s : State) (v : Group) : Bool := s.tagsFree (cellRegion g.cell) (silkRegions (silkAddrs v w x)).length
  issue s g .memory 0xB3 w x (silkShape w x false false (decide (xSize x = 0) && decide (xAop x = 0))) noCheck room (fun s v =>
    (silkRegions (silkAddrs v w x)).foldl (fun z a =>
      z.sendReq (cellRegion g.cell) v.ctx (.group g v.gid v.pc) (silkHdr z v.ctx opInv a 1) [])
      (s.setGroup g v.past2))

/-! ### Bulk transfers (R88, R272) -/

/-- Operations of a collective engine transfer: those of Table 8-9, then PUT, GET and SEND. -/
def xfPut : Nat := 0x10
def xfGet : Nat := 0x11
def xfSend : Nat := 0x12

/-- An idle transfer record. -/
def Xfer.blank (op ctx : Nat) (job : BitVec 16) : Xfer :=
  { op := op, fmt := 0xFF, srcAcc := false, rank := 0, members := [], src := 0, dst := 0, len := 0, roff := 0,
    doneVa := 0, hold := 0, holdKiB := 0, map := 0, ringVa := 0, consVa := 0, ctx := ctx, job := job, epoch := 0,
    started := false, queue := [], sent := 0, hops := 0, hopSent := 0, part := [], fin := [], rcvd := 0, due := [],
    moved := [], pack := none, cmd := none, task := none, group := none }

/-- Whether a collective engine channel is bound to a context (Table 8-21). -/
def State.ceBound (s : State) (r c n : Nat) : Bool :=
  decide (s.csrF (oCe r c) 0 1 = 1) && decide (s.csrF (oCe r c) 1 6 = n)

/-- A channel. -/
def State.ceChan (s : State) (r c : Nat) : CeChan := lookupD {} (s.region r).ce c
def State.setCeChan (s : State) (r c : Nat) (k : CeChan) : State :=
  let v := s.region r
  s.setRegion r { v with ce := insertD {} v.ce c k }

/-- The operands of a bulk transfer: local address, Silk address, length; the first that breaks R88. -/
def bulkBad (v : Group) (w : DWord) : Option DWord :=
  let a := v.spair (iA w)
  let b := v.spair (iB w)
  let n := (v.sreg (iC w)).toNat
  if a.toNat % 32 ≠ 0 ∨ n % 32 ≠ 0 ∨ n = 0 then some a else if b.toNat % 32 ≠ 0 then some b else none

/-- SILK.PUT and SILK.GET: a channel at work lets the instruction wait. -/
def bulkOp (opc op : Nat) (g : GRef) (w x : DWord) (s : State) : Out1 :=
  let r := cellRegion g.cell
  let c := fld x 48 4
  let sh := ((shS (iA w) 2).and ((shS (iB w) 2).and ((shS (iC w)).and (shZ (iDst w))))).and
    ((Shape.when (iMod w == 0 && fld x 52 4 == 0)).and (shGuard w))
  let room (s : State) (v : Group) : Bool :=
    v.active w == 0 || (bulkBad v w).isSome || !s.ceBound r c v.ctx || !((s.ceChan r c).busy || (s.ceChan r c).frozen)
  issue s g .memory opc w x sh noCheck room (fun s v =>
    if v.active w = 0 then s.setGroup g v.past2
    else match bulkBad v w with
      | some a => s.faultGroup g 0x010A 0 a
      | none =>
        let b := v.spair (iB w)
        if !s.ceBound r c v.ctx then s.faultGroup g 0x010D (nakChan.setWidth 16) b
        else
          let va := v.spair (iA w)
          let f : Xfer := { Xfer.blank op v.ctx (s.job v.ctx) with
            members := [(addrNode b, addrWindow b)], roff := BitVec.ofNat 64 (fld b 0 40),
            src := va, dst := va, len := (v.sreg (iC w)).toNat, doneVa := BitVec.ofNat 64 (fld x 0 48),
            started := true, group := some g }
          (s.setGroup g v.past2).setCeChan r c { s.ceChan r c with busy := true, xfer := some f })

/-- SILK.PUT. -/
def execSilkPut (g : GRef) (w x : DWord) (s : State) : Out1 := bulkOp 0xB4 xfPut g w x s

/-- SILK.GET. -/
def execSilkGet (g : GRef) (w x : DWord) (s : State) : Out1 := bulkOp 0xB5 xfGet g w x s

/-- RTRIG: on the control port, once. -/
def execRtrig (g : GRef) (w x : DWord) (s : State) : Out1 :=
  let r := cellRegion g.cell
  let sh := ((shS (iA w)).and ((shS (iB w) 16).and ((shZ (iC w)).and (shZ (iDst w))))).and
    ((Shape.when (iMod w == 0 && fld x 16 40 == 0)).and (shGuard w))
  let room (s : State) (v : Group) : Bool := v.active w == 0 || s.tagsFree r 1
  issue s g .control 0xB8 w x sh noCheck room (fun s v =>
    let s := s.setGroup g v.past2
    if v.active w = 0 then s
    else
      let h := reqHdr opRtrig (BitVec.ofNat 16 (fld (v.sreg (iA w)) 0 16)) s.node 0 (s.job v.ctx)
        (BitVec.ofNat 8 (fld x 8 8)) (BitVec.ofNat 40 (fld x 0 8)) 64 s.ttl
      s.sendReq r v.ctx (.group g v.gid v.pc) h ((List.range 16).flatMap (fun i => leBytes 4 (v.sreg (iB w + i)).toNat)))

end Sys2Proof.Machine
end

