-- ==== Sys2Proof/Machine/Ce.lean ====
section
/-! DEFINITION. The collective engine (R88, R181, R184, R199, R272–R276): transfers and their frames, collectives,
sequence rings and the Molt. -/

namespace Sys2Proof.Machine

/-! ### Faults and accesses (R211, R237, R263, R345) -/

/-- CE_FAULT: the channel is frozen, with the NAK code in the record (Table 8-14). -/
def State.ceFail (s : State) (r c : Nat) (nak : BitVec 8) : State :=
  let n := (s.ceChan r c).xfer.map (·.ctx)
  (s.freezeCe r c 0x0605).raise {
    unit := .geu r, sev := sevF, code := 0x0605, master := .ce r c, ctx := n
    addr := BitVec.ofNat 64 (c + nak.toNat * 256) }

/-- An access of the engine fails in translation. -/
def State.ceXlate (s : State) (r c n : Nat) (f : Tr × Nat) : State :=
  match f.1 with
  | .ecc pa => s.tableFault pa (.ce r c) (some n)
  | .perm => s.ceFail r c nakPerm
  | _ => match s.holeAt n f.2 with
    | some pa => (s.freezeCe r c 0x0907).raise {
        unit := .geu r, sev := sevF, code := 0x0907, master := .ce r c, ctx := some n, addr := BitVec.ofNat 64 pa }
    | none => s.ceFail r c nakXlate

/-- The Skipper task that a channel works for. -/
def State.ceTask (s : State) (r c : Nat) : Option TaskId :=
  match (s.ceChan r c).xfer with
  | some x => x.task.map (fun t => (r, t.1, t.2.1, t.2.2))
  | none => none

/-- A read of the engine; an uncorrectable error freezes the channel where no task answers for it (R348). -/
def State.ceRead (s : State) (r c n va len : Nat) : Except State (List Byte × State) :=
  let g := s.range n va len .load
  match g.1 with
  | .error f => .error (g.2.ceXlate r c n f)
  | .ok ps =>
    let t := g.2.pieceHits ps (.ce r c) (some n) (g.2.ceTask r c)
    if (t.ceChan r c).frozen then .error t else .ok (t.pieces ps, t)

/-- A write of the engine. -/
def State.ceWrite (s : State) (r c n va : Nat) (bs : List Byte) : Except State State :=
  let g := s.range n va bs.length .store
  match g.1 with
  | .error f => .error (g.2.ceXlate r c n f)
  | .ok ps => .ok (g.2.writePieces ps bs)

/-- The state after a write, or after its fault. -/
def State.cePut (s : State) (r c n va : Nat) (bs : List Byte) : State :=
  match s.ceWrite r c n va bs with
  | .ok t => t
  | .error t => t

/-- A channel's transfer changed. -/
def State.modXfer (s : State) (r c : Nat) (f : Xfer → Xfer) : State :=
  let k := s.ceChan r c
  s.setCeChan r c { k with xfer := k.xfer.map f }

/-! ### Elements (R181, R184, R274) -/

/-- Bytes of an element of FMT (Table 8-9). -/
def ceSize (fmt : Nat) : Nat :=
  match fmt with
  | 0 => 4
  | 2 => 2
  | _ => 1

/-- Bytes of a member chunk. -/
def Xfer.chunk (x : Xfer) : Nat := x.len * ceSize x.fmt

/-- The value of a residue pair (R155). -/
def pairVal (b r : Nat) : Val :=
  match decodeVal bf16 b with
  | .fin n m e =>
    let ri := sext 8 r
    let u := addDy n m e (decide (ri < 0)) ri.natAbs (residueUnit b)
    .fin u.1 u.2.1 u.2.2
  | v => v

/-- The residue byte that belongs to a bf16 element of an accumulator of region `r`'s program (R182). -/
def State.residAt (s : State) (r va : Nat) : Option Nat :=
  match s.program r with
  | none => none
  | some p => p.tensors.findSome? (fun t =>
    if t.kind ≠ 2 then none
    else if t.a.toNat ≤ va ∧ va < t.a.toNat + 2 * t.elems then some (t.c.toNat + (va - t.a.toNat) / 2)
    else if t.b.toNat ≤ va ∧ va < t.b.toNat + 2 * t.elems then some (t.d.toNat + (va - t.b.toNat) / 2)
    else none)

/-- The mask bit that covers an element of a weight of `cols` columns (Table 6-3). -/
def maskBitOf (mode cols i : Nat) : Nat :=
  if mode = 1 then i / cols / 16 else i / cols / 256 * ((cols + 255) / 256) + i % cols / 256

/-- The mask mode of a weight record. -/
def TensorRec.masked (t : TensorRec) : Bool := decide (t.kind = 1) && decide (t.mode ≠ 0)

/-- Columns of a weight; the step program does not give them (log entry 32). -/
def TensorRec.cols (t : TensorRec) : Nat := max 1 (Config.weightColumns t.id)

/-- Whether an element of a weight is trained (R180): every element is where there is no mask. -/
def trained (t : TensorRec) (mask : List Byte) (i : Nat) : Bool :=
  !t.masked || bit (mask.getD (maskBitOf t.mode t.cols i / 8) 0) (maskBitOf t.mode t.cols i % 8)

/-- The bytes of a weight's mask; none where it has none. -/
def TensorRec.maskLen (t : TensorRec) : Nat := if t.masked then maskBitOf t.mode t.cols (t.elems - 1) / 8 + 1 else 0

/-- The trained elements of a weight in ascending order (R181). -/
def trainedOf (t : TensorRec) (mask : List Byte) : List Nat := (List.range t.elems).filter (trained t mask)

/-- The element index that position `i` of a transfer's source stands for. -/
def Xfer.srcIndex (x : Xfer) (i : Nat) : Nat :=
  match x.pack with
  | some l => l.getD i i
  | none => i

/-- Elements of an accumulator in the transfer's format (R184). -/
def State.srcElems (s : State) (r c : Nat) (x : Xfer) : List Nat → Except State (List Byte × State)
  | [] => .ok ([], s)
  | i :: rest =>
    let va := x.src.toNat + 2 * x.srcIndex i
    match s.ceRead r c x.ctx va 2 with
    | .error t => .error t
    | .ok (b, t) =>
      let res : Except State (Nat × State) := match t.residAt r va with
        | none => .ok (0, t)
        | some a => match t.ceRead r c x.ctx a 1 with
          | .error u => .error u
          | .ok (v, u) => .ok (leNat v, u)
      match res with
      | .error u => .error u
      | .ok (v, u) =>
        let e := leBytes (ceSize x.fmt) (toFloat ((fmtOf x.fmt).getD fp32) .near (decide (x.fmt ≠ 0)) true (pairVal (leNat b) v)).bits
        match u.srcElems r c x rest with
        | .error w => .error w
        | .ok (l, w) => .ok (e ++ l, w)

/-- Elements of a packed tensor that is no accumulator, each as it stands in memory (R181). -/
def State.srcPacked (s : State) (r c : Nat) (x : Xfer) : List Nat → Except State (List Byte × State)
  | [] => .ok ([], s)
  | i :: rest =>
    match s.ceRead r c x.ctx (x.src.toNat + ceSize x.fmt * x.srcIndex i) (ceSize x.fmt) with
    | .error t => .error t
    | .ok (b, t) => match t.srcPacked r c x rest with
      | .error u => .error u
      | .ok (l, u) => .ok (b ++ l, u)

/-- `n` bytes of the member's own data from byte `o`. -/
def State.srcBytes (s : State) (r c : Nat) (x : Xfer) (o n : Nat) : Except State (List Byte × State) :=
  let ids := (List.range (n / ceSize x.fmt)).map (o / ceSize x.fmt + ·)
  if x.srcAcc then s.srcElems r c x ids
  else if x.pack.isSome then s.srcPacked r c x ids
  else s.ceRead r c x.ctx (x.src.toNat + o) n

/-- One sum of R274: exact widening to fp32, one addition, one rounding to FMT with saturation. -/
def addElem (fmt a b : Nat) : Nat × Bool :=
  let y := (addVal fp32 .near (valOf fmt a) (valOf fmt b)).bits
  if fmt = 0 then (y, false)
  else
    let z := toFloat ((fmtOf fmt).getD fp32) .near true true (decodeVal fp32 y)
    (z.bits, z.clamp)

/-- The sums of two parts, and how many saturated. -/
def addParts (fmt : Nat) : Nat → List Byte → List Byte → List Byte × Nat
  | 0, _, _ => ([], 0)
  | n + 1, a, b =>
    let w := ceSize fmt
    let e := addElem fmt (leNat (a.take w)) (leNat (b.take w))
    let r := addParts fmt n (a.drop w) (b.drop w)
    (leBytes w e.1 ++ r.1, (if e.2 then 1 else 0) + r.2)

/-- SATS counts saturations (R274). -/
def State.countSats (s : State) (r n : Nat) : State :=
  let v := s.region r
  s.setRegion r { v with ceSats := satInc v.ceSats n }

/-! ### Frames (R272) -/

/-- Bytes in pieces of at most 4,096. -/
def pieces4k : Nat → List Byte → List (List Byte)
  | 0, _ => []
  | n + 1, l => if l.isEmpty then [] else l.take 4096 :: pieces4k n (l.drop 4096)

/-- A frame of a transfer. -/
def ceFrame (x : Xfer) (c : Nat) (op : BitVec 6) (m : BitVec 16 × BitVec 8) (off : Nat) (data : List Byte) (last : Bool) : Frame :=
  mkFrame { reqHdr op m.1 0 0 x.job m.2 (BitVec.ofNat 40 off) data.length 0 with
    epoch := x.epoch, ch := BitVec.ofNat 4 c, last := last } data

/-- Data for a member's window from an offset on, in frames. -/
def ceFrames (x : Xfer) (c : Nat) (op : BitVec 6) (m : BitVec 16 × BitVec 8) (off : Nat) (data : List Byte) : List Frame :=
  let ps := pieces4k (data.length / 4096 + 1) data
  ps.mapIdx (fun i p => ceFrame x c op m (off + 4096 * i) p (decide (i + 1 = ps.length)))

/-- A member of a collective. -/
def Xfer.member (x : Xfer) (i : Nat) : BitVec 16 × BitVec 8 := x.members.getD (i % max 1 x.members.length) (0, 0)

/-- Frames queued. -/
def State.ceQueue (s : State) (r c : Nat) (l : List Frame) : State := s.modXfer r c (fun x => { x with queue := x.queue ++ l })

/-! ### Completion (R88, R274) -/

/-- A channel's requests that have no response yet. -/
def State.ceOpen (s : State) (r c : Nat) : Bool :=
  s.silk.reqs.any (fun q => match q.2.waiter with | .ce a b => decide (a = r) && decide (b = c) | _ => false)

/-- A transfer has sent all its frames and received all its data; a Molt ends by Table 8-11 instead. -/
def Xfer.allMoved (x : Xfer) : Bool :=
  let k := (x.members.length - 1) * x.chunk
  x.queue.isEmpty &&
  (match x.op with
    | 1 => decide (x.rcvd = k)
    | 2 => decide (x.rcvd = k)
    | 3 => decide (x.rcvd = 2 * k)
    | 4 => decide (x.rcvd = k)
    | 5 => decide (x.hopSent + 1 = x.members.length) && decide (x.hops + 1 = x.members.length)
    | 0x10 => decide (x.sent = x.len)
    | 0x11 => decide (x.sent = x.len)
    | 0x12 => true
    | _ => false)

/-- A task has one transfer less open. -/
def State.taskLess (s : State) (i : TaskId) : State := s.modRun i (fun y => { y with open' := y.open' - 1 })

/-- A transfer ends: the completion word rises by 1, the channel is free, its command or task is told. -/
def State.ceFinish (s : State) (r c : Nat) (x : Xfer) : State :=
  let w : Except State State :=
    if x.op = xfSend then .ok s
    else
      let g := s.range x.ctx x.doneVa.toNat 8 .atomic
      match g.1 with
      | .error f => .error (g.2.ceXlate r c x.ctx f)
      | .ok ps =>
        let t := g.2.pieceHits ps (.ce r c) (some x.ctx) (g.2.ceTask r c)
        if (t.ceChan r c).frozen then .error t else .ok (t.writePieces ps (leBytes 8 (leNat (t.pieces ps) + 1)))
  match w with
  | .error t => t
  | .ok t =>
    let t := t.setCeChan r c { t.ceChan r c with busy := false, xfer := none, holdUsed := 0, last := some x }
    let t := match x.cmd with
      | some (q, k) => t.cmdResult q k stOk 0
      | none => t
    match x.task with
    | some i => t.taskLess (r, i.1, i.2.1, i.2.2)
    | none => t

/-- A channel looked at after progress. -/
def State.ceCheck (s : State) (r c : Nat) : State :=
  let k := s.ceChan r c
  match k.xfer with
  | some x => if x.started && !k.frozen && x.allMoved && !s.ceOpen r c then s.ceFinish r c x else s
  | none => s

/-! ### COLL frames at a member (R199, R274, R276) -/

/-- The valid job window of (JOB, WINDOW) (R270). -/
def State.findWin (s : State) (job : BitVec 16) (window : BitVec 8) : Option Nat :=
  (List.range 256).find? (fun w => decide (s.csrF (oJwin w 0) 0 1 = 1) && decide (s.csrF (oJwin w 0) 16 16 = job.toNat) &&
    decide (s.csrF (oJwin w 4) 0 8 = window.toNat))

/-- A window's context and base. -/
def State.winCtx (s : State) (w : Nat) : Nat := s.csrF (oJwin w 0) 2 6
def State.winBase (s : State) (w : Nat) : Nat := s.csrF (oJwin w 8) 0 32 + s.csrF (oJwin w 0xC) 0 16 * two32

/-- A partial of a reduction arrives at chunk position `o`: added to the member's own part, and sent on or kept. -/
def State.collPartial (s : State) (r c : Nat) (x : Xfer) (va o : Nat) (data : List Byte) : State :=
  let n := x.members.length
  let k := o / x.chunk
  match s.srcBytes r c x o data.length with
  | .error t => t
  | .ok (own, t) =>
    let sum := addParts x.fmt (data.length / ceSize x.fmt) data own
    let t := (t.countSats r sum.2).modXfer r c (fun y => { y with part := y.part ++ [o], rcvd := y.rcvd + data.length })
    let off := x.roff.toNat + o
    if k = x.rank then
      let t := t.cePut r c x.ctx va sum.1
      if x.op = 3 then
        t.ceQueue r c (((List.range n).filter (fun j => decide (j ≠ x.rank))).flatMap (fun j => ceFrames x c opColl (x.member j) off sum.1))
      else t
    else t.ceQueue r c (ceFrames x c opColl (x.member (x.rank + 1)) off sum.1)

/-- Data that stays as it is arrives at position `o`. -/
def State.collFinal (s : State) (r c : Nat) (x : Xfer) (va o : Nat) (data : List Byte) : State :=
  let s := s.cePut r c x.ctx va data
  if x.fin.contains o then s else s.modXfer r c (fun y => { y with fin := y.fin ++ [o], rcvd := y.rcvd + data.length })

/-- A ring's data arrives (R199): a backward ring adds its own partial. When a hop's block has landed, the ring
word tells it. -/
def State.collRing (s : State) (r c : Nat) (x : Xfer) (va o : Nat) (data : List Byte) : State :=
  let l := x.chunk
  let w : Except State State :=
    if x.fmt = 0xFF then s.ceWrite r c x.ctx va data
    else match s.srcBytes r c x ((x.hops + 1) * l + o % l) data.length with
      | .error t => .error t
      | .ok (own, t) =>
        let sum := addParts x.fmt (data.length / ceSize x.fmt) data own
        (t.countSats r sum.2).ceWrite r c x.ctx va sum.1
  match w with
  | .error t => t
  | .ok t =>
    let got := x.rcvd + data.length
    let t := t.modXfer r c (fun y => { y with rcvd := got })
    if (x.hops + 1) * l ≤ got then
      (t.modXfer r c (fun y => { y with hops := y.hops + 1 })).cePut r c x.ctx x.ringVa.toNat (leBytes 8 (x.hops + 1))
    else t

/-- A COLL frame applied to the transfer in progress. -/
def State.collApply (s : State) (r c : Nat) (x : Xfer) (va : Nat) (f : Frame) : State :=
  let o := f.tx.offset.toNat - x.roff.toNat
  let n := x.members.length
  let k := o / x.chunk
  let t :=
    if f.tx.offset.toNat < x.roff.toNat ∨ x.chunk = 0 then s.cePut r c x.ctx va f.payload
    else if x.op = 1 then (if x.part.contains o then s else s.collPartial r c x va o f.payload)
    else if x.op = 3 then
      (if k ≠ x.rank ∧ (x.part.contains o ∨ (k + 1) % n = x.rank) then s.collFinal r c x va o f.payload
       else if x.part.contains o then s
       else s.collPartial r c x va o f.payload)
    else if x.op = 5 then s.collRing r c x va o f.payload
    else s.collFinal r c x va o f.payload
  t.ceCheck r c

/-- A frame kept until its channel's collective, or its epoch, has begun. -/
def State.holdFrame (s : State) (r c : Nat) (f : Frame) : State :=
  let k := s.ceChan r c
  s.setCeChan r c { k with held := k.held ++ [f] }

/-- A channel can apply a frame now: its collective is in progress, and the frame's epoch is current or the last. -/
def State.collReady (s : State) (r c : Nat) (f : Frame) : Option Xfer :=
  let k := s.ceChan r c
  let e := (s.region r).epoch
  match k.xfer with
  | some x =>
    if x.started && !k.frozen && decide (x.job = f.tx.job) && decide (1 ≤ x.op) && decide (x.op ≤ 5) &&
       (decide (f.tx.epoch = e) || decide (f.tx.epoch + 1 = e)) then some x else none
  | none => none

/-- The entry of a list that covers an offset of a window. -/
def rangeOf (l : List FwdEntry) (t : TxHdr) : Option FwdEntry :=
  l.find? (fun e => decide (e.window = t.window) && decide (e.off ≤ t.offset.toNat) && decide (t.offset.toNat < e.off + e.len))

/-- The forwarding entry that covers a frame's offset. -/
def State.fwdOf (s : State) (r : Nat) (t : TxHdr) : Option FwdEntry := rangeOf (s.region r).fwd t

/-- The ranges that the permute in progress takes away from region `r`. -/
def State.leaving (s : State) (r : Nat) : List FwdEntry :=
  (s.region r).ce.flatMap (fun k => match k.2.xfer with
    | some x => if x.op = 6 ∧ x.started then x.moved else []
    | none => [])

/-- The channel's transfer that a frame belongs to, by its job and epoch: the one in progress, else the last. -/
def CeChan.ofFrame (k : CeChan) (t : TxHdr) : Option Xfer :=
  ((match k.xfer with | some x => if x.started then [x] else [] | none => []) ++ k.last.toList).find?
    (fun x => decide (x.job = t.job) && decide (x.epoch = t.epoch))

/-- A frame of a moved range sent on to the new owner (Table 8-12); the member's own collective counts it as come. -/
def State.collForward (s : State) (r c n : Nat) (e : FwdEntry) (f : Frame) : State :=
  let t := { f.tx with dst := e.node, window := e.nwin, offset := BitVec.ofNat 40 (e.noff + (f.tx.offset.toNat - e.off)), enc := false }
  let s := s.sendReq r n (.fwd r c) t f.payload
  match s.collReady r c f with
  | some x =>
    if (x.op = 1 ∨ x.op = 3) ∧ x.roff.toNat ≤ f.tx.offset.toNat then
      (s.modXfer r c (fun y => { y with rcvd := y.rcvd + f.payload.length })).ceCheck r c
    else s
  | none => s

/-- Bytes `lo` to `hi − 1` of a window taken out of open ranges. -/
def closeOpen (c : Nat) (w : BitVec 8) (lo hi : Nat) (l : List (Nat × BitVec 8 × Nat × Nat)) : List (Nat × BitVec 8 × Nat × Nat) :=
  l.flatMap (fun e =>
    if e.1 ≠ c ∨ e.2.1 ≠ w ∨ hi ≤ e.2.2.1 ∨ e.2.2.1 + e.2.2.2 ≤ lo then [e]
    else (if e.2.2.1 < lo then [(c, w, e.2.2.1, lo - e.2.2.1)] else []) ++
      (if hi < e.2.2.1 + e.2.2.2 then [(c, w, hi, e.2.2.1 + e.2.2.2 - hi)] else []))

/-- A forwarded frame applied at the new owner (R276): where the partial sum of its bytes is still open, as the old
owner would have added it, to the partial that came with the range; else as final data. -/
def State.collMoved (s : State) (r c n : Nat) (x : Xfer) (e : FwdEntry) (va : Nat) (f : Frame) : State :=
  let lo := f.tx.offset.toNat
  let hi := lo + f.payload.length
  let here := (s.region r).opens.any (fun y => decide (y.1 = c) && decide (y.2.1 = f.tx.window) && decide (y.2.2.1 ≤ lo) &&
    decide (hi ≤ y.2.2.1 + y.2.2.2))
  if !here then s.cePut r c n va f.payload
  else
    match s.ceRead r c n va f.payload.length with
    | .error t => t
    | .ok (own, t) =>
      let t := t.setRegion r { t.region r with opens := closeOpen c f.tx.window lo hi (t.region r).opens }
      let sum := addParts x.fmt (f.payload.length / ceSize x.fmt) f.payload own
      let t := t.countSats r sum.2
      let old := e.noff + (lo - e.off)
      let rank := (x.members.findIdx? (fun m => decide (m = (e.node, e.nwin)))).getD 0
      let send (u : State) (j : Nat) : State :=
        (ceFrames x c opColl (x.member j) old sum.1).foldl (fun z g => z.sendReq r n (.fwd r c) { g.tx with epoch := f.tx.epoch } g.payload) u
      if (old - x.roff.toNat) / max 1 x.chunk ≠ rank then send t (rank + 1)
      else
        let t := t.cePut r c n va sum.1
        if x.op = 3 then ((List.range x.members.length).filter (fun j => decide (j ≠ rank))).foldl send t else t

/-- A COLL frame sent on, applied for an old owner, taken by its channel, or kept for it: one of a range that is being
moved away waits until its new owner is known to hold the range (Table 8-12, log entry 135). -/
def State.collTake (s : State) (r c n va : Nat) (f : Frame) : State :=
  let v := s.region r
  match (if f.tx.epoch + 1 = v.epoch then s.fwdOf r f.tx else none), rangeOf v.came f.tx with
  | some e, _ => s.collForward r c n e f
  | none, some e => match (s.ceChan r c).ofFrame f.tx with
    | some x => s.collMoved r c n x e va f
    | none => s.holdFrame r c f
  | none, none =>
    if f.tx.epoch = v.epoch ∧ (rangeOf (s.leaving r) f.tx).isSome then s.holdFrame r c f
    else match s.collReady r c f with
      | some x => s.collApply r c x va f
      | none => s.holdFrame r c f

/-- Frames that a channel keeps, taken again in arrival order. -/
def State.takeHeld (s : State) (r c : Nat) : State :=
  let k := s.ceChan r c
  k.held.foldl (fun t f => match t.findWin f.tx.job f.tx.window with
    | some w => t.collTake r c (t.winCtx w) (t.winBase w + f.tx.offset.toNat) f
    | none => t) (s.setCeChan r c { k with held := [] })

/-! ### Molt (R275, Table 8-11) -/

/-- Whether COLL frames of an epoch that a region has sent are still open, or more of them will follow. -/
def State.collOpen (s : State) (r : Nat) (e : BitVec 16) : Bool :=
  (s.region r).ce.any (fun k => match k.2.xfer with
    | some x => decide (x.epoch = e) && decide (x.op ≤ 5) && decide (1 ≤ x.op) && x.started && !k.2.frozen
    | none => false) ||
  s.silk.reqs.any (fun q => decide (q.2.frame.tx.op = opColl) && decide (q.2.frame.tx.epoch = e) &&
    (match q.2.waiter with | .ce a _ => decide (a = r) | .fwd a _ => decide (a = r) | _ => false))

/-- Forwarded frames of a region that have no response yet. -/
def State.fwdOpen (s : State) (r : Nat) : Bool :=
  s.silk.reqs.any (fun q => match q.2.waiter with | .fwd a _ => decide (a = r) | _ => false)

/-- Bytes that have arrived in a range. -/
def State.arrived (s : State) (job : BitVec 16) (d : BitVec 8 × Nat × Nat) : Nat :=
  s.silk.perm.foldl (fun a p =>
    if p.1 = job ∧ p.2.1 = d.1 ∧ d.2.1 ≤ p.2.2.1 ∧ p.2.2.1 + p.2.2.2 ≤ d.2.1 + d.2.2 then a + p.2.2.2 else a) 0

/-- Every range that a Molt brings has arrived. -/
def State.allDue (s : State) (x : Xfer) : Bool := x.due.all (fun d => decide (d.2.2 ≤ s.arrived x.job d))

/-- Whether an arrival lies in one of a Molt's ranges. -/
def inDue (x : Xfer) (p : BitVec 16 × BitVec 8 × Nat × Nat) : Bool :=
  decide (p.1 = x.job) && x.due.any (fun d => decide (d.1 = p.2.1) && decide (d.2.1 ≤ p.2.2.1) && decide (p.2.2.1 < d.2.1 + d.2.2))

/-- The EPOCH_DONE frame. -/
def epochDoneFrame (s : State) (dst : BitVec 16) (e : BitVec 16) : Frame :=
  mkFrame { reqHdr opEpochDone dst s.node 0 0 0 0 2 s.ttl with epoch := 0 } (leBytes 2 e.toNat)

/-- Forwarding: EPOCH_DONE goes out once the old epoch has drained here; with every member's in, the region is
stable. -/
def State.moltSettle (s : State) (r : Nat) : State :=
  let v := s.region r
  if v.molt ≠ 2 then s
  else
    let old := v.epoch - 1
    let s := if v.moltDone.contains s.node ∨ s.collOpen r old then s
      else
        let s := (v.moltNodes.filter (fun m => decide (m ≠ s.node))).foldl (fun t m => t.sendOwn r (epochDoneFrame t m old)) s
        s.setRegion r { s.region r with moltDone := (s.region r).moltDone ++ [s.node] }
    let v := s.region r
    if v.moltNodes.all (fun m => v.moltDone.contains m) ∧ v.moltDone.contains s.node ∧ !s.fwdOpen r then
      s.setRegion r { v with molt := 0, fwd := [], came := [], opens := [], moltDone := [], moltNodes := [] }
    else s

/-- The epoch advances (Table 8-11): forwarding entries stand, the permute completes, kept frames apply. -/
def State.moltAdvance (s : State) (r c : Nat) (x : Xfer) : State :=
  let v := s.region r
  let s := s.setRegion r { v with epoch := v.epoch + 1, molt := 2, fwd := v.fwd ++ x.moved }
  let s := { s with silk := { s.silk with perm := s.silk.perm.filter (fun p => !inDue x p) } }
  (List.range 16).foldl (fun t k => t.takeHeld r k) (s.ceFinish r c x)

/-- A region's Molt looked at after progress. -/
def State.moltCheck (s : State) (r : Nat) : State :=
  let s := if (s.region r).molt ≠ 1 then s
    else match (List.range 16).find? (fun c => match (s.ceChan r c).xfer with | some x => decide (x.op = 6) && x.started | none => false) with
      | none => s
      | some c => match (s.ceChan r c).xfer with
        | none => s
        | some x =>
          if x.queue.isEmpty && !s.ceOpen r c && !(s.ceChan r c).frozen && s.allDue x then s.moltAdvance r c x else s
  s.moltSettle r

/-- All regions' Molts looked at. -/
def State.moltAll (s : State) : State := (List.range 8).foldl (fun t r => t.moltCheck r) s

/-! ### Rows -/

/-- A channel may send: its context is not being suspended, and a tag is free. -/
def State.ceMay (s : State) (r : Nat) (x : Xfer) : Bool :=
  s.tagsFree r 1 && !decide (s.host.ctxBusy = some (x.ctx, 7))

/-- One frame of a PUT (R88, R272). -/
def State.putFrame (s : State) (r c : Nat) (x : Xfer) : State :=
  let n := min 4096 (x.len - x.sent)
  match s.ceRead r c x.ctx (x.src.toNat + x.sent) n with
  | .error t => t
  | .ok (bs, t) =>
    let f := ceFrame x c opPut (x.member 0) (x.roff.toNat + x.sent) bs (decide (x.sent + n = x.len))
    (t.modXfer r c (fun y => { y with sent := y.sent + n })).sendReq r x.ctx (.ce r c) { f.tx with epoch := 0 } bs

/-- One frame of a GET. -/
def State.getFrame (s : State) (r c : Nat) (x : Xfer) : State :=
  let n := min 4096 (x.len - x.sent)
  let m := x.member 0
  let h : TxHdr := { reqHdr opGet m.1 0 0 x.job m.2 (BitVec.ofNat 40 (x.roff.toNat + x.sent)) n 0 with
    ch := BitVec.ofNat 4 c, last := decide (x.sent + n = x.len) }
  (s.modXfer r c (fun y => { y with sent := y.sent + n })).sendReq r x.ctx (.ce r c) h []

/-- CE_FRAME_SEND: the channel's next frame goes to the fabric. -/
def execCeFrameSend (r c : Nat) (s : State) : Out1 :=
  if 8 ≤ r ∨ 16 ≤ c then .fault .noSuchUnit
  else
    let k := s.ceChan r c
    match k.xfer with
    | none => .next s
    | some x =>
      if !x.started || k.frozen || !s.ceMay r x then .next s
      else if x.op = xfPut then (if x.sent < x.len then .next (s.putFrame r c x) else .next s)
      else if x.op = xfGet then (if x.sent < x.len then .next (s.getFrame r c x) else .next s)
      else match x.queue with
        | [] => .next s
        | f :: rest => .next ((s.modXfer r c (fun y => { y with queue := rest })).sendReq r x.ctx (.ce r c) f.tx f.payload)

/-- A collective of a given operation begins. -/
def startColl (op r c : Nat) (s : State) (work : State → Xfer → State) : Out1 :=
  if 8 ≤ r ∨ 16 ≤ c then .fault .noSuchUnit
  else
    let k := s.ceChan r c
    match k.xfer with
    | none => .next s
    | some x =>
      if x.op ≠ op ∨ x.started ∨ k.frozen ∨ s.host.ctxBusy = some (x.ctx, 7) then .next s
      else .next (((work (s.modXfer r c (fun y => { y with started := true })) x).takeHeld r c).ceCheck r c)

/-- The rank after a chunk's own starts it with its own part (R274). -/
def State.startReduce (s : State) (r c : Nat) (x : Xfer) : State :=
  let n := x.members.length
  let k := (x.rank + n - 1) % max 1 n
  match s.srcBytes r c x (k * x.chunk) x.chunk with
  | .error t => t
  | .ok (bs, t) => t.ceQueue r c (ceFrames x c opColl (x.member (x.rank + 1)) (x.roff.toNat + k * x.chunk) bs)

/-- The member's own chunk kept, and sent to the others; `k j` is the chunk of the send buffer for member `j`. -/
def State.startMove (s : State) (r c : Nat) (x : Xfer) (k : Nat → Nat) : List Nat → State
  | [] => s
  | j :: rest =>
    match s.srcBytes r c x (k j * x.chunk) x.chunk with
    | .error t => t
    | .ok (bs, t) =>
      let t := if j = x.rank then t.cePut r c x.ctx (x.dst.toNat + x.rank * x.chunk) bs
        else t.ceQueue r c (ceFrames x c opColl (x.member j) (x.roff.toNat + x.rank * x.chunk) bs)
      t.startMove r c x k rest

/-- REDUCE_SCATTER. -/
def execReduceScatter (r c : Nat) (s : State) : Out1 := startColl 1 r c s (fun t x => t.startReduce r c x)

/-- ALL_GATHER. -/
def execAllGather (r c : Nat) (s : State) : Out1 :=
  startColl 2 r c s (fun t x => t.startMove r c x (fun _ => 0) (List.range x.members.length))

/-- ALL_REDUCE: a reduce-scatter whose results are gathered. -/
def execAllReduce (r c : Nat) (s : State) : Out1 := startColl 3 r c s (fun t x => t.startReduce r c x)

/-- ALL_TO_ALL. -/
def execAllToAll (r c : Nat) (s : State) : Out1 :=
  startColl 4 r c s (fun t x => t.startMove r c x id (List.range x.members.length))

/-- RING_HOP_SEND (R199, log entry 33): hop j sends the block of hop j − 1, the member's own for hop 1, once that
has landed and, from hop 2 on, once the kernel has consumed j − 1 blocks. -/
def execRingHopSend (r c : Nat) (s : State) : Out1 :=
  if 8 ≤ r ∨ 16 ≤ c then .fault .noSuchUnit
  else
    let k := s.ceChan r c
    match k.xfer with
    | none => .next s
    | some x =>
      let j := x.hopSent + 1
      let n := x.members.length
      if x.op ≠ 5 ∨ !x.started ∨ k.frozen ∨ n ≤ j ∨ x.hops < x.hopSent ∨ s.host.ctxBusy = some (x.ctx, 7) then .next s
      else
        let ready : Except State (Bool × State) :=
          if j < 2 then .ok (true, s)
          else match s.ceRead r c x.ctx x.consVa.toNat 8 with
            | .error t => .error t
            | .ok (b, t) => .ok (decide (j - 1 ≤ leNat b), t)
        match ready with
        | .error t => .next t
        | .ok (false, t) => .next t
        | .ok (true, t) =>
          let data := if j = 1 then t.srcBytes r c x 0 x.chunk else t.ceRead r c x.ctx (x.dst.toNat + (j - 1) % 2 * x.chunk) x.chunk
          match data with
          | .error u => .next u
          | .ok (bs, u) =>
            let dest := if x.fmt = 0xFF then x.rank + 1 else x.rank + n - 1
            .next ((u.modXfer r c (fun y => { y with hopSent := j })).ceQueue r c
              (ceFrames x c opColl (x.member dest) (x.roff.toNat + j % 2 * x.chunk) bs))

/-! ### The permute (R275) -/

/-- An entry of a permutation map (log entry 34). -/
structure MapEntry where
  from' : BitVec 16
  dest    : BitVec 16
  win   : BitVec 8
  off   : Nat
  len   : Nat
  noff  : Nat
  deriving DecidableEq, Repr

/-- An entry's 32 bytes. -/
def mapEntry (b : List Byte) : MapEntry :=
  { from' := BitVec.ofNat 16 (leAt b 0 2), dest := BitVec.ofNat 16 (leAt b 2 2), win := BitVec.ofNat 8 (leAt b 4 1)
    off := leAt b 8 8, len := leAt b 16 8, noff := leAt b 24 8 }

/-- The map's entries, after its count of 8 bytes. -/
def mapEntries : Nat → List Byte → List MapEntry
  | 0, _ => []
  | n + 1, b => mapEntry (b.take 32) :: mapEntries n (b.drop 32)

/-- A piece of a moved range: where it starts in the window, its length, and for the bytes whose partial sum an open
reduction of a channel still lacks, that channel and their position in its buffer (R275). -/
structure MovePiece where
  off  : Nat
  len  : Nat
  part : Option (Nat × Nat)
  deriving DecidableEq, Repr

/-- A piece put in its place by offset. -/
def addPiece (p : MovePiece) : List MovePiece → List MovePiece
  | [] => [p]
  | q :: rest => if p.off ≤ q.off then p :: q :: rest else q :: addPiece p rest

/-- The open pieces of a channel's reduction: the frames of every chunk that this member adds to and that have not
come. -/
def openPieces (c : Nat) (x : Xfer) : List MovePiece :=
  let n := x.members.length
  if !x.started ∨ x.chunk = 0 ∨ (x.op ≠ 1 ∧ x.op ≠ 3) then []
  else ((List.range n).filter (fun k => decide ((k + 1) % n ≠ x.rank))).flatMap (fun k =>
    (List.range ((x.chunk + 4095) / 4096)).filterMap (fun i =>
      let o := k * x.chunk + 4096 * i
      if x.part.contains o then none
      else some { off := x.roff.toNat + o, len := min 4096 (x.chunk - 4096 * i), part := some (c, o) }))

/-- A range from `lo` to `hi` cut at the open pieces that lie in it. -/
def cutMove : Nat → Nat → List MovePiece → List MovePiece
  | lo, hi, [] => if lo < hi then [{ off := lo, len := hi - lo, part := none }] else []
  | lo, hi, p :: rest =>
    if p.off < lo ∨ hi < p.off + p.len then cutMove lo hi rest
    else (if lo < p.off then [{ off := lo, len := p.off - lo, part := none }] else []) ++ p :: cutMove (p.off + p.len) hi rest

/-- The open pieces of every channel's reduction on a window of a job, by offset. -/
def State.openAll (s : State) (r : Nat) (job : BitVec 16) (w : BitVec 8) : List MovePiece :=
  ((s.region r).ce.flatMap (fun k => match k.2.xfer with
    | some x => if x.job = job ∧ (x.member x.rank).2 = w then openPieces k.1 x else []
    | none => [])).foldl (fun l p => addPiece p l) []

/-- The pieces of a range read and queued: an open partial sum holds the member's own part so far, and its frame names
the channel of its reduction. -/
def State.movePieces (s : State) (r c : Nat) (x : Xfer) (base : Nat) (e : MapEntry) : List MovePiece → State
  | [] => s
  | p :: rest =>
    let d : Except State (List Byte × State) := match p.part with
      | none => s.ceRead r c x.ctx (base + p.off) p.len
      | some (k, o) => match (s.ceChan r k).xfer with
        | some y => s.srcBytes r k y o p.len
        | none => .ok ([], s)
    match d with
    | .error t => t
    | .ok (bs, t) =>
      let k := match p.part with | some y => y.1 | none => c
      (t.ceQueue r c (ceFrames x k opPermute (e.dest, e.win) (e.noff + (p.off - e.off)) bs)).movePieces r c x base e rest

/-- The ranges that leave this member read and queued, with the partial sums that it holds (R275). -/
def State.startRanges (s : State) (r c : Nat) (x : Xfer) (base : Nat) : List MapEntry → State
  | [] => s
  | e :: rest =>
    let ps := cutMove e.off (e.off + e.len) (s.openAll r x.job (x.member x.rank).2)
    (s.movePieces r c x base e ps).startRanges r c x base rest

/-- The map read: its entries. -/
def State.readMap (s : State) (r c : Nat) (x : Xfer) : Except State (List MapEntry × State) :=
  match s.ceRead r c x.ctx x.map.toNat 8 with
  | .error t => .error t
  | .ok (b, t) =>
    let n := leNat b
    match t.ceRead r c x.ctx (x.map.toNat + 8) (32 * n) with
    | .error u => .error u
    | .ok (l, u) => .ok (mapEntries n l, u)

/-- The Molt of a region begins. -/
def State.startPermute (s : State) (r c : Nat) (x : Xfer) : State :=
  match s.readMap r c x with
  | .error t => t
  | .ok (l, t) =>
    let own := x.member x.rank
    let mine := l.filter (fun e => decide (e.from' = t.node))
    let moved := mine.map (fun e => ({ window := own.2, off := e.off, len := e.len, node := e.dest, nwin := e.win, noff := e.noff } : FwdEntry))
    let here := l.filter (fun e => decide (e.dest = t.node))
    let due := here.map (fun e => (e.win, e.noff, e.len))
    let came := here.map (fun e => ({ window := e.win, off := e.noff, len := e.len, node := e.from', nwin := (x.members.find? (fun m => decide (m.1 = e.from'))).elim 0 (·.2), noff := e.off } : FwdEntry))
    if 256 < (t.region r).fwd.length + moved.length then t.ceFail r c 0
    else match t.findWin x.job own.2 with
      | none => t.ceFail r c nakNowin
      | some w =>
        let e := (t.region r).epoch
        let t := t.setRegion r { t.region r with molt := 1, moltNodes := x.members.map (·.1), came := came }
        let x := { x with epoch := e, due := due, moved := moved }
        let t := t.modXfer r c (fun y => { y with epoch := e, due := due, moved := moved })
        let t := t.startRanges r c x (t.winBase w) mine
        ((List.range 16).foldl (fun u k => u.takeHeld r k) t).moltCheck r

/-- PERMUTE_COLLECTIVE: waits while the region is not stable (R275). -/
def execPermuteCollective (r c : Nat) (s : State) : Out1 :=
  if 8 ≤ r ∨ 16 ≤ c then .fault .noSuchUnit
  else
    let k := s.ceChan r c
    match k.xfer with
    | none => .next s
    | some x =>
      if x.op ≠ 6 ∨ x.started ∨ k.frozen ∨ (s.region r).molt ≠ 0 ∨ s.host.ctxBusy = some (x.ctx, 7) then .next s
      else .next ((s.modXfer r c (fun y => { y with started := true })).startPermute r c x)

/-! ### Descriptors (Table 8-9) -/

/-- The limits of Table 8-9. -/
def descOk (b : List Byte) : Bool :=
  let op := leAt b 0 1
  let fmt := leAt b 1 1
  decide (1 ≤ op) && decide (op ≤ 6) &&
  (if op = 1 ∨ op = 3 then fmt == 0 || fmt == 2 || fmt == 4
   else if op = 5 then fmt == 0 || fmt == 2 || fmt == 4 || fmt == 0xFF
   else fmt == 0xFF) &&
  decide (leAt b 2 1 < 16) && decide (leAt b 3 1 < 2) && decide (2 ≤ leAt b 4 2) && decide (leAt b 4 2 ≤ 64) &&
  decide (leAt b 6 2 < leAt b 4 2) && leAt b 68 4 == 0 && allZero (slice b 96 32)

/-- The member list's entries. -/
def memberList : Nat → List Byte → List (BitVec 16 × BitVec 8)
  | 0, _ => []
  | n + 1, b => (BitVec.ofNat 16 (leAt b 0 2), BitVec.ofNat 8 (leAt b 2 1)) :: memberList n (b.drop 8)

/-- The transfer that a descriptor asks for; a ring is at work from the start. -/
def descXfer (b : List Byte) (n : Nat) (job epoch : BitVec 16) (ms : List (BitVec 16 × BitVec 8)) : Xfer :=
  let q (o : Nat) : DWord := BitVec.ofNat 64 (leAt b o 8)
  { Xfer.blank (leAt b 0 1) n job with
    fmt := leAt b 1 1, srcAcc := leAt b 3 1 == 1, rank := leAt b 6 2, members := ms, src := q 16, dst := q 24
    len := leAt b 32 8, roff := q 40, doneVa := q 48, hold := q 56, holdKiB := leAt b 64 4, map := q 72, ringVa := q 80
    consVa := q 88, epoch := epoch, started := leAt b 0 1 == 5 }

/-- The hold area lies in the Layer Store (Table 8-9). -/
def State.holdOk (s : State) (n : Nat) (b : List Byte) : Bool :=
  let len := leAt b 64 4 * 1024
  len == 0 ||
  (match (s.range n (leAt b 56 8) len .store).1 with
    | .ok ps => ps.all (fun p => match placeOf p.1 with | some (.ls _) => true | _ => false)
    | .error _ => false)

/-- A descriptor put to work on its channel: `src` says who asked for it. A descriptor that breaks a limit, or
names a channel that is not bound to the context, freezes the channel that it names with CE_FAULT (R273); a transfer
of another context there ends with it (log entry 35). -/
def State.startDesc (s : State) (r n : Nat) (b : List Byte) (src : Xfer → Xfer) : State :=
  let c := leAt b 2 1 % 16
  let x := src (descXfer b n (s.job n) (s.region r).epoch [])
  let bad (t : State) (nak : BitVec 8) : State :=
    if t.ceBound r c n then (t.setCeChan r c { t.ceChan r c with busy := true, xfer := some x }).ceFail r c nak
    else
      let t := t.freezeCe r c 0
      let k := t.ceChan r c
      let t := t.setCeChan r c { k with busy := true, frozen := true, xfer := some (k.xfer.getD x) }
      let t := match x.cmd with
        | some (q, k) => t.cmdResult q k stFault 0x05
        | none => t
      (t.loseContext n 2).raise {
        unit := .geu r, sev := sevF, code := 0x0605, master := .ce r c, ctx := some n
        addr := BitVec.ofNat 64 (c + nak.toNat * 256) }
  if !s.ceBound r c n then bad s nakChan
  else if !descOk b || !s.holdOk n b then bad s nakBadreq
  else
    let s := s.setCeChan r c { s.ceChan r c with busy := true, xfer := some x }
    match s.ceRead r c n (leAt b 8 8) (8 * leAt b 4 2) with
    | .error t => t
    | .ok (l, t) => t.setCeChan r c { t.ceChan r c with xfer := some { x with members := memberList (leAt b 4 2) l } }

/-- Whether the channel that a descriptor names is at work for its context. -/
def State.descWaits (s : State) (r n : Nat) (b : List Byte) : Bool :=
  let c := leAt b 2 1 % 16
  s.ceBound r c n && ((s.ceChan r c).busy || (s.ceChan r c).frozen)

/-- The descriptor holds an upper-half address (R317). -/
def descUpper (b : List Byte) : Bool := [8, 16, 24, 48, 56, 72, 80, 88].any (fun o => decide (2 ^ 47 ≤ leAt b o 8))

/-- COLLECTIVE (R273, R296, R317). -/
def execCollective (q k : Nat) (s : State) : Out1 :=
  runCmd 5 q k s (fun t c =>
    let r := leAt c.bytes 24 1
    let a : DWord := BitVec.ofNat 64 (leAt c.bytes 16 8)
    if (t.ctx c.ctx).st ≠ 1 then t.cmdResult q k stCtxLost 0
    else if !t.regionUp r || !t.sideOk c.ctx r then t.cmdResult q k stBadBlock 0
    else
      let z := t.resolve c.ctx (.queue q) a 128
      match z.1 with
      | .error e => z.2.cmdXlate q k c.ctx e a
      | .ok va =>
        if z.2.upperBad c.ctx va 128 then z.2.cmdResult q k stBadCmd 0
        else
          let g := z.2.range c.ctx va 128 .load
          match g.1 with
          | .error (.ecc pa, _) => (g.2.cmdResult q k stFault 0x02).tableFault pa (.queue q) (some c.ctx)
          | .error (f, v) => g.2.cmdXlate q k c.ctx (f.code.getD 0x010B) (BitVec.ofNat 64 v)
          | .ok ps =>
            if ps.any (fun p => !(g.2.eccHits p.1 p.2).isEmpty) then
              (g.2.cmdResult q k stFault 0x02).pieceHits ps (.queue q) (some c.ctx) none
            else
              let b := g.2.pieces ps
              if (g.2.boundTo c.ctx).isSome && descUpper b then g.2.cmdResult q k stBadCmd 0
              else if g.2.descWaits r c.ctx b then s
              else g.2.startDesc r c.ctx b (fun x => { x with cmd := some (q, k) }))

end Sys2Proof.Machine
end

