-- ==== Sys2Proof/Machine/Home.lean ====
section
/-! DEFINITION. The home agent (R252–R254, R260–R267, R303, R321, R322): checks of Table 8-7, the remote operations,
sharers and their invalidation, the completion cache, and what responses do at the source. -/

namespace Sys2Proof.Machine

/-! ### Answers -/

/-- A frame that answers sent, sealed under its job's key where it is marked (R321). Where no slot holds the job any
more it goes in plain with its status alone (Table 10-13); a slot whose counter has run out refuses it. -/
def State.sendSealed (s : State) (sl : Nat) (f : Frame) : State :=
  if f.tx.enc then
    match s.seal f with
    | some e => e.2.sendResp sl e.1
    | none =>
      let status := if (s.slotOfJob f.tx.job).isSome then nakDecrypt else f.tx.status
      s.sendResp sl { f with tx := { f.tx with enc := false, status := status, len := 0 }, payload := [] }
  else s.sendResp sl f

/-- The answer to a request, marked for sealing where the request was sealed. -/
def answerFrame (s : State) (f : Frame) (status : BitVec 8) (payload : List Byte) (cacheok : Bool := false) : Frame :=
  let a := respFrame s f status payload cacheok
  { a with tx := { a.tx with enc := f.tx.enc } }

/-- A request answered. -/
def State.answer (s : State) (sl : Nat) (f : Frame) (status : BitVec 8) (payload : List Byte) (cacheok : Bool := false) : State :=
  s.sendSealed sl (answerFrame s f status payload cacheok)

/-- A violation counted where the frame came by a port. -/
def State.violateAt (s : State) (l : Nat) (kind : BitVec 8) : State := if l = selfLink then s else s.violate l kind

/-! ### Check 1 of Table 8-7 -/

/-- Operand bytes of an ATOMIC frame; none for a reserved AOP. -/
def atomicLen (aop : BitVec 4) : Option Nat :=
  (aopOf aop.toNat).map (fun o => match o with | .cas w => 2 * w | o => o.frameBytes)

/-- The alignment that OFFSET must have. -/
def offsetAlign (t : TxHdr) : Nat :=
  if t.op = opAtomic then (match aopOf t.aop.toNat with | some o => o.frameBytes | none => 4)
  else if t.op = opRtrig then 1 else 4

/-- LEN lies in the opcode's range (Table 8-5). -/
def lenOk (t : TxHdr) : Bool :=
  let n := t.len.toNat + 1
  if t.op = opLoad ∨ t.op = opStore then decide (4 ≤ n) && decide (n ≤ 256) && decide (t.offset.toNat % 256 + n ≤ 256)
  else if t.op = opAtomic then atomicLen t.aop == some n
  else if t.op = opRtrig then n == 64
  else if t.op = opPut ∨ t.op = opGet then decide (32 ≤ n)
  else true

/-- Whether an opcode's frames carry LEN + 1 bytes of payload. -/
def carries (t : TxHdr) : Bool := t.op != opLoad && t.op != opInv && t.op != opGet

/-- A request's header fails check 1. -/
def reqBad (f : Frame) : Bool :=
  let t := f.tx
  t.rsv != 0 || t.rsp || fld t.status 0 5 != 0 || t.cacheok || (t.aop != 0 && t.op != opAtomic) ||
  (t.epoch != 0 && t.op != opColl && t.op != opPermute) || !lenOk t || t.offset.toNat % offsetAlign t != 0 ||
  f.payload.length != (if carries t then t.len.toNat + 1 else 0) || f.trailer.length != (if t.enc then 16 else 0)

/-! ### Checks 2 to 7 -/

/-- What a request that passed its checks acts on: context, virtual address, home region, physical pieces, the
payload in plain, and whether sharers may cache. -/
structure Hit where
  n     : Nat
  va    : Nat
  r     : Nat
  ps    : List (Nat × Nat)
  data  : List Byte
  share : Bool
  deriving DecidableEq, Repr

/-- The permission bit that an opcode needs (Table 8-16); collective and Molt data are stores (log entry 36). -/
def permBit (op : BitVec 6) : Nat :=
  if op = opLoad ∨ op = opGet then 8 else if op = opAtomic then 10 else if op = opRtrig then 11 else 9

/-- The access that check 6 judges. -/
def homeMode (op : BitVec 6) : Mode :=
  if op = opLoad ∨ op = opGet then .load else if op = opAtomic then .atomic else .store

/-- The region that holds a physical address. -/
def regionOfPa (pa : Nat) : Nat := match placeOf pa with | some p => p.region | none => 0

/-- A frame that fails R322 counted in the slot of its job. -/
def State.countFail (s : State) (job : BitVec 16) : State :=
  match s.slotOfJob job with
  | some k => s.setKeySlot k { s.keySlot k with fail := satInc (s.keySlot k).fail }
  | none => s

/-- Check 7 (R322): the payload in plain. -/
def State.homeOpen (s : State) (n : Nat) (f : Frame) : Except (BitVec 8) (List Byte) × State :=
  match f.tx.enc, s.boundTo n with
  | false, none => (.ok f.payload, s)
  | true, some c =>
    match s.slotOfJob f.tx.job with
    | some k =>
      if (s.keySlot k).cocoon = c then
        match s.unseal k f with
        | some (p, t) => (.ok p, t)
        | none => (.error nakDecrypt, s.countFail f.tx.job)
      else (.error nakDecrypt, s.countFail f.tx.job)
    | none => (.error nakDecrypt, s)
  | _, _ => (.error nakDecrypt, s.countFail f.tx.job)

/-- Check 5 for pages of an access: the first that does not translate. -/
def State.homePages (s : State) (n va : Nat) (m : Mode) : List Nat → Option Tr × State
  | [] => (none, s)
  | p :: rest =>
    let t := s.translate n (max va (p * 0x10000)) m
    match t.1 with
    | .xlate => (some .xlate, t.2)
    | .ecc pa => (some (.ecc pa), t.2)
    | _ => t.2.homePages n va m rest

/-- Checks 5 and 6, in that order for the whole request: the pieces that a request's bytes translate to, and the home region. An RTRIG reads nothing at
its address: it needs the translation alone. -/
def State.homeRange (s : State) (n va : Nat) (f : Frame) : Except (BitVec 8) (Nat × List (Nat × Nat)) × State :=
  if f.tx.op = opRtrig then
    let t := s.translate n va .load
    match t.1 with
    | .ok pa _ => (.ok (regionOfPa pa, []), t.2)
    | .perm => (.ok (match t.2.walk n va with | .leaf e => regionOfPa e.pa | _ => 0, []), t.2)
    | .xlate => (.error nakXlate, t.2)
    | .ecc pa => (.error nakXlate, t.2.tableFault pa (.home (regionOfPa pa)) (some n))
  else
    let len := if f.tx.op = opInv then 1 else f.tx.len.toNat + 1
    let t := s.range n va len (homeMode f.tx.op)
    match t.1 with
    | .ok ps => (.ok (regionOfPa ((ps.headD (0, 0)).1), ps), t.2)
    | .error (.ecc pa, _) => (.error nakXlate, t.2.tableFault pa (.home (regionOfPa pa)) (some n))
    | .error (.perm, _) =>
      let u := t.2.homePages n va (homeMode f.tx.op) (pageSpan va len)
      (match u.1 with
        | none => (.error nakPerm, u.2)
        | some (.ecc pa) => (.error nakXlate, u.2.tableFault pa (.home (regionOfPa pa)) (some n))
        | some _ => (.error nakXlate, u.2))
    | .error _ => (.error nakXlate, t.2)

/-- Checks 2 to 7 in order (R260, R322). -/
def State.homeCheck (s : State) (f : Frame) : Except (BitVec 8) Hit × State :=
  match s.findWin f.tx.job f.tx.window with
  | none => (.error nakNowin, s)
  | some w =>
    let size := s.csrF (oJwin w 4) 8 24
    let units := if size = 0 then 2 ^ 24 else size
    if units * 65536 < f.tx.offset.toNat + f.tx.len.toNat + 1 then (.error nakBounds, s)
    else if s.csrF (oJwin w 0) (permBit f.tx.op) 1 = 0 then (.error nakPerm, s)
    else
      let n := s.winCtx w
      let va := s.winBase w + f.tx.offset.toNat
      let share := decide (s.csrF (oJwin w 0) 12 1 = 1)
      let g := s.homeRange n va f
      match g.1 with
      | .error e => (.error e, g.2)
      | .ok (r, ps) =>
        let d := g.2.homeOpen n f
        (match d.1 with
          | .error e => .error e
          | .ok p => .ok { n := n, va := va, r := r, ps := ps, data := p, share := share }, d.2)

/-- A request at the home: received, checked, served. -/
def atHome (l : Nat) (f : Frame) (op : BitVec 6) (s : State) (work : State → Hit → State) : Out1 :=
  if !(linkOk l || l == selfLink) then .fault .noSuchUnit
  else if f.tx.op ≠ op ∨ f.tx.rsp ∨ f.tx.dst ≠ s.node then .next s
  else match s.receive l f with
    | .error t => .next t
    | .ok t =>
      let t := t.returnCredit l f
      if reqBad f then .next ((t.answer (linkSlice l) f nakBadreq []).violateAt l 0x08)
      else
        let h := t.homeCheck f
        match h.1 with
        | .error e => .next (h.2.answer (linkSlice l) f e [])
        | .ok x => .next (work h.2 x)

/-! ### Doorbells, sharers and held responses (R264–R267, R291) -/

/-- Every enabled queue whose doorbell line a write touched reads its TAIL. -/
def State.ringBells (s : State) (ps : List (Nat × Nat)) : State :=
  ((List.range 1024).filter (fun q => s.qEnabled q &&
    ps.any (fun p => decide (p.1 / 64 ≤ s.qDoorbell q / 64) && decide (s.qDoorbell q / 64 ≤ (p.1 + p.2 - 1) / 64)))).foldl
    (fun t q => t.readTail q) s

/-- The 4 KiB regions that pieces touch, each with the position of its first byte in the access. -/
def kiRegions : Nat → List (Nat × Nat) → List (Nat × Nat)
  | _, [] => []
  | base, (pa, n) :: rest =>
    (List.range ((pa + n - 1) / 4096 - pa / 4096 + 1)).map (fun j =>
      let k := pa / 4096 + j
      (k, base + (max pa (k * 4096) - pa))) ++ kiRegions (base + n) rest

/-- The sharer entry of a 4 KiB region. -/
def State.sharers (s : State) (k : Nat) : Sharers := lookupD {} (s.region (regionOfPa (k * 4096))).sharers k
def State.setSharers (s : State) (k : Nat) (v : Sharers) : State :=
  let r := regionOfPa (k * 4096)
  let x := s.region r
  s.setRegion r { x with sharers := insertD {} x.sharers k v }

/-- The INVAL of a region for a sharer: it names the region as the request did. -/
def invalHdr (s : State) (f : Frame) (o : Nat) (node : BitVec 16) : TxHdr :=
  { reqHdr opInval node s.node f.tx.tag f.tx.job f.tx.window (f.tx.offset + BitVec.ofNat 40 o) 1 s.ttl with rsp := true }

/-- A region's sharers told to drop it; the entry is cleared (R266, R267). -/
def State.invalidate (s : State) (sl : Nat) (f : Frame) (k : Nat × Nat) : State :=
  let v := s.sharers k.1
  if v.nodes.isEmpty then s
  else
    let hs := v.nodes.map (fun m => (m, invalHdr s f k.2 m))
    let s := s.setSharers k.1 { v with nodes := [], pending := v.pending ++ hs }
    hs.foldl (fun t h => t.sendResp sl (mkFrame h.2 [])) s

/-- A response sent, or held while invalidations of one of the regions are pending (R266). -/
def State.answerHeld (s : State) (sl : Nat) (ks : List (Nat × Nat)) (a : Frame) : State :=
  let wait := ks.filter (fun k => !(s.sharers k.1).pending.isEmpty)
  if wait.isEmpty then s.sendSealed sl a
  else wait.foldl (fun t k => let v := t.sharers k.1; t.setSharers k.1 { v with held := v.held ++ [a] }) s

/-- Whether a response is held. -/
def State.isHeld (s : State) (a : Frame) : Bool := s.regions.any (fun r => r.2.sharers.any (fun e => e.2.held.contains a))

/-- What follows every remote write: doorbells, invalidations, the response. -/
def State.afterWrite (s : State) (h : Hit) (f : Frame) (a : Frame) : State :=
  let s := s.ringBells h.ps
  let ks := kiRegions 0 h.ps
  (ks.foldl (fun t k => t.invalidate h.r f k) s).answerHeld h.r ks a

/-- A LOAD registers its source as a sharer of every region it read, in none of the cases of R265. -/
def State.register (s : State) (h : Hit) (f : Frame) : Bool × State :=
  let ks := kiRegions 0 h.ps
  let ok := bit f.tx.status 5 && h.share && ks.all (fun k =>
    let v := s.sharers k.1
    v.pending.isEmpty && decide (v.nodes.length < 8) &&
      decide ((s.region (regionOfPa (k.1 * 4096))).sharers.length < 65536))
  if ok then
    (true, ks.foldl (fun t k =>
      let v := t.sharers k.1
      if v.nodes.contains f.tx.src then t else t.setSharers k.1 { v with nodes := v.nodes ++ [f.tx.src] }) s)
  else (false, s)

/-! ### The completion cache (R253) -/

/-- The cached response of a request. -/
def State.doneOf (s : State) (r : Nat) (f : Frame) : Option Frame :=
  ((s.region r).done.find? (fun d => decide (d.src = f.tx.src) && decide (d.tag = f.tx.tag))).map (·.resp)

/-- An entry made; an older one of the same source and tag gives way. -/
def State.addDone (s : State) (r : Nat) (a : Frame) (f : Frame) : State :=
  let s := s.applyB (oSilk 0x14) 0xFF0000
  let v := s.region r
  s.setRegion r { v with
    done := v.done.filter (fun d => !(decide (d.src = f.tx.src) && decide (d.tag = f.tx.tag))) ++ [{ src := f.tx.src, tag := f.tx.tag, resp := a }] }

/-- A request that is not idempotent: answered from the cache, refused while it is full, or executed. -/
def State.onceOnly (s : State) (h : Hit) (f : Frame) (work : State → State) : State :=
  match (if bit f.tx.status 6 then s.doneOf h.r f else none) with
  | some a => if s.isHeld a then s else s.sendSealed h.r { a with tx := { a.tx with enc := f.tx.enc } }
  | none => if 16384 ≤ (s.region h.r).done.length then s.answer h.r f nakBusy [] else work s

/-! ### Requests -/

/-- Bytes read at the home, uncorrectable errors raised (R231, R348). -/
def State.homeRead (s : State) (h : Hit) : List Byte × State :=
  let s := s.pieceHits h.ps (.home h.r) (some h.n) none
  (s.pieces h.ps, s)

/-- LOAD. -/
def execLoad (l : Nat) (f : Frame) (s : State) : Out1 :=
  atHome l f opLoad s (fun s h =>
    let d := s.homeRead h
    let g := d.2.register h f
    g.2.answer h.r f 0 d.1 g.1)

/-- STORE. -/
def execStore (l : Nat) (f : Frame) (s : State) : Out1 :=
  atHome l f opStore s (fun s h =>
    let s := s.writePieces h.ps h.data
    s.afterWrite h f (answerFrame s f 0 []))

/-- ATOMIC (R261): the old value, in as many bytes as the operand. The high half of an add-bf16 operand, which R85 has
zero, is ignored where it is not (DESIGN CHOICE, log entry 126). -/
def execAtomic (l : Nat) (f : Frame) (s : State) : Out1 :=
  atHome l f opAtomic s (fun s h => s.onceOnly h f (fun s =>
    match aopOf f.tx.aop.toNat, h.ps with
    | some op, (pa, _) :: _ =>
      let n := op.frameBytes
      let cas := match op with | .cas _ => true | _ => false
      let s := s.readHits pa op.bytes (.home h.r) (some h.n) none
      let r := s.atomicAt op pa (leNat (h.data.take n)) (leNat (if cas then h.data.drop n else h.data) % 2 ^ (8 * op.bytes))
      let a := answerFrame r.2 f 0 (leBytes n r.1)
      (r.2.addDone h.r a f).afterWrite { h with ps := [(pa, op.bytes)] } f a
    | _, _ => s))

/-- INV (R267). -/
def execInv (l : Nat) (f : Frame) (s : State) : Out1 :=
  atHome l f opInv s (fun s h =>
    let ks := kiRegions 0 h.ps
    (ks.foldl (fun t k => t.invalidate h.r f k) s).answerHeld h.r ks (answerFrame s f 0 []))

/-- PUT. -/
def execPut (l : Nat) (f : Frame) (s : State) : Out1 :=
  atHome l f opPut s (fun s h => s.onceOnly h f (fun s =>
    let s := s.writePieces h.ps h.data
    let a := answerFrame s f 0 []
    (s.addDone h.r a f).afterWrite h f a))

/-- GET. -/
def execGet (l : Nat) (f : Frame) (s : State) : Out1 :=
  atHome l f opGet s (fun s h =>
    let d := s.homeRead h
    d.2.answer h.r f 0 d.1)

/-! ### Remote triggers (R262, R303) -/

/-- Bytes of a context read for the home agent, or the NAK where they cannot be: XLATE where a table entry met an
uncorrectable error (R237), else NOHANDLER (R303). -/
def State.homeBytes (s : State) (r n va len : Nat) : Except (BitVec 8) (List Byte) × State :=
  let g := s.range n va len .load
  match g.1 with
  | .error (.ecc pa, _) => (.error nakXlate, g.2.tableFault pa (.home r) (some n))
  | .error _ => (.error nakNohandler, g.2)
  | .ok ps =>
    if ps.any (fun p => !(g.2.eccHits p.1 p.2).isEmpty) then (.error nakNohandler, g.2.pieceHits ps (.home r) (some n) none)
    else (.ok (g.2.pieces ps), g.2)

/-- Launches of a handler entry that are queued or resident. -/
def handlerCount (e : Nat) (l : List (Nat × Nat)) : Nat := ((l.find? (fun h => decide (h.1 = e))).map (·.2)).getD 0

/-- One launch more of a handler entry. -/
def addHandler (e : Nat) : List (Nat × Nat) → List (Nat × Nat)
  | [] => [(e, 1)]
  | h :: r => if h.1 = e then (e, h.2 + 1) :: r else h :: addHandler e r

/-- An RTRIG's launch queued, or the NAK that refuses it. -/
def State.trigger (s : State) (h : Hit) (f : Frame) : BitVec 8 × State :=
  let n := h.n
  let e := f.tx.offset.toNat % 256
  let g := s.homeBytes h.r n (lookupD 0 s.host.ht n + 32 * e) 32
  match g.1 with
  | .error c => (c, g.2)
  | .ok b =>
    if leAt b 8 1 % 2 = 0 then (nakNohandler, g.2)
    else
      let d := g.2.homeBytes h.r n (leAt b 0 8) 128
      match d.1 with
      | .error c => (c, d.2)
      | .ok t =>
        let c := t.take 64 ++ h.data
        let k := launchBlock c
        if badCmd c 0 6 || leAt c 0 1 != 1 || !declOk c || !d.2.blockUp k || !d.2.sideOk n (blockRegion k) then (nakNohandler, d.2)
        else
          let a := d.2.resolve n (.home h.r) (BitVec.ofNat 64 (leAt c 16 8)) 8
          match a.1 with
          | .error _ => (nakNohandler, a.2)
          | .ok va =>
            let s := a.2
            if leAt b 8 1 / 16 + 1 ≤ handlerCount e (s.ctx n).handlers then (nakBusy, s)
            else
              let i := s.fresh
              match i.2.submitSet k (launchSet c i.1 n (i.2.cid n) (.handler n e (cmdSignal c)) (BitVec.ofNat 64 va) 0) with
              | .error _ => (nakNohandler, i.2)
              | .ok u => (0, u.setCtx n { u.ctx n with handlers := addHandler e (u.ctx n).handlers })

/-- RTRIG_REQUEST. -/
def execRtrigRequest (l : Nat) (f : Frame) (s : State) : Out1 :=
  atHome l f opRtrig s (fun s h => s.onceOnly h f (fun s =>
    let r := s.trigger h f
    let a := answerFrame r.2 f r.1 []
    if r.1 = 0 then (r.2.addDone h.r a f).sendSealed h.r a else r.2.sendSealed h.r a))

/-! ### Collective and Molt data (R275, R276) -/

/-- A COLL or PERMUTE frame by which its resends are known. -/
def seenKey (t : TxHdr) : CollSeen := { src := t.src, tag := t.tag, epoch := t.epoch, window := t.window, offset := t.offset }

/-- A resend of a frame that has been taken: it is answered, and not applied again (log entry 99). -/
def State.wasSeen (s : State) (r : Nat) (t : TxHdr) : Bool := bit t.status 6 && (s.region r).seen.contains (seenKey t)

/-- A frame noted as taken, in place of an older one of its source and tag. -/
def State.noteSeen (s : State) (r : Nat) (t : TxHdr) : State :=
  let v := s.region r
  s.setRegion r { v with seen := v.seen.filter (fun d => !(decide (d.src = t.src) && decide (d.tag = t.tag))) ++ [seenKey t] }

/-- COLL (Table 8-12). -/
def execColl (l : Nat) (f : Frame) (s : State) : Out1 :=
  atHome l f opColl s (fun s h =>
    let r := h.r
    let c := f.tx.ch.toNat
    let e := (s.region r).epoch
    let g := { f with payload := h.data, trailer := [] }
    if s.wasSeen r f.tx then s.answer r f 0 []
    else if f.tx.epoch = e ∨ f.tx.epoch + 1 = e then
      (((s.collTake r c h.n h.va g).noteSeen r f.tx).answer r f 0 []).moltCheck r
    else if f.tx.epoch = e + 1 then
      let k := s.ceChan r c
      match k.xfer with
      | some x =>
        if x.holdKiB * 1024 < k.holdUsed + h.data.length then s.answer r f nakBusy []
        else
          let s := s.cePut r c x.ctx (x.hold.toNat + k.holdUsed) h.data
          let s := s.setCeChan r c { s.ceChan r c with holdUsed := k.holdUsed + h.data.length }
          ((s.holdFrame r c g).noteSeen r f.tx).answer r f 0 []
      | none => s.answer r f nakBusy []
    else s.answer r f nakEpoch [])

/-- Bytes of a moved range whose partial sum is still open noted: their frame names a channel that works, or last
worked, on a reduction of the job (log entry 135). -/
def State.noteOpen (s : State) (r : Nat) (t : TxHdr) (len : Nat) : State :=
  match (s.ceChan r t.ch.toNat).ofFrame t with
  | some x =>
    if x.op = 1 ∨ x.op = 3 then
      let v := s.region r
      s.setRegion r { v with opens := v.opens ++ [(t.ch.toNat, t.window, t.offset.toNat, len)] }
    else s
  | none => s

/-- PERMUTE: Molt data written at the new owner. -/
def execPermute (l : Nat) (f : Frame) (s : State) : Out1 :=
  atHome l f opPermute s (fun s h =>
    if s.wasSeen h.r f.tx then s.answer h.r f 0 []
    else
      let s := (s.writePieces h.ps h.data).noteOpen h.r f.tx h.data.length
      let s := { s with silk := { s.silk with perm := s.silk.perm ++ [(f.tx.job, f.tx.window, f.tx.offset.toNat, h.data.length)] } }
      ((s.noteSeen h.r f.tx).answer h.r f 0 []).moltAll)

/-! ### Responses at the source (R87, R252, R263) -/

/-- The set that a group identity belongs to completes where nothing is left to wait for (R222). -/
def State.settleGid (s : State) (g : GRef) (gid : Nat) : State :=
  let b := cellBlock g.cell
  match (s.block b).sets.find? (fun x => x.gids.contains gid) with
  | some x => s.completeSet b x.id
  | none => s

/-- SILK_NAK (R97, R263): the group that issued the request is frozen; one that has left its slot loses its context
all the same. -/
def State.groupNak (s : State) (g : GRef) (gid ctx : Nat) (pc : DWord) (code : BitVec 8) (a : DWord) : State :=
  let ext : BitVec 16 := code.setWidth 16
  match s.group g with
  | some v => if v.gid = gid then s.lateFault g pc 0x010D ext a else s.goneFault g gid ctx 0x010D ext a
  | none => s.goneFault g gid ctx 0x010D ext a

/-- CHRY_FAIL with a NAK code in EXT (R358): the Chrysalis in progress ends. -/
def State.chryNak (s : State) (code : BitVec 8) : State :=
  if !s.chip.chry.busy then s
  else
    let step := s.chip.chry.step
    s.failChry.raise {
      unit := .chip, sev := sevC, code := 0x090D, ext := code.setWidth 16, master := .monarch, addr := step.setWidth 64 }

/-- A request ends refused (R263). -/
def State.reqRefused (s : State) (q : Req) (code : BitVec 8) : State :=
  let a := frameAddr q.frame.tx
  match q.waiter with
  | .load g gid pc _ _ => (s.groupNak g gid q.ctx pc code a).settleGid g gid
  | .group g gid pc => (s.groupNak g gid q.ctx pc code a).settleGid g gid
  | .ce r c => if (s.ceChan r c).xfer.isSome then s.ceFail r c code else s
  | .fwd r c => (s.ceFail r c code).moltCheck r
  | .chry _ _ => s.chryNak code
  | .notify => s

/-- Lines of a response kept in the remote line cache (R264): those that it brings whole. -/
def State.fillLines (s : State) (r ctx a : Nat) (data : List Byte) : State :=
  let v := s.region r
  let ls := (List.range (data.length / 64 + 1)).filter (fun i => decide (a ≤ (a / 64 + i) * 64) && decide ((a / 64 + i + 1) * 64 ≤ a + data.length))
  s.setRegion r { v with lineCache := ls.foldl (fun m i =>
    let k := (a / 64 + i) * 64
    put m (remoteKey ctx k) ((data.drop (k - a)).take 64)) v.lineCache }

/-- The Chrysalis unit replaced. -/
def State.setChry (s : State) (c : Chry) : State := { s with chip := { s.chip with chry := c } }

/-- Frames of a Chrysalis shard (record 1,024: of the manifest) that have no response yet. -/
def State.chryOpen (s : State) (a k : Nat) : Bool :=
  s.silk.reqs.any (fun q => match q.2.waiter with | .chry b j => decide (b = a) && decide (j = k) | _ => false)

/-- Frames of the Chrysalis that have no response yet. -/
def State.chryAnyOpen (s : State) : Bool :=
  s.silk.reqs.any (fun q => match q.2.waiter with | .chry _ _ => true | _ => false)

/-- Bytes of the manifest of the Chrysalis in hand (Table 11-9). -/
def Chry.manLen (c : Chry) : Nat := 64 + 64 * c.shards.length

/-- A frame of the Chrysalis acknowledged (R358): a shard that has gone and been acknowledged whole releases its
pin; with the manifest acknowledged the Chrysalis is complete. -/
def State.chryAck (s : State) (a k : Nat) : State :=
  let c := s.chip.chry
  if !c.busy then s
  else
    let s := match c.shards.find? (fun x => decide (x.region = a) && decide (x.index = k) && x.hash.isSome) with
      | some x =>
        if s.chryOpen a k then s
        else
          let v := s.region a
          s.setRegion a { v with pins := delMem v.pins (2 * k + b2n x.buf) }
      | none => s
    if c.shards.all (fun x => x.hash.isSome) && decide (c.manLen ≤ c.manSent) && !s.chryAnyOpen then
      (s.setChry { c with busy := false, failed := false, slot := c.nextSlot, nextSlot := !c.nextSlot, last := c.step, shards := [] }).raise {
        unit := .chip, sev := sevC, code := 0x090C, master := .monarch, addr := c.step.setWidth 64 }
    else s

/-- A request ends with success. -/
def State.reqDone (s : State) (r : Nat) (q : Req) (f : Frame) (data : List Byte) : State :=
  match q.waiter with
  | .load g gid _ dst cache =>
    let s := s.modGroup g (fun v =>
      if v.gid = gid ∧ !v.exited then
        { v with vregs := writeRegs v.vregs (dst.map (fun d => (d.1, BitVec.ofNat 32 (leAt data d.2 4)))) }
      else v)
    let s := if cache ∧ f.tx.cacheok then s.fillLines r q.ctx (frameAddr q.frame.tx).toNat data else s
    s.settleGid g gid
  | .group g gid _ => s.settleGid g gid
  | .ce a c =>
    let s := if q.frame.tx.op = opGet then
        match (s.ceChan a c).xfer with
        | some x => s.cePut a c x.ctx (x.dst.toNat + (q.frame.tx.offset.toNat - x.roff.toNat)) data
        | none => s
      else s
    (s.ceCheck a c).moltCheck a
  | .fwd a _ => s.moltCheck a
  | .chry a k => s.chryAck a k
  | .notify => s

/-- The plain payload of a response; none where it is not authentic (R322). -/
def State.respOpen (s : State) (q : Req) (f : Frame) : Option (List Byte) × State :=
  let sealed := decide (q.ctx < 64) && (s.boundTo q.ctx).isSome
  if f.tx.enc then
    match s.slotOfJob f.tx.job with
    | some k => match s.unseal k f with
      | some (p, t) => (some p, t)
      | none => (none, s.countFail f.tx.job)
    | none => (none, s)
  else if sealed && (f.tx.status == 0 || !f.payload.isEmpty) then (none, s.countFail f.tx.job)
  else (some f.payload, s)

/-- A response to an outstanding request. -/
def State.takeResp (s : State) (f : Frame) : State :=
  let tag := f.tx.tag.toNat
  match find s.silk.reqs tag with
  | none => s
  | some q =>
    let d := s.respOpen q f
    match d.1 with
    | none => (d.2.freeTag tag).reqRefused q nakDecrypt
    | some p =>
      if f.tx.status = nakBusy then d.2
      else if f.tx.status = 0 then (d.2.freeTag tag).reqDone (tag / 8192) q f p
      else (d.2.freeTag tag).reqRefused q f.tx.status

/-- A frame of a P-lane opcode received, unless it is stray (kind 0x09 of Table 8-13). -/
def atSource (l : Nat) (f : Frame) (op : BitVec 6) (s : State) (stray : State → Bool) (work : State → State) : Out1 :=
  if !(linkOk l || l == selfLink) then .fault .noSuchUnit
  else if f.tx.op ≠ op ∨ !f.tx.rsp ∨ f.tx.dst ≠ s.node then .next s
  else match s.receive l f with
    | .error t => .next t
    | .ok t =>
      let t := t.returnCredit l f
      if stray t then .next (t.violateAt l 0x09) else .next (work t)

/-- The key slot that a revoked request's response is counted in (R327, R332). -/
def State.revokedSlot (s : State) (t : TxHdr) : Option Nat :=
  if (find s.silk.reqs t.tag.toNat).isSome then none
  else (s.silk.revoked.find? (fun x => decide (x.1 = t.tag.toNat))).map (·.2)

/-- A response to a revoked request dropped and counted. -/
def State.dropRevoked (s : State) (t : TxHdr) (k : Nat) : State :=
  let s := { s with silk := { s.silk with revoked := s.silk.revoked.filter (fun x => decide (x.1 ≠ t.tag.toNat)) } }
  s.setKeySlot k { s.keySlot k with fail := satInc (s.keySlot k).fail }

/-- RESP: a request of this device, and those that it stood for in a slice, complete. -/
def execResp (l : Nat) (f : Frame) (s : State) : Out1 :=
  atSource l f opResp s (fun t => (find t.silk.reqs f.tx.tag.toNat).isNone && (t.revokedSlot f.tx).isNone)
    (fun t => match t.revokedSlot f.tx with
      | some k => t.dropRevoked f.tx k
      | none => (t.fanOut (f.tx.tag.toNat / 8192) f).takeResp f)

/-- Whether an INVAL drops a line: the line comes from its sender, and lies in the 4 KiB region that it names, or stands
under another job or window, whose memory the sharer cannot tell from that region (R266, log entry 37). -/
def State.invalHits (s : State) (t : TxHdr) (key : Nat) : Bool :=
  let a := key % 2 ^ 58
  decide (a / 2 ^ 42 = t.src.toNat) &&
  (decide (s.job (key / 2 ^ 58) ≠ t.job) || decide (a / 2 ^ 34 % 256 ≠ t.window.toNat) ||
    decide (a % 2 ^ 34 / 64 = t.offset.toNat / 4096))

/-- INVAL: the region's lines leave the remote line caches, then INVAL_ACK goes back (R266). -/
def execInval (l : Nat) (f : Frame) (s : State) : Out1 :=
  atSource l f opInval s (fun _ => false) (fun t =>
    let t := t.regions.foldl (fun u r =>
      u.setRegion r.1 { u.region r.1 with lineCache := (u.region r.1).lineCache.filter (fun e => !t.invalHits f.tx e.1) }) t
    t.sendResp (linkSlice l) (mkFrame { f.tx with op := opInvalAck, dst := f.tx.src, src := t.node, ttl := t.ttl } []))

/-- Whether a pending INVAL is the one that an INVAL_ACK answers. -/
def ackOf (f : Frame) (p : BitVec 16 × TxHdr) : Bool :=
  decide (p.1 = f.tx.src) && decide (p.2.tag = f.tx.tag) && decide (p.2.job = f.tx.job) && decide (p.2.window = f.tx.window) &&
  decide (p.2.offset = f.tx.offset)

/-- A list without its first element that a test picks. -/
def removeFirst {α : Type} (p : α → Bool) : List α → List α
  | [] => []
  | x :: r => if p x then r else x :: removeFirst p r

/-- The 4 KiB region whose INVAL an INVAL_ACK answers. -/
def State.ackKey (s : State) (f : Frame) : Option Nat :=
  (s.regions.flatMap (fun r => r.2.sharers)).findSome? (fun e => if e.2.pending.any (ackOf f) then some e.1 else none)

/-- INVAL_ACK: with a region's last one, the responses held for it go out. -/
def execInvalAck (l : Nat) (f : Frame) (s : State) : Out1 :=
  atSource l f opInvalAck s (fun t => (t.ackKey f).isNone) (fun t =>
    match t.ackKey f with
    | none => t
    | some k =>
      let v := t.sharers k
      let p := removeFirst (ackOf f) v.pending
      if !p.isEmpty then t.setSharers k { v with pending := p }
      else
        let t := t.setSharers k { v with pending := [], held := [] }
        v.held.foldl (fun u a => if u.isHeld a then u else u.sendSealed (regionOfPa (k * 4096)) a) t)

/-- EPOCH_DONE: noted by every region that the epoch concerns (Table 8-11). -/
def execEpochDone (l : Nat) (f : Frame) (s : State) : Out1 :=
  if !(linkOk l || l == selfLink) then .fault .noSuchUnit
  else if f.tx.op ≠ opEpochDone ∨ f.tx.dst ≠ s.node then .next s
  else match s.receive l f with
    | .error t => .next t
    | .ok t =>
      let t := t.returnCredit l f
      let e := BitVec.ofNat 16 (leAt f.payload 0 2)
      .next ((List.range 8).foldl (fun u r =>
        let v := u.region r
        if (if v.molt = 2 then v.epoch = e + 1 else v.epoch = e) ∧ !v.moltDone.contains f.tx.src then
          (u.setRegion r { v with moltDone := v.moltDone ++ [f.tx.src] }).moltCheck r
        else u) t)

/-! ### Time-outs and violations -/

/-- E2E_TIMEOUT: a request is sent again with RETRY = 1, or completes with NAK TIMEOUT (R252). -/
def execE2eTimeout (tag : BitVec 16) (s : State) : Out1 :=
  match find s.silk.reqs tag.toNat with
  | none => .next s
  | some q =>
    let r := tag.toNat / 8192
    if s.csrF (oSilk 0x14) 8 2 ≤ q.resends then
      .next ((s.freeTag tag.toNat).reqRefused q nakTimeout)
    else
      let f := { q.frame with tx := { q.frame.tx with status := q.frame.tx.status ||| 0x40 } }
      let s : State := { s with silk := { s.silk with reqs := put s.silk.reqs tag.toNat { q with resends := q.resends + 1 } } }
      let s := s.raise { unit := .geu r, sev := sevC, code := 0x0604, addr := frameAddr f.tx }
      if q.ctx < 64 ∧ (s.boundTo q.ctx).isSome then
        match s.seal f with
        | some e => .next (e.2.sendOwn r e.1)
        | none => .next (s.enqueue selfLink selfLink (respFrame s f nakDecrypt []))
      else .next (s.sendOwn r f)

/-- COMPLETION_CACHE_EXPIRE: entry `k` of a region's cache expires (R253). -/
def execCompletionCacheExpire (r k : Nat) (s : State) : Out1 :=
  if 8 ≤ r ∨ 16384 ≤ k then .fault .noSuchUnit
  else
    let v := s.region r
    .next (s.setRegion r { v with done := v.done.eraseIdx k })

/-- An opcode of Table 8-5. -/
def knownOp (op : BitVec 6) : Bool :=
  [opLoad, opStore, opAtomic, opInv, opRtrig, opPut, opGet, opColl, opPermute, opResp, opInval, opInvalAck, opMgmt, opEpochDone].contains op

/-- A transaction header that fails check 1. -/
def txBad (f : Frame) : Bool :=
  let p := f.tx.op == opResp || f.tx.op == opInval || f.tx.op == opInvalAck
  !knownOp f.tx.op || (p != f.tx.rsp) || (decide (f.tx.op.toNat < 0x20) && reqBad f)

/-- A response or acknowledgement that nothing waits for. -/
def State.stray (s : State) (f : Frame) : Bool :=
  f.tx.rsp && (if f.tx.op = opInvalAck then (s.ackKey f).isNone else f.tx.op = opResp && (find s.silk.reqs f.tx.tag.toNat).isNone &&
    (s.revokedSlot f.tx).isNone)

/-- PROTOCOL_VIOLATION (Table 8-13). -/
def execProtocolViolation (l : Nat) (f : Frame) (v : Violation) (s : State) : Out1 :=
  if !linkOk l then .fault .noSuchUnit
  else if !(s.link l).up then .next s
  else
    let found : Out1 := match s.receive l f with
      | .error t => .next t
      | .ok _ => .next s
    match v with
    | .etherType => .next (s.violate l 0x01)
    | .linkHeader => found
    | .overCredit => found
    | .tooLong => found
    | .pfc => .next (s.violate l 0x05)
    | .ipv6Ext => if l < 24 then .next s else .next (s.violate l 0x06)
    | .badAck => found
    | .badHeader =>
      if f.tx.dst ≠ s.node ∨ !txBad f then .next s
      else match s.receive l f with
        | .error t => .next t
        | .ok t => .next (((t.returnCredit l f).answer (linkSlice l) f nakBadreq []).violate l 0x08)
    | .strayResponse =>
      if f.tx.dst ≠ s.node ∨ !s.stray f then .next s
      else match s.receive l f with
        | .error t => .next t
        | .ok t => .next ((t.returnCredit l f).violate l 0x09)

end Sys2Proof.Machine
end

