-- ==== Sys2Proof/Machine/Chry.lean ====
section
/-! DEFINITION. The Chrysalis (R357–R364): capture at a step boundary, shards and manifest, the input-and-seed log,
the snapshot interval, and RESTORE. -/

namespace Sys2Proof.Machine

/-! ### Interval (R364) -/

/-- Own events over the window W of the last 256 steps since ENABLE was set. -/
def Chry.window (c : Chry) : Nat := min 256 c.steps
def Chry.events (c : Chry) : Nat := (c.own.take c.window).foldl (· + ·) 0

/-- The greatest k up to `n` with 2^k at most t / steptime, squared so that the numbers stay whole: 4^k × a ≤ b. -/
def kBelow (a b : Nat) : Nat → Nat
  | 0 => 0
  | n + 1 => if 4 ^ (n + 1) * a ≤ b then n + 1 else kBelow a b n

/-- k from the host-supplied values: λ = num / (256 × den) failures per 10^12 s; 2^k ≤ t / steptime means
4^k × steptime² × devices × num ≤ 512 × 10^18 × cost × den. None where the rate is zero. -/
def chryK (rate blend cost steptime devices w events kmin kmax : Nat) : Option Nat :=
  let den := if w = 0 then 1 else w * steptime
  let num := (256 - blend) * rate * den + blend * (if w = 0 then rate else events * 10 ^ 18)
  let dev := if devices = 0 then 1 else devices
  if num = 0 then none
  else
    let k := kBelow (steptime * steptime * dev * num) (512 * 10 ^ 18 * cost * den) 16
    some (min (max k kmin) kmax)

/-- K set at a step boundary (R364); STEPTIME = 0 leaves it as it is. Where the rate of failures is zero the manual
gives no interval: an open value within KMIN and KMAX (log entry 5). -/
def State.setK (s : State) : State :=
  let c := s.chip.chry
  let f (lo len : Nat) : Nat := s.csrF oChryCfg lo len
  let w (o : Nat) : Nat := (s.csrAt o).toNat
  if w 0x8108 = 0 then s
  else match chryK (w 0x810C) (f 24 8) (w 0x8104) (w 0x8108) (s.csrF 0x8110 0 16) c.window c.events (f 12 4) (f 16 4) with
    | some k => s.setChry { c with k := k }
    | none =>
      let v := s.free
      v.2.setChry { c with k := min (max (v.1.toNat % 16) (f 12 4)) (f 16 4) }

/-! ### Capture (R357) -/

/-- The regions in service that hold a context's step program. -/
def State.progRegions (s : State) (n : Nat) : List Nat :=
  (List.range 8).filter (fun r => s.regionUp r && decide ((s.region r).skip.st ≠ 0) && decide ((s.region r).skip.ctx = n))

/-- The weight records of a region's program as shards from a slot offset on. -/
def shardsOf (r : Nat) (ins : SMap Instar) : Nat → Nat → List TensorRec → List Shard
  | _, _, [] => []
  | i, o, t :: rest =>
    if t.kind = 1 then
      let e := lookupD {} ins i
      { region := r, index := i, tensor := t.id, instar := e.current, buf := e.curBuf
        master := if e.curBuf then t.b else t.a, resid := if e.curBuf then t.d else t.c
        elems := t.elems, offset := o, sent := 0, hash := none } :: shardsOf r ins (i + 1) (o + (3 * t.elems + 63) / 64 * 64) rest
    else shardsOf r ins (i + 1) o rest

/-- Shards of several regions; their offsets count from the first. -/
def State.shardsAll (s : State) : List Nat → Nat → List Shard
  | [], _ => []
  | r :: rest, o =>
    let ts := match s.program r with | some p => p.tensors | none => []
    let l := shardsOf r (s.region r).instars 0 o ts
    let next := l.foldl (fun a x => max a (x.offset + (3 * x.elems + 63) / 64 * 64)) o
    l ++ s.shardsAll rest next

/-- A Chrysalis in progress given up for the next one: its pins are released, its frames no longer count (log entry
43). -/
def State.dropChry (s : State) : State :=
  if !s.chip.chry.busy then s
  else
    let t := s.failChry
    t.setChry { t.chip.chry with failed := s.chip.chry.failed }

/-- A Chrysalis begins: the state of the starting step captured, its buffers pinned. -/
def State.beginChry (s : State) (n : Nat) (step : Word) : State :=
  let s := s.dropChry
  let rs := s.progRegions n
  let l := s.shardsAll rs 0
  let base := 64 + 64 * l.length
  let l := l.map (fun x => { x with offset := x.offset + base })
  let c := s.chip.chry
  let s := s.setChry { c with
    busy := true, ctx := n, step := step, manSent := 0, shards := l, logPos := c.logStep
    seed := BitVec.ofNat 64 ((s.csrAt (oSeedLo n)).toNat + (s.csrAt (oSeedHi n)).toNat * two32)
    epochs := (List.range 8).map (fun r => (s.region r).epoch)
    regions := rs.foldl (fun a r => a + 2 ^ r) 0 }
  l.foldl (fun t x =>
    let v := t.region x.region
    t.setRegion x.region { v with pins := addMem v.pins (2 * x.index + b2n x.buf) }) s

/-- The bytes at a virtual address as they stand, with no event and no effect: none where the access fails. -/
def State.peek (s : State) (n va len : Nat) : Option (List Byte) :=
  match (s.range n va len .load).1 with
  | .ok ps => if ps.any (fun p => !(s.eccHits p.1 p.2).isEmpty) then none else some (s.pieces ps)
  | .error _ => none

/-- The hash of the lowest region's micro-batch table; open where the table cannot be read (log entry 111). -/
def State.tableHash (s : State) (n : Nat) (p : Program) : List Byte × State :=
  match s.peek n p.mbTable.toNat (8 * p.mbCount) with
  | some b => (leBytes 32 (Config.sha3 b).toNat, s)
  | none => (List.range 8).foldl (fun a _ => let v := a.2.free; (a.1 ++ leBytes 4 v.1.toNat, v.2)) ([], s)

/-- The input-and-seed log record of the step that starts, sent to its place (R360). -/
def State.writeLog (s : State) (n : Nat) (begins : Bool) : State :=
  let lead := (s.progRegions n).headD 0
  match s.program lead with
  | none => s
  | some p =>
    let step := s.csrAt (oStep n)
    let h := s.tableHash n p
    let s := h.2
    let b := leBytes 4 step.toNat ++ leBytes 2 p.mbCount ++ leBytes 2 (s.region lead).epoch.toNat ++
      leBytes 4 (s.csrAt (oSeedLo n)).toNat ++ leBytes 4 (s.csrAt (oSeedHi n)).toNat ++
      h.1 ++ leBytes 4 s.chip.chry.last.toNat ++ leBytes 1 (b2n begins) ++ leBytes 11 0
    let size := min (max (s.csrF oChryLogCfg 0 5) 4) 20
    let a := BitVec.ofNat 64 ((s.csrAt 0x8130).toNat + (s.csrAt 0x8134).toNat * two32 + 64 * (step.toNat % 2 ^ size))
    (s.setChry { s.chip.chry with logStep := step }).notify (s.job n) a b n

/-- Monarch's part of a step boundary of a context (R357, R360, R364): latched inputs apply, K is set, a Chrysalis
begins where the new step number calls for one, and the log record of the step that starts is written. -/
def State.chryBoundary (s : State) (n : Nat) : State :=
  if s.csrF oChryCfg 0 6 ≠ n then s
  else
    let was := s.csrF oChryCfg 8 1
    let s := [oChryCfg, 0x8104, 0x8108, 0x810C, 0x8110, oChryLogCfg].foldl (fun t o => t.applyB o) s
    let on := s.csrF oChryCfg 8 1
    let c := s.chip.chry
    let c := if on = 1 ∧ was = 0 then { c with own := [], steps := 0, ownCur := 0 }
      else { c with own := (c.ownCur :: c.own).take 256, steps := c.steps + 1, ownCur := 0 }
    let s := (s.setChry c).setK
    let step := s.csrAt (oStep n)
    let start := decide (on = 1) && decide (step.toNat % 2 ^ s.chip.chry.k = 0)
    let s := if start then s.beginChry n step else s
    if s.csrF oChryLogCfg 8 1 = 1 then s.writeLog n start else s

/-! ### Shards and manifest (R358, R359) -/

/-- A manifest entry. -/
def Shard.entry (x : Shard) : List Byte :=
  leBytes 4 x.tensor.toNat ++ leBytes 2 x.region ++ leBytes 2 x.instar.toNat ++ leBytes 8 x.offset ++
  leBytes 8 (3 * x.elems) ++ leBytes 32 ((x.hash.getD 0).toNat) ++ leBytes 8 0

/-- The manifest. -/
def manifestBytes (c : Chry) (cid : BitVec 16) : List Byte :=
  let len := c.shards.foldl (fun a x => max a (x.offset + (3 * x.elems + 63) / 64 * 64)) c.manLen
  leBytes 4 0x59524843 ++ leBytes 2 1 ++ leBytes 2 cid.toNat ++ leBytes 4 c.step.toNat ++ leBytes 4 c.shards.length ++
  leBytes 8 c.seed.toNat ++ c.epochs.flatMap (fun e => leBytes 2 e.toNat) ++ leBytes 4 c.logPos.toNat ++
  leBytes 1 c.regions ++ leBytes 3 0 ++ leBytes 8 len ++ leBytes 8 0 ++ c.shards.flatMap Shard.entry

/-- A frame of the Chrysalis to its slot. -/
def State.sendChry (s : State) (r k o : Nat) (data : List Byte) : State :=
  let c := s.chip.chry
  let d := 0x8120 + 8 * b2n c.nextSlot
  let a := BitVec.ofNat 64 ((s.csrAt d).toNat + (s.csrAt (d + 4)).toNat * two32 + o)
  s.sendReq r c.ctx (.chry r k) (reqHdr opPut (addrNode a) s.node 0 (s.job c.ctx) (addrWindow a) (addrOffset a) data.length s.ttl) data

/-- A read of a shard by the copy engine: a line with an uncorrectable error starts a refetch (R348), and the
shard waits; a failed translation ends the Chrysalis. -/
def State.shardRead (s : State) (n va len : Nat) : Except State (List Byte × State) :=
  let g := s.range n va len .load
  match g.1 with
  | .error (.perm, _) => .error (g.2.chryNak nakPerm)
  | .error (.ecc pa, _) => .error ((g.2.tableFault pa .monarch (some n)).chryNak 0)
  | .error _ => .error (g.2.chryNak nakXlate)
  | .ok ps =>
    if ps.any (fun p => !(g.2.eccHits p.1 p.2).isEmpty) then .error (g.2.pieceHits ps .monarch (some n) none)
    else .ok (g.2.pieces ps, g.2)

/-- Bytes `o` to `o + n − 1` of a shard: its master first, then its residue. -/
def State.shardBytes (s : State) (n : Nat) (x : Shard) (o len : Nat) : Except State (List Byte × State) :=
  let m := 2 * x.elems
  let a := min len (m - o)
  let b := len - a
  match (if a = 0 then .ok ([], s) else s.shardRead n (x.master.toNat + o) a) with
  | .error t => .error t
  | .ok (p, t) =>
    if b = 0 then .ok (p, t)
    else match t.shardRead n (x.resid.toNat + (o + a - m)) b with
      | .error u => .error u
      | .ok (q, u) => .ok (p ++ q, u)

/-- A shard of the Chrysalis in hand replaced. -/
def State.setShard (s : State) (x : Shard) : State :=
  let c := s.chip.chry
  s.setChry { c with shards := c.shards.map (fun y => if y.region = x.region ∧ y.index = x.index then x else y) }

/-- The next frame of a shard, or with all sent its hash. -/
def State.shardStep (s : State) (x : Shard) : State :=
  let c := s.chip.chry
  let len := min 4096 (3 * x.elems - x.sent)
  match s.shardBytes c.ctx x x.sent len with
  | .error t => t
  | .ok (b, t) =>
    let y := { x with sent := x.sent + len }
    if y.sent < 3 * x.elems then (t.setShard y).sendChry x.region x.index (x.offset + x.sent) b
    else match t.shardBytes c.ctx x 0 (3 * x.elems) with
      | .error u => u
      | .ok (all, u) =>
        let u := u.setShard { y with hash := some (Config.sha3 all) }
        if len = 0 then u.chryAck x.region x.index else u.sendChry x.region x.index (x.offset + x.sent) b

/-- The next frame of the manifest. -/
def State.manifestStep (s : State) (r : Nat) : State :=
  let c := s.chip.chry
  let b := (manifestBytes c (s.cid c.ctx)).drop c.manSent |>.take 4096
  (s.setChry { c with manSent := c.manSent + b.length }).sendChry r 1024 c.manSent b

/-- CHRYSALIS_SHARD_SEND: the copy engine of region `r` sends the next frame of record `k`'s shard; once every
shard has gone and been acknowledged, the next frame of the manifest. -/
def execChrysalisShardSend (r k : Nat) (s : State) : Out1 :=
  if 8 ≤ r ∨ 1024 ≤ k then .fault .noSuchUnit
  else
    let c := s.chip.chry
    if !c.busy || !s.tagsFree r 1 then .next s
    else if c.shards.all (fun x => x.hash.isSome) then
      (if c.manSent < c.manLen ∧ (c.manSent ≠ 0 ∨ !s.chryAnyOpen) then .next (s.manifestStep r) else .next s)
    else match c.shards.find? (fun x => decide (x.region = r) && decide (x.index = k) && x.hash.isNone) with
      | some x => if (s.region r).refetch.any (fun f => decide (f.tensor = k)) then .next s else .next (s.shardStep x)
      | none => .next s

/-! ### RESTORE (R361) -/

/-- RESTORE's result. -/
def State.restoreEnd (s : State) (res idx : Nat) : State :=
  s.setChry { s.chip.chry with cmdBusy := false, result := BitVec.ofNat 8 res, index := BitVec.ofNat 16 idx }

/-- A manifest in memory: header fields and entries (tensor id, region, instar, length, hash). -/
structure Manifest where
  magic   : Bool
  step    : Nat
  seed    : Nat
  epochs  : List Nat
  entries : List (Nat × Nat × Nat × Nat × List Byte)
  deriving DecidableEq, Repr

/-- Manifest entries from their bytes. -/
def manEntries : Nat → List Byte → List (Nat × Nat × Nat × Nat × List Byte)
  | 0, _ => []
  | n + 1, b => (leAt b 0 4, leAt b 4 1, leAt b 6 2, leAt b 16 8, slice b 24 32) :: manEntries n (b.drop 64)

/-- The manifest at a physical address; none where it does not lie in memory. -/
def State.manifestAt (s : State) (pa : Nat) : Option Manifest :=
  if !s.inDram pa 64 then none
  else
    let h := s.bytes pa 64
    let n := leAt h 12 4
    if !s.inDram pa (64 + 64 * n) then none
    else some {
      magic := leAt h 0 4 == 0x59524843 && leAt h 4 2 == 1, step := leAt h 8 4, seed := leAt h 16 8
      epochs := (List.range 8).map (fun r => leAt h (24 + 2 * r) 2), entries := manEntries n (s.bytes (pa + 64) (64 * n)) }

/-- The entries of one tensor id agree on the instar. -/
def Manifest.agrees (m : Manifest) : Bool :=
  m.entries.all (fun a => m.entries.all (fun b => a.1 != b.1 || a.2.2.1 == b.2.2.1))

/-- A check entry: the loaded shard's hash is the manifest entry's. -/
def State.checkShard (s : State) (m : Manifest) (b : List Byte) : Bool :=
  match m.entries[leAt b 0 4]? with
  | none => false
  | some e => s.inDram (leAt b 8 8) e.2.2.2.1 &&
    leBytes 32 (Config.sha3 (s.bytes (leAt b 8 8) e.2.2.2.1)).toNat == e.2.2.2.2

/-- The first failing check from number `i` on. -/
def State.firstMismatch (s : State) (m : Manifest) : Nat → Nat → List Byte → Option Nat
  | _, 0, _ => none
  | i, n + 1, b => if s.checkShard m (b.take 16) then s.firstMismatch m (i + 1) n (b.drop 16) else some i

/-- SET_STATE: instars, step, seed and epochs from the manifest. -/
def State.restoreState (s : State) (n : Nat) (m : Manifest) : State :=
  let s := (s.progRegions n).foldl (fun t r =>
    let ts := match t.program r with | some p => p.tensors | none => []
    let ins := (ts.mapIdx (fun i x => (i, x))).foldl (fun z y =>
      match m.entries.find? (fun e => decide (e.1 = y.2.id.toNat)) with
      | some e =>
        if y.2.kind = 1 then
          insertD {} z y.1 { lookupD {} z y.1 with current := BitVec.ofNat 16 e.2.2.1, curBuf := false, prevValid := false }
        else z
      | none => z) (t.region r).instars
    t.setRegion r { t.region r with instars := ins, epoch := BitVec.ofNat 16 (m.epochs.getD r 0) }) s
  ((s.setCsr (oStep n) (BitVec.ofNat 32 m.step)).setCsr (oSeedLo n) (BitVec.ofNat 32 m.seed)).setCsr (oSeedHi n)
    (BitVec.ofNat 32 (m.seed / two32))

/-- RESTORE of a descriptor. A manifest without the mark and version of Table 11-9 counts as HEADER (log entry 44). -/
def State.restore (s : State) (b : List Byte) : State :=
  let n := leAt b 1 1
  let checks := leAt b 4 4
  let fine := leAt b 0 1 == 1 && decide (n < 64) && decide (leAt b 2 1 < 2) && leAt b 3 1 == 0 && allZero ((b.drop 24).take 40) &&
    s.inDram (leAt b 16 8) (16 * checks)
  match s.manifestAt (leAt b 8 8) with
  | none => s.restoreEnd 1 0
  | some m =>
    if !fine then s.restoreEnd 1 0
    else if (s.ctx n).st ≠ 1 ∨ s.chip.chry.busy ∨ (s.progRegions n).isEmpty ∨
        m.entries.any (fun e => !(s.progRegions n).contains e.2.1) then s.restoreEnd 2 0
    else if !m.magic || !m.agrees then s.restoreEnd 3 0
    else match s.firstMismatch m 0 checks (s.bytes (leAt b 16 8) (16 * checks)) with
      | some i => s.restoreEnd 4 i
      | none => (if leAt b 2 1 = 1 then s.restoreState n m else s).restoreEnd 0 0

/-- A write of CHIP_CHRY_CMD: GO runs the descriptor; ignored while CMD_BUSY = 1. -/
def State.chryCommand (s : State) (v : Word) : State :=
  if !bit v 0 || s.chip.chry.cmdBusy then s
  else
    let a := s.csrF 0x8154 6 26 * 64 + s.csrF 0x8158 0 16 * two32
    if s.inDram a 64 then s.restore (s.bytes a 64) else s.restoreEnd 1 0

end Sys2Proof.Machine
end

