-- ==== Sys2Proof/Machine/Context.lean ====
section
/-! DEFINITION. Contexts (R285, R286, R302, R305–R308, R328): activation, teardown, time-slicing and the save
image. Every action is a write of HOST_CTX_CMD (Table 9-18). -/

namespace Sys2Proof.Machine

/-! ### Releases (Table 9-11 FREE, Table 9-12 SUSPEND) -/

/-- A cell without a context's groups and their slots' tags. -/
def Cell.without (k : Cell) (n : Nat) : Cell :=
  let gone := k.groups.filter (fun g => decide (g.2.ctx = n))
  let slots := (gone.foldl (fun a g => a ||| g.2.slots) (0 : BitVec 8)).toNat
  { k with groups := k.groups.filter (fun g => !decide (g.2.ctx = n))
           tags := dropTags slots k.tags, itags := dropTags slots k.itags }

/-- A channel without a context's WCASTs, released where the context's freeze held it. -/
def Channel.without (k : Channel) (n : Nat) : Channel :=
  { q := k.q.filter (fun w => !decide (w.ctx = n))
    frozen := k.frozen && !decide (k.ctx = n)
    ctx := if k.frozen && !decide (k.ctx = n) then k.ctx else 0 }

/-- A block without a context's sets, counters, channels and window. -/
def Block.without (k : Block) (n : Nat) : Block :=
  let gone := (k.sets.filter (fun x => decide (x.ctx = n))).map (·.id)
  let frozen := k.dmaFrozen && (k.fenced || !decide (k.dmaCtx = n))
  { k with
    sets := k.sets.filter (fun x => !decide (x.ctx = n))
    launchQ := (k.keepSets (fun x => !decide (x.ctx = n))).launchQ
    arriving := (k.keepSets (fun x => !decide (x.ctx = n))).arriving
    bars := k.bars.filter (fun b => !(gone.contains b.2.setId))
    chans := k.chans.foldl (fun m c => insertD {} m c.1 (c.2.without n)) []
    dmaFrozen := frozen
    dmaCtx := if frozen then k.dmaCtx else 0
    win := if k.win.opened && decide (k.win.ctx = n) then { k.win with opened := false } else k.win }

/-- A collective channel of a context. -/
def CeChan.isOf (k : CeChan) (n : Nat) : Bool := match k.xfer with | some x => decide (x.ctx = n) | none => false

/-- A region without a context's collective channels, remote lines, Antenna entries and step program. -/
def Region.without (v : Region) (n : Nat) : Region :=
  let mine := v.skip.st ≠ 0 ∧ v.skip.ctx = n
  { v with
    ce := v.ce.filter (fun c => !c.2.isOf n)
    lineCache := v.lineCache.filter (fun l => !decide (l.1 / 2 ^ 58 = n))
    ant := { v.ant with entries := v.ant.entries.filter (fun e => !decide (e.2.ctx = n)) }
    skip := if mine then {} else v.skip
    instars := if mine then [] else v.instars
    refetch := if mine then [] else v.refetch
    ladder := if mine then {} else v.ladder }

/-- Collective channels without a transfer that a context's freeze held, released. -/
def freeChans (bound : Nat → Bool) (m : SMap CeChan) : SMap CeChan :=
  m.foldl (fun z c => insertD {} z c.1 (if bound c.1 && c.2.xfer.isNone then { c.2 with frozen := false } else c.2)) []

/-- The resources of a context released, but for its slot, queues, fences, windows and memory. -/
def State.releaseCtx (s : State) (n : Nat) : State :=
  let s := s.cells.foldl (fun t c => t.setCell c.1 ((t.cell c.1).without n)) s
  let s := s.blocks.foldl (fun t b => t.setBlock b.1 ((t.block b.1).without n)) s
  s.regions.foldl (fun t r =>
    let v := (t.region r.1).without n
    t.setRegion r.1 { v with ce := freeChans (fun c => decide (s.ceCtx r.1 c = some n)) v.ce }) s

/-! ### Rejection and phases -/

/-- An action rejected: REJECTED and CFG_REJECT, naming ACTION (R305, R373). -/
def State.rejectCtx (s : State) : State :=
  ({ s with host := { s.host with ctxRej := true } }).reject (oHost 0x1800) 8

/-- An action accepted. -/
def State.acceptCtx (s : State) : State := { s with host := { s.host with ctxRej := false } }

/-- A slot in one of the phases of a teardown. -/
def State.inPhase (s : State) (n p : Nat) : Bool := (s.ctx n).st == 2 && decide ((s.ctx n).phase.toNat = p)

/-- A phase entered. -/
def State.setPhase (s : State) (n : Nat) (p : BitVec 3) : State := s.setCtx n { s.ctx n with phase := p }

/-- A CID that no slot, not free, holds (R285). -/
def State.cidFree (s : State) (cid : BitVec 16) : Bool := (s.ctxOfCid cid).isNone

/-! ### Activation (R286) -/

/-- ACTIVATE. -/
def State.activateCtx (s : State) (n : Nat) : State :=
  if (s.ctx n).st ≠ 0 ∨ !s.cidFree (s.cid n) then s.rejectCtx
  else
    let s := s.acceptCtx.setCtx n { st := 1 }
    (s.queuesOf (s.cid n)).foldl (fun t q => t.unpark q) s

/-! ### Teardown (R305) -/

/-- The started commands of a context that no engine of its own works for end with CTX_LOST: those whose work has not
begun, the waits for a fence and those for a step boundary (R302, R305; log entry 92). -/
def State.endHeld (s : State) (n : Nat) : State :=
  s.host.queues.foldl (fun t q => q.2.running.foldl (fun t c =>
    if decide (c.ctx = n) && c.result.isNone && (!c.begun || leAt c.bytes 0 1 == 2 || leAt c.bytes 0 1 == 7) then
      (t.leaveFence q.1 c).cmdResult q.1 c.k stCtxLost 0
    else t) t) s

/-- The blocks on which a context has groups or WCASTs. -/
def State.ctxBlocks (s : State) (n : Nat) : List Nat :=
  let a := (s.cells.filter (fun c => c.2.groups.any (fun g => decide (g.2.ctx = n)))).map (fun c => cellBlock c.1)
  let b := (s.blocks.filter (fun b => b.2.chans.any (fun c => c.2.q.any (fun w => decide (w.ctx = n))))).map (·.1)
  (a ++ b).foldl addMem []

/-- A channel that works for a context is frozen; the context's entries on any other channel are discarded as
R134 states. -/
def State.freezeCtxChan (s : State) (n b c : Nat) : State :=
  let k := lookupD {} (s.block b).chans c
  let mine := match k.q with | w :: _ => decide (w.ctx = n) | [] => false
  if mine then s.freezeChannel b c else (blockSlots b).foldl (fun t g => t.dropChanEntries g n c) s

/-- Whether a collective channel works for a context: its transfer, or where it has none the context it is bound to. -/
def State.ceWorksFor (s : State) (r c n : Nat) : Bool :=
  let k := lookupD {} (s.region r).ce c
  match k.xfer with
  | some x => decide (x.ctx = n)
  | none => decide (s.ceCtx r c = some n)

/-- Every freezable master of a context frozen (R345). -/
def State.freezeMasters (s : State) (n : Nat) : State :=
  let s := s.cells.foldl (fun t c => c.2.groups.foldl (fun t g =>
    if (t.group { cell := c.1, slot := g.1 }).any (fun v => decide (v.ctx = n)) then t.stopGroup { cell := c.1, slot := g.1 } 0
    else t) t) s
  let s := (s.ctxBlocks n).foldl (fun t b => [0, 1, 2, 3].foldl (fun t c => t.freezeCtxChan n b c) t) s
  s.regions.foldl (fun t r =>
    let v := t.region r.1
    let t := if v.skip.st ≠ 0 ∧ v.skip.ctx = n then [0, 1, 2, 3].foldl (fun t q => t.freezeStream r.1 q) t else t
    (List.range 16).foldl (fun t c => if t.ceWorksFor r.1 c n then t.freezeCe r.1 c 0 else t) t) s

/-- The effect of FREEZE on a context (Table 9-11). -/
def State.freezeContext (s : State) (n : Nat) : State :=
  let img := (s.ctx n).image
  let s := s.loseContext n 6
  let s := s.setCtx n { s.ctx n with noSignal := true, phase := 1 }
  let s := (s.queuesOf (s.cid n)).foldl (fun t q => t.setQueue q { t.queue q with frozen := true }) s
  let s := (s.freezeMasters n).endHeld n
  { s with host := { s.host with images := s.host.images.map (fun i => if some i.id = img then { i with valid := false } else i) } }

/-- FREEZE: in any state but free. -/
def State.freezeCtx (s : State) (n : Nat) : State :=
  if (s.ctx n).st = 0 then s.rejectCtx else s.acceptCtx.freezeContext n

/-- The WCASTs of a context that wait behind a channel's head are removed. -/
def dropQueued (n : Nat) : List Wcast → List Wcast
  | [] => []
  | w :: r => w :: r.filter (fun x => !decide (x.ctx = n))

/-- DISCARD: in phase frozen. -/
def State.discardCtx (s : State) (n : Nat) : State :=
  if !s.inPhase n 1 then s.rejectCtx
  else
    let s := (s.acceptCtx.endQueues n stDiscarded).removeWaiting n stCtxLost
    let s := s.blocks.foldl (fun t b =>
      let k := t.block b.1
      t.setBlock b.1 { k with chans := k.chans.foldl (fun m c => insertD {} m c.1 { c.2 with q := dropQueued n c.2.q }) [] }) s
    s.setPhase n 2

/-- The job windows of a context. -/
def State.winsOf (s : State) (n : Nat) : List Nat := (List.range 256).filter (fun w => decide (s.csrF (oJwin w 0) 2 6 = n))

/-- VALID of a context's job windows cleared. -/
def State.clearWins (s : State) (n : Nat) : State :=
  (s.winsOf n).foldl (fun t w => t.setCsr (oJwin w 0) (setFld (t.csrAt (oJwin w 0)) 0 1 0)) s

/-- DRAIN: in phase discarded; it ends with DRAIN_COMPLETE. -/
def State.drainCtx (s : State) (n : Nat) : State :=
  if !s.inPhase n 2 then s.rejectCtx
  else
    let s := s.acceptCtx.clearWins n
    { s with host := { s.host with ctxBusy := some (n, 4) } }

/-- Work of a context in the engines: instructions, those of groups that have left included, array entries, folds,
transfers and requests. -/
def State.ctxWork (s : State) (n : Nat) : Bool :=
  s.cells.any (fun c => c.2.groups.any (fun g => decide (g.2.ctx = n) && (!g.2.mxq.isEmpty || !g.2.pend.isEmpty)) ||
    c.2.gone.any (fun g => decide (g.2.ctx = n))) ||
  s.regions.any (fun r => r.2.accPort.any (fun f => decide (f.ctx = n))) ||
  s.silk.reqs.any (fun r => decide (r.2.ctx = n)) ||
  s.host.queues.any (fun q => q.2.running.any (fun c => decide (c.ctx = n) && c.begun && c.result.isNone &&
    (leAt c.bytes 0 1 == 3 || leAt c.bytes 0 1 == 4)))

/-- The started commands of a context, in every queue. -/
def State.started (s : State) (n : Nat) : List Cmd :=
  s.host.queues.flatMap (fun q => q.2.running.filter (fun c => decide (c.ctx = n)))

/-- DRAIN_COMPLETE: the work of the context that drains has ended, and its started commands have completed. -/
def execDrainComplete (n : Nat) (s : State) : Out1 :=
  if 64 ≤ n then .fault .noSuchUnit
  else if s.host.ctxBusy = some (n, 4) ∧ !s.ctxWork n ∧ (s.started n).isEmpty ∧ (s.winsOf n).all (fun w => !s.jwinInUse w) then
    .next ({ s with host := { s.host with ctxBusy := none } }.setPhase n 3)
  else .next s

/-- ABANDON: in phase drained. -/
def State.abandonCtx (s : State) (n : Nat) : State :=
  if !s.inPhase n 3 then s.rejectCtx
  else (s.acceptCtx.moveFences (s.cid n) [1, 2] 3).setPhase n 4

/-- The binding of a context ends (R315). -/
def State.unbind (s : State) (n : Nat) : State :=
  { s with sec := { s.sec with bound := insertD none s.sec.bound n none, lower := s.sec.lower.filter (fun l => !decide (l.1 = n)) } }

/-- FREE: in phase invalidated; not before the removal of the context's cocoon has ended (R327). -/
def State.freeCtx (s : State) (n : Nat) : State :=
  let held := match s.boundTo n with | some c => (s.cocoon c).st == 2 | none => false
  if !s.inPhase n 5 || held then s.rejectCtx
  else
    let cid := s.cid n
    let s := s.acceptCtx.releaseCtx n
    let s := (s.queuesOf cid).foldl (fun t q => t.disableQueue q) s
    (s.unbind n).setCtx n {}

/-- What an evicted context's queue still holds of started commands ends with CTX_LOST, through the slot that PURGE
names (R302, R306; log entry 93). -/
def State.endStarted (s : State) (q n : Nat) : State :=
  (s.queue q).running.foldl (fun t c =>
    let r := match c.result with | some x => if x.1 = stFault ∨ x.1 = stStepStopped then x else (stCtxLost, 0) | none => (stCtxLost, 0)
    (t.leaveFence q c).writeStatus q c.k n r.1 r.2 (leAt c.bytes 2 2)) s

/-- PURGE: slot free, its CID held by no other (R306). TAIL is read afresh first, so that every unstarted command ends. -/
def State.purgeCtx (s : State) (n : Nat) : State :=
  let cid := s.cid n
  if (s.ctx n).st ≠ 0 ∨ !s.cidFree cid then s.rejectCtx
  else
    let qs := s.queuesOf cid
    let s := (qs.foldl (fun t q => t.takeTail q n) s.acceptCtx).endQueues n stDiscarded
    let s := qs.foldl (fun t q => (t.endStarted q n).disableQueue q) s
    let s := s.moveFences cid [1, 2] 3
    { s with host := { s.host with images := s.host.images.map (fun i => if i.cid = cid then { i with valid := false } else i) } }

/-! ### The save image (R307, R308) -/

/-- The cells' part of an image: what the slots that a context's groups own hold (R135). -/
def Cell.saved (k : Cell) (n c : Nat) : Option SavedCell :=
  let own := maskBits 8 ((k.groups.filter (fun g => decide (g.2.ctx = n))).foldl (fun a g => a ||| g.2.slots) (0 : BitVec 8)).toNat
  if own.isEmpty then none
  else some {
    cell := c
    accs := k.accs.filter (fun e => own.contains (e.1 / 16 / 8 * 4 + e.1 % 16 / 4))
    tags := k.tags.filter (fun t => own.contains t.1)
    itags := k.itags.filter (fun t => own.contains t.1)
    rowBuf := k.rowBuf.filter (fun e => own.contains (e.1 / 2048 / 8 * 4 + e.1 % 2048 / 512))
    scaleBuf := k.scaleBuf.filter (fun e => own.contains (e.1 / 128 / 8 * 4 + e.1 % 128 / 32)) }

/-- A saved accumulator word (Table 4-14). -/
def accWord (own int : Bool) (a : Acc) : Nat :=
  if own then a.value.toNat + b2n a.sat * 2 ^ 32 + b2n a.inv * 2 ^ 33 + b2n a.ovf * 2 ^ 34 + b2n int * 2 ^ 40
  else 0xF * 2 ^ 40

/-- A saved slot tag (Table 4-15). -/
def tagBytes (own : Bool) (t : Tag) : List Byte :=
  if own then
    leBytes 4 t.t.toNat ++ leBytes 4 t.ro.toNat ++ leBytes 4 t.co.toNat ++ leBytes 4 t.ld.toNat ++ leBytes 4 t.kpos.toNat ++
    leBytes 1 (b2n t.owned + b2n t.base * 2 + t.pk.toNat * 4 + b2n t.qk * 16 + b2n t.xr * 32 + b2n t.int * 64) ++
    leBytes 1 (t.rows - 1 + (t.cols - 1) * 16) ++ leBytes 1 t.baseSlot ++ leBytes 9 0
  else leBytes 32 0

/-- A cell image (Table 4-13). -/
def SavedCell.bytes (k : SavedCell) : List Byte :=
  let own (m : Nat) : Bool := k.tags.any (fun t => decide (t.1 = m))
  let int (m : Nat) : Bool := (lookupD {} k.tags (lookupD {} k.tags m).baseSlot).int
  (List.range 256).flatMap (fun e =>
    let m := e / 16 / 8 * 4 + e % 16 / 4
    leBytes 8 (accWord (own m) (int m) (lookupD {} k.accs e))) ++
  (List.range 8).flatMap (fun m => tagBytes (own m) (lookupD {} k.tags m)) ++
  rawBytes k.rowBuf 0 32768 ++ rawBytes k.scaleBuf 0 2048

/-- An Antenna entry as REG_ANT_ENTRY shows it (Table 5-11). -/
def AntEntry.bytes (e : AntEntry) : List Byte :=
  leBytes 4 e.id.toNat ++ leBytes 4 (e.ctx + b2n e.valid * 256) ++ leBytes 8 e.written.toNat ++ leBytes 4 e.zeros.toNat ++
  leBytes 4 e.sats.toNat ++ leBytes 4 e.nonfin.toNat ++ leBytes 4 e.collide.toNat

/-- Bytes whose layout the manual does not give: open values (log entry 5). -/
def State.openBytes (s : State) : Nat → List Byte × State
  | 0 => ([], s)
  | n + 1 =>
    let v := s.free
    let r := v.2.openBytes n
    (BitVec.ofNat 8 v.1.toNat :: r.1, r.2)

/-- A length rounded up to 64 bytes. -/
def up64 (n : Nat) : Nat := (n + 63) / 64 * 64

/-- A counter as BLK_BAR_STATE shows it (Table 2-14). -/
def Barrier.word (x : Barrier) : Nat := x.expected + x.done * 65536 + b2n x.phase * 2 ^ 30 + b2n x.inUse * 2 ^ 31

/-- A group's state as a number beside its program counter (DESIGN CHOICE, log entry 118). -/
def GState.number : GState → Nat
  | .running => 1
  | .atBarrier n => 2 + 16 * n
  | .exiting => 3
  | .frozen => 4

/-- A reconvergence stack entry: its four words; the pending-done bit stands in the low bit of the first, which an
address leaves zero (log entry 118). -/
def StackEntry.bytes (e : StackEntry) : List Byte :=
  leBytes 8 (e.rpc.toNat / 2 * 2 + b2n e.pendDone) ++ leBytes 8 e.pendPc.toNat ++ leBytes 8 e.pendMask.toNat ++ leBytes 8 e.saved.toNat

/-- A group's state in the order of Table 2-7: vector registers, thread by thread within each; scalars; predicates;
live and execution masks; program counter and state; stack; scratch. -/
def Group.bytes (g : Group) : List Byte :=
  (List.range (groupRegs g.regs)).flatMap (fun i => leBytes 4 (lookupD 0 g.vregs i).toNat) ++
  (List.range 64).flatMap (fun i => leBytes 4 (lookupD 0 g.sregs i).toNat) ++
  (List.range 8).flatMap (fun i => leBytes 8 (g.pred i).toNat) ++
  leBytes 8 g.live.toNat ++ leBytes 8 g.mask.toNat ++ leBytes 8 g.pc.toNat ++ leBytes 8 g.st.number ++
  padTo 1024 (g.stack.flatMap StackEntry.bytes) ++
  rawBytes g.scratch 0 (1024 * g.scratchUnits.length)

/-- A saved set's record after its first 64 bytes: BLK_BAR_STATE of its counters, and its groups (Table 9-13). -/
def SavedSet.bytes (x : SavedSet) : List Byte :=
  x.bars.flatMap (fun b => leBytes 4 b.2.word) ++ x.groups.flatMap (fun g => g.2.2.bytes)

/-- The group set section: a record's first 64 bytes hold the block and the declaration in an order that is not given
(log entry 118). -/
def State.setsBytes (s : State) : List SavedSet → List Byte × State
  | [] => ([], s)
  | x :: r =>
    let h := s.openBytes 64
    let t := h.2.setsBytes r
    (h.1 ++ x.bytes ++ t.1, t.2)

/-- A group set of a context saved: one that waits for admission is saved without groups (log entry 28). -/
def State.saveSet (s : State) (b : Nat) (x : GroupSet) : SavedSet :=
  { block := b, gset := x
    groups := (s.standing b x).map (fun g => (g.1.cell % 16, g.1.slot, g.2))
    bars := x.barIds.map (fun i => (i, lookupD {} (s.block b).bars i)) }

/-- The registers of a slot that EVICT adds to the image. -/
def slotOffsets (n : Nat) : List Nat :=
  [oSeedLo n, oSeedHi n, oStep n, oPtLo n, oPtHi n, oJob n, oHtLo n, oHtHi n]

/-- What the device saves of a context (Table 9-13), the bytes aside. -/
def State.captureImage (s : State) (n id addr : Nat) : Image :=
  { id := id, addr := addr, content := [], cid := s.cid n, cocoon := s.boundTo n, valid := true, evicted := false
    sets := s.blocks.flatMap (fun b => ((b.2.sets ++ b.2.launchQ ++ b.2.arriving).filter (fun x => decide (x.ctx = n))).map (fun x => s.saveSet b.1 x))
    cells := s.cells.filterMap (fun c => c.2.saved n c.1)
    skips := s.regions.filterMap (fun r =>
      if r.2.skip.st ≠ 0 ∧ r.2.skip.ctx = n then
        some { region := r.1, skip := r.2.skip, instars := r.2.instars, epoch := r.2.epoch, ladder := r.2.ladder }
      else none)
    chans := s.blocks.flatMap (fun b => b.2.chans.filterMap (fun c =>
      let q := c.2.q.filter (fun w => decide (w.ctx = n))
      if q.isEmpty then none else some (b.1, c.1, { q := q })))
    ces := s.regions.flatMap (fun r => (r.2.ce.filter (fun c => c.2.isOf n)).map (fun c => (r.1, c.1, c.2)))
    ants := s.regions.flatMap (fun r => (r.2.ant.entries.filter (fun e => e.2.valid && decide (e.2.ctx = n))).map (fun e => (r.1, e.1, e.2)))
    slotRegs := [], pendStep := none }

/-- The bytes of an image: header, sets, cell images and Antenna entries as Tables 9-13, 2-7, 4-13 and 5-11 give them;
the other sections' layouts are private or not given. -/
def State.imageBytes (s : State) (n : Nat) (i : Image) : List Byte × State :=
  let cells := i.cells.flatMap SavedCell.bytes
  let priv := 65536 * i.skips.length + 1024 * (i.chans.length + i.ces.length)
  let ants := padTo (up64 (32 * i.ants.length)) (i.ants.flatMap (fun e => e.2.2.bytes))
  let regs := s.openBytes 64
  let a := regs.2.setsBytes i.sets
  let sets := padTo (up64 a.1.length) a.1
  let b := a.2.openBytes priv
  let size := 128 + sets.length + cells.length + priv + ants.length
  let head := leBytes 2 1 ++ leBytes 2 i.cid.toNat ++ leBytes 4 n ++ leBytes 8 size ++ leBytes 4 i.sets.length ++
    leBytes 4 i.cells.length ++ leBytes 2 i.skips.length ++ leBytes 2 (i.chans.length + i.ces.length) ++
    leBytes 4 i.ants.length ++ leBytes 32 0
  (head ++ regs.1 ++ sets ++ cells ++ b.1 ++ ants, b.2)

/-- An image record replaced by id. -/
def State.setImage (s : State) (i : Image) : State :=
  { s with host := { s.host with images := s.host.images.map (fun x => if x.id = i.id then i else x) } }

/-- The image address in HOST_CTX_SAVE. -/
def State.saveAddr (s : State) : Nat := s.csrF (oHost 0x1804) 16 16 * 65536 + s.csrF (oHost 0x1808) 0 16 * two32

/-- A range lies wholly on a context's side of the cocoon boundary (R317, R318). -/
def State.ownSide (s : State) (n a len : Nat) : Bool :=
  match placesOf a len with
  | some l => l.all (fun p => s.sideOk n p.region)
  | none => false

/-- The rules on where an image lies (R308, R328): a bound context's in its cocoon, any other's outside every cocoon. -/
def State.saveOk (s : State) (n a len : Nat) : Bool := s.inDram a len && s.ownSide n a len

/-- The slot registers of an image, in the order of Table 9-13: each word in turn, a pending step and whether there is
one behind the step (log entry 118). -/
def slotBytes (l : List Word) (pend : Option Word) : List Byte :=
  let w (i : Nat) : List Byte := leBytes 4 (l.getD i 0).toNat
  padTo 64 (w 0 ++ w 1 ++ w 2 ++ leBytes 4 (pend.getD 0).toNat ++ leBytes 4 (b2n pend.isSome) ++
    (List.range 5).flatMap (fun i => w (3 + i)))

/-- SUSPEND: an active context is parked and stopped; it ends with SUSPEND_COMPLETE. -/
def State.suspendCtx (s : State) (n : Nat) : State :=
  let a := s.saveAddr
  if (s.ctx n).st ≠ 1 ∨ !s.saveOk n a 64 then s.rejectCtx
  else
    let f := s.acceptCtx.fresh
    let s := f.2
    let s := (s.queuesOf (s.cid n)).foldl (fun t q => t.setQueue q { t.queue q with parked := true }) s
    let i := { s.captureImage n f.1 a with valid := false, sets := [], cells := [], skips := [], chans := [], ces := [], ants := [] }
    let s := s.setCtx n { s.ctx n with image := some f.1 }
    { s with host := { s.host with ctxBusy := some (n, 7), images := i :: s.host.images } }

/-- A SUSPEND that cannot be carried out ends: an active context goes on (log entry 29). -/
def State.cancelSuspend (s : State) (n : Nat) : State :=
  let id := (s.ctx n).image
  let s := { s with host := { s.host with ctxBusy := none, images := s.host.images.filter (fun i => decide (some i.id ≠ id)) } }
  let s := s.setCtx n { s.ctx n with image := none }
  if (s.ctx n).st = 1 then (s.queuesOf (s.cid n)).foldl (fun t q => t.unpark q) s else s

/-- SUSPEND_COMPLETE: the save point is reached (R136, R307): the image is written, the resources released. -/
def execSuspendComplete (n : Nat) (s : State) : Out1 :=
  if 64 ≤ n then .fault .noSuchUnit
  else if s.host.ctxBusy ≠ some (n, 7) then .next s
  else if (s.ctx n).st ≠ 1 then .next (s.cancelSuspend n)
  else if s.ctxWork n || (s.started n).any (fun c => c.result.isSome) then .next s
  else match s.host.images.find? (fun i => decide (some i.id = (s.ctx n).image)) with
    | none => .next (s.cancelSuspend n)
    | some i0 =>
      let i := s.captureImage n i0.id i0.addr
      let b := s.imageBytes n i
      if !b.2.saveOk n i.addr b.1.length then .next (b.2.cancelSuspend n)
      else
        let s := (b.2.write i.addr b.1).setImage { i with content := b.1 }
        let s := i.skips.foldl (fun t k => t.setRegion k.region { t.region k.region with ladder := {} }) (s.releaseCtx n)
        let s := s.setCtx n { s.ctx n with st := 3 }
        .next { s with host := { s.host with ctxBusy := none } }

/-- EVICT: a suspended context without a valid job window leaves its slot. -/
def State.evictCtx (s : State) (n : Nat) : State :=
  if (s.ctx n).st ≠ 3 ∨ (s.winsOf n).any (fun w => decide (s.csrF (oJwin w 0) 0 1 = 1)) then s.rejectCtx
  else match s.host.images.find? (fun i => decide (some i.id = (s.ctx n).image)) with
    | none => s.rejectCtx
    | some i =>
      let regs := (slotOffsets n).map (fun o => s.csrAt o)
      let pend := find s.csrPend (oStep n)
      let b := slotBytes regs pend
      let s := (s.acceptCtx.write (i.addr + 64) b).setImage { i with
        evicted := true, slotRegs := regs, pendStep := pend, ht := lookupD 0 s.host.ht n
        content := i.content.take 64 ++ b ++ i.content.drop 128 }
      { s with csrPend := drop s.csrPend (oStep n) }.setCtx n {}

/-! ### Resumption (R307) -/

/-- The restorable image whose bytes stand at HOST_CTX_SAVE (log entry 30). -/
def State.imageHere (s : State) : Option Image :=
  let a := s.saveAddr
  s.host.images.find? (fun i => i.valid && s.inDram a i.content.length && s.bytes a i.content.length == i.content)

/-- The saved groups of a cell. -/
def Image.groupsAt (i : Image) (c : Nat) : List Group :=
  i.sets.flatMap (fun x => (x.groups.filter (fun g => decide (x.block * 16 + g.1 = c))).map (·.2.2))

/-- The cells of the saved groups. -/
def Image.cellsOf (i : Image) : List Nat :=
  (i.sets.flatMap (fun x => x.groups.map (fun g => x.block * 16 + g.1))).foldl addMem []

/-- A cell has room for the groups that an image puts on it. R307 names resources alone: ADMIT_HOLD and MAX_GROUPS, which
hold admissions, bind no RESUME (DESIGN CHOICE, log entry 124). -/
def State.cellTakes (s : State) (i : Image) (c : Nat) : Bool :=
  let k := s.cell c
  let gs := i.groupsAt c
  let slots := i.sets.flatMap (fun x => (x.groups.filter (fun g => decide (x.block * 16 + g.1 = c))).map (fun g => g.2.1))
  s.cellUp c && slots.all (fun z => (find k.groups z).isNone) &&
  decide (k.regsUsed + gs.foldl (fun a g => a + groupRegs g.regs) 0 ≤ 32768) &&
  decide (k.unitsUsed.length + (gs.flatMap (·.scratchUnits)).length ≤ 64) &&
  gs.all (fun g => k.slotsUsed &&& g.slots == 0)

/-- Every resource that an image needs is free. -/
def State.imageFits (s : State) (i : Image) : Bool :=
  i.cellsOf.all (fun c => s.cellTakes i c) &&
  (i.sets.map (·.block)).all (fun b => decide (((i.sets.filter (fun x => decide (x.block = b))).flatMap (·.bars)).length ≤ (s.freeBars b).length)) &&
  i.skips.all (fun k => s.regionUp k.region && (s.region k.region).skip.st == 0) &&
  i.chans.all (fun c => (lookupD {} (s.block c.1).chans c.2.1).q.isEmpty && !(lookupD {} (s.block c.1).chans c.2.1).frozen) &&
  i.ces.all (fun c => !(s.ceChan c.1 c.2.1).busy)

/-- The regions whose engines take up work of an image again (R317). -/
def Image.regions (i : Image) : List Nat :=
  i.sets.map (fun x => blockRegion x.block) ++ i.skips.map (·.region) ++ i.chans.map (fun c => blockRegion c.1) ++ i.ces.map (·.1)

/-- A RESUME of an image into slot `n` is accepted. -/
def State.resumeOk (s : State) (n : Nat) (i : Image) : Bool :=
  let slot := if (s.ctx n).st = 3 then decide ((s.ctx n).image = some i.id) else (s.ctx n).st == 0 && i.evicted && s.cidFree i.cid
  let coc := i.regions.all (fun r => s.cocoonOf r == i.cocoon) && (match i.cocoon with
    | none => true
    | some c => (s.cocoon c).st == 1)
  slot && coc && decide (s.boundTo n = i.cocoon) && !s.chip.errs.halted && s.imageFits i

/-- A saved group back in its slot, its scratch in the lowest free units. -/
def State.restoreGroup (s : State) (n b : Nat) (x : Nat × Nat × Group) : State :=
  let c := b * 16 + x.1
  let k := s.cell c
  let units := (freeOf k.unitsUsed 64).take x.2.2.scratchUnits.length
  s.setCell c { k with groups := put k.groups x.2.1 { x.2.2 with ctx := n, scratchUnits := units } }

/-- A saved set back on its block; one without groups waits for admission again. -/
def State.restoreSet (s : State) (n : Nat) (x : SavedSet) : State :=
  let src := match x.gset.source with | .handler _ e sg => .handler n e sg | z => z
  let g := { x.gset with ctx := n, source := src }
  let k := s.block x.block
  if g.placed.isEmpty then s.setBlock x.block (k.enqueue g)
  else
    let ids := (s.freeBars x.block).take x.bars.length
    let bars := (ids.zip x.bars).foldl (fun m z => insertD {} m z.1 z.2.2) k.bars
    let s := s.setBlock x.block { k with bars := bars, sets := k.sets ++ [{ g with barIds := ids }] }
    x.groups.foldl (fun t z => t.restoreGroup n x.block z) s

/-- Entries of a saved map put over a map. -/
def overlay {α : Type} [DecidableEq α] (d : α) (new old : SMap α) : SMap α := new.foldl (fun m e => insertD d m e.1 e.2) old

/-- A saved cell image back in its cell: the granted slots hold what they held. -/
def State.restoreCell (s : State) (x : SavedCell) : State :=
  let k := s.cell x.cell
  let own := x.tags.map (·.1)
  s.setCell x.cell { k with
    accs := overlay {} x.accs (zeroSlots own k.accs)
    tags := overlay {} x.tags k.tags
    itags := overlay {} x.itags k.itags
    rowBuf := overlay 0 x.rowBuf (zeroPart own 2048 k.rowBuf)
    scaleBuf := overlay 0 x.scaleBuf (zeroPart own 128 k.scaleBuf) }

/-- Launches of handler entries among saved sets. -/
def countHandlers (l : List SavedSet) : List (Nat × Nat) :=
  let es := l.filterMap (fun x => match x.gset.source with | .handler _ e _ => some e | _ => none)
  (es.foldl addMem []).map (fun e => (e, (es.filter (fun y => decide (y = e))).length))

/-- Everything that an image holds put back for slot `n`. -/
def State.restoreImage (s : State) (n : Nat) (i : Image) : State :=
  let s := i.sets.foldl (fun t x => t.restoreSet n x) s
  let s := i.cells.foldl (fun t x => t.restoreCell x) s
  let s := i.skips.foldl (fun t k => t.setRegion k.region { t.region k.region with
    skip := { k.skip with ctx := n }, instars := k.instars, epoch := k.epoch, ladder := k.ladder }) s
  let s := i.chans.foldl (fun t c => t.setChan c.1 c.2.1 { q := c.2.2.q.map (fun w => { w with ctx := n }) }) s
  let s := i.ces.foldl (fun t c => t.setCeChan c.1 c.2.1 { c.2.2 with xfer := c.2.2.xfer.map (fun x => { x with ctx := n }) }) s
  i.ants.foldl (fun t e =>
    let v := t.region e.1
    t.setRegion e.1 { v with ant := { v.ant with entries := insertD {} v.ant.entries e.2.1 { e.2.2 with ctx := n } } }) s

/-- RESUME: rejected where its slot, its resources or its image do not allow it; the image is used up. -/
def State.resumeCtx (s : State) (n : Nat) : State :=
  match s.imageHere with
  | none => s.rejectCtx
  | some i =>
    if !s.resumeOk n i then s.rejectCtx
    else
      let s := s.acceptCtx
      let s := if i.evicted then
          let s := ((slotOffsets n).zip i.slotRegs).foldl (fun t o => t.setCsr o.1 o.2) (s.setCsr (oCid n) (i.cid.setWidth 32))
          let s := { s with host := { s.host with ht := insertD 0 s.host.ht n i.ht } }
          match i.pendStep with
          | some v => { s with csrPend := put s.csrPend (oStep n) v }
          | none => s
        else s
      let s := s.restoreImage n i
      let s := s.setCtx n { st := 1, handlers := countHandlers i.sets }
      let s := { s with host := { s.host with images := s.host.images.filter (fun x => decide (x.id ≠ i.id)) } }
      let qs := s.queuesOf i.cid
      let s := qs.foldl (fun t q => t.setQueue q { t.queue q with running := (t.queue q).running.map (fun c => { c with ctx := n }) }) s
      qs.foldl (fun t q => t.unpark q) s

/-! ### HOST_CTX_CMD -/

/-- A write of HOST_CTX_CMD: while BUSY every action is rejected (R305, Table 9-18). -/
def State.ctxCommand (s : State) (v : Word) : State :=
  let n := fld v 0 6
  if s.host.ctxBusy.isSome then s.rejectCtx
  else match fld v 8 4 with
    | 1 => s.activateCtx n
    | 2 => s.freezeCtx n
    | 3 => s.discardCtx n
    | 4 => s.drainCtx n
    | 5 => s.abandonCtx n
    | 6 => s.freeCtx n
    | 7 => s.suspendCtx n
    | 8 => s.resumeCtx n
    | 9 => s.evictCtx n
    | 10 => s.purgeCtx n
    | _ => s.rejectCtx

end Sys2Proof.Machine
end

