-- ==== Sys2Proof/Machine/Fail.lean ====
section
/-! DEFINITION. Failures of parts (R114, R214, R216, R329, R340, R350–R352, R376, R395): cells, blocks, regions, the
shared area, rails; and an error unit's next event. -/

namespace Sys2Proof.Machine

/-! ### Cells and blocks -/

/-- ERROR_UNIT_FREE: the handling time of the event in hand ends; the chip keeps handling the event that halted
the device (R340). -/
def execErrorUnitFree (u : UnitRef) (s : State) : Out1 :=
  let ok := match u with
    | .ceu c => decide (c < nCells)
    | .beu b => decide (b < nBlocks)
    | .geu r => decide (r < 8)
    | .chip => true
  if !ok then .fault .noSuchUnit
  else if !(s.errUnit u).busy || (decide (u = .chip) && s.chip.errs.halted) then .next s
  else .next (s.unitFree u)

/-- CELL_FENCE: a fault in the cell's control logic, or its ECC limit (R350). -/
def execCellFence (c : Nat) (ext : BitVec 16) (s : State) : Out1 :=
  if nCells ≤ c then .fault .noSuchUnit
  else if !s.cellUp c then .next s
  else .next ((s.fenceCell c 0x0901).raise {
    unit := .ceu c, sev := sevF, code := 0x0901, ext := ext, addr := BitVec.ofNat 64 c })

/-- A block's channels and DMA engine frozen, those at rest too. -/
def State.stopBlock (s : State) (b : Nat) : State := ([0, 1, 2, 3].foldl (fun t c => t.stopChannel b c) s).stopDma b

/-- The engines of a block frozen: those at work for a context, which is lost, and then the others. -/
def State.fenceEngines (s : State) (b : Nat) : State :=
  (s.freezeEngines (fun x => decide (x = b)) (fun _ => false)).stopBlock b

/-- BLOCK_FENCE: the 16 cells are fenced, the channels and the DMA engine frozen (R351). -/
def execBlockFence (b : Nat) (s : State) : Out1 :=
  if nBlocks ≤ b then .fault .noSuchUnit
  else if !s.regionUp (blockRegion b) || (s.block b).fenced then .next s
  else
    let s := s.setBlock b { s.block b with fenced := true }
    let s := (List.range 16).foldl (fun t c => t.fenceCell (b * 16 + c) 0x0902) s
    .next ((s.fenceEngines b).raise { unit := .beu b, sev := sevF, code := 0x0902, addr := BitVec.ofNat 64 b })

/-! ### Cross-region routes (R214) -/

/-- Neighbours of a base die in the 2 × 4 mesh, ascending. -/
def meshNext (d : Nat) : List Nat :=
  (List.range 8).filter (fun e =>
    (decide (e / 4 = d / 4) && (decide (e = d + 1) || decide (e + 1 = d))) || (decide (e / 4 ≠ d / 4) && decide (e % 4 = d % 4)))

/-- A die forwards: its region is in service, or it is base die 0, whose routers the shared area keeps. -/
def State.dieUp (s : State) (d : Nat) : Bool := decide (d = 0) || s.regionUp d

/-- The dies at most `n` hops from a set through dies that forward. -/
def State.reach (s : State) : Nat → List Nat → List Nat
  | 0, l => l
  | n + 1, l => s.reach n ((l.flatMap (fun d => (meshNext d).filter s.dieUp)).foldl (fun a d => if a.contains d then a else a ++ [d]) l)

/-- The distance from `a` to `b`, if there is a path of up to seven hops. -/
def State.distance (s : State) (a b : Nat) : Option Nat := (List.range 8).find? (fun n => (s.reach n [a]).contains b)

/-- The next die from `a` to `b` on a shortest path, the lowest-numbered among equals. -/
def State.nextDie (s : State) (a b : Nat) : Nat :=
  if a = b then b
  else match s.distance a b with
    | some (n + 1) => ((meshNext a).find? (fun e => s.dieUp e && (s.reach n [e]).contains b)).getD b
    | _ => b

/-- The route entry from die `r` to die `d` (Table 7-18). Where REACH is 0, NEXT is not given: an open value (log
entry 5). -/
def State.routeEntry (s : State) (r d : Nat) : BitVec 4 × State :=
  if d ≠ r ∧ s.dieUp d ∧ (s.distance r d).isSome then (BitVec.ofNat 4 (8 + s.nextDie r d), s)
  else
    let v := s.free
    (BitVec.ofNat 4 (fld v.1 0 3), v.2)

/-- REG_XR_ROUTE of a region rewritten. -/
def State.rewriteRoute (s : State) (r : Nat) : State :=
  (List.range 8).foldl (fun t d =>
    let e := t.routeEntry r d
    let v := e.2.region r
    e.2.setRegion r { v with routes := insertD 0 v.routes d e.1 }) s

/-- REG_XR_ROUTE rewritten in every region in service. -/
def State.rewriteRoutes (s : State) : State :=
  (List.range 8).foldl (fun t r => if t.regionUp r then t.rewriteRoute r else t) s

/-- Regions in service that no longer reach base die 0 (R216). -/
def State.cutOff (s : State) : List Nat :=
  let l := s.reach 7 [0]
  (List.range 8).filter (fun r => s.regionUp r && !l.contains r)

/-! ### Regions (R30, R329, R352) -/

/-- A context has a page of a job window in a region. -/
def State.windowIn (s : State) (n r : Nat) : Bool :=
  (s.winsOf n).any (fun w =>
    decide (s.csrF (oJwin w 0) 0 1 = 1) &&
    (pageSpan (s.csrF (oJwin w 8) 0 32 + s.csrF (oJwin w 0xC) 0 16 * two32) ((if s.csrF (oJwin w 4) 8 24 = 0 then 2 ^ 24 else s.csrF (oJwin w 4) 8 24) * 0x10000)).any (fun p =>
      match s.walk n (p * 0x10000) with
      | .leaf e => (match placeOf e.pa with | some x => decide (x.region = r) | none => false)
      | _ => false))

/-- A context with a resident group, bound channel, loaded program or job window page in a region. -/
def State.ctxIn (s : State) (n r : Nat) : Bool :=
  s.cells.any (fun c => decide (cellRegion c.1 = r) && c.2.groups.any (fun g => decide (g.2.ctx = n))) ||
  s.blocks.any (fun b => decide (blockRegion b.1 = r) && b.2.chans.any (fun c => c.2.q.any (fun w => decide (w.ctx = n)))) ||
  (List.range 16).any (fun c => s.ceBound r c n) ||
  (decide ((s.region r).skip.st ≠ 0) && decide ((s.region r).skip.ctx = n)) || s.windowIn n r

/-- A group without what its cell's storage held for it. -/
def Group.scrubbed (v : Group) : Group := { v with vregs := [], sregs := [], preds := [], scratch := [] }

/-- Cocoon storage of regions written with zero (R312), of the parts that `reach` picks: 0 HBM3E, 1 the Layer Store, 2
block memories, 3 the cells' storage, 4 block caches, 5 remote line caches and hold areas. -/
def State.scrubParts (s : State) (rs : List Nat) (reach : Nat → Bool) : State :=
  let gone (pa : Nat) : Bool := match placeOf pa with
    | some (.hbm r) => reach 0 && rs.contains r
    | some (.ls r) => reach 1 && rs.contains r
    | some (.blk b) => reach 2 && rs.contains (blockRegion b)
    | none => false
  let s := { s with
    mem := s.mem.filter (fun e => !gone e.1), ecc := s.ecc.filter (fun u => !gone u)
    scratchEcc := s.scratchEcc.filter (fun w => !(reach 3 && rs.contains (cellRegion (w / 8192)))) }
  let s := s.cells.foldl (fun t c => if reach 3 && rs.contains (cellRegion c.1) then
    t.setCell c.1 { t.cell c.1 with
      groups := (t.cell c.1).groups.map (fun g => (g.1, g.2.scrubbed)), accs := [], rowBuf := [], scaleBuf := [], lineCache := [] }
    else t) s
  let s := s.blocks.foldl (fun t b => if reach 4 && rs.contains (blockRegion b.1) then t.setBlock b.1 { t.block b.1 with cache := [] } else t) s
  if reach 5 then rs.foldl (fun t r =>
    let v := t.region r
    t.setRegion r { v with lineCache := [], ce := v.ce.foldl (fun m k => insertD {} m k.1 { k.2 with held := [], holdUsed := 0 }) [] }) s
  else s

/-- Every word of the cocoon storage of regions written with zero (R327). -/
def State.scrub (s : State) (rs : List Nat) : State := s.scrubParts rs (fun _ => true)

/-- HBM3E sectors of a cocoon's regions put back into their stored form, under its key. -/
def State.sealSectors (s : State) (c : Nat) (rs : List Nat) : State :=
  (s.cocoon c).plain.foldl (fun t x => match placeOf (32 * x) with
    | some (.hbm r) => if rs.contains r then t.shutSector (32 * x) else t
    | _ => t) s

/-- A region of a cocoon leaves it (R329): its HBM3E stays ciphertext, and Monarch scrubs the storage that it can still
reach. Which parts those are is not for the model to say: bits 1 to 5 of an open value tell it (log entry 5). -/
def State.leaveCocoon (s : State) (r : Nat) : State :=
  match s.cocoonOf r with
  | none => s
  | some c =>
    let v := (s.sealSectors c [r]).free
    let reach (i : Nat) : Bool := decide (1 ≤ i) && bit v.1 i
    let left := !([1, 2, 3, 4, 5].all reach)
    let k := v.2.cocoon c
    let s := (v.2.setCocoon c { k with
      regions := setFld k.regions r 1 0, unscrubbed := if left then setFld k.unscrubbed r 1 1 else k.unscrubbed
      plain := k.plain.filter (fun x => match placeOf (32 * x) with | some p => decide (p.region ≠ r) | none => true) }).scrubParts [r] reach
    if left then s.raise { unit := .chip, sev := sevC, code := 0x0803, addr := BitVec.ofNat 64 (r + c * 256) } else s

/-- The masters of a region that are at rest frozen too (R352): channels, DMA engines, streams and collective
channels. -/
def State.stopIdle (s : State) (r : Nat) : State :=
  let s := (List.range 80).foldl (fun t i => t.stopBlock (80 * r + i)) s
  let v := s.region r
  s.setRegion r { v with
    skip := { v.skip with streams := [0, 1, 2, 3].foldl (fun l q => setFrozenAt q l) v.skip.streams }
    ce := (List.range 16).foldl (fun m c => insertD {} m c { lookupD {} m c with frozen := true }) v.ce }

/-- A region leaves service in one cycle: its state, masters, contexts, translations, latched values and ports (R352).
Frames and fan-out records held in its Silk slice stay there and go on at the next reroute (DESIGN CHOICE, log entry
130): the manual does not tell what becomes of them. -/
def State.dropRegion (s : State) (r : Nat) : State :=
  let lost := (List.range 64).filter (fun n => s.ctxIn n r)
  let c := s.chip
  let s := { s with
    chip := { c with
      inService := setFld c.inService r 1 0, retired := setFld c.retired r 1 1, released := setFld c.released r 1 0
      trained := setFld c.trained r 1 0
      tlb := c.tlb.filter (fun e => match placeOf e.pa with | some p => decide (p.region ≠ r) | none => true) }
    csrPend := s.csrPend.filter (fun x => match locate x.1 with | some (u, _) => decide (u.region ≠ some r) | none => true) }
  let s := s.freezeGroups (fun x => decide (cellRegion x = r)) 0x0903
  let s := s.freezeEngines (fun b => decide (blockRegion b = r)) (fun x => decide (x = r))
  let s := (lost.foldl (fun t n => t.loseContext n 2) s).stopIdle r
  [3 * r, 3 * r + 1, 3 * r + 2].foldl (fun t p => t.dropLink p) s

/-- A region that has been released and not retired since: in service, or on its way there in boot phases 5 to 7. -/
def State.released (s : State) (r : Nat) : Bool := decide (r < 8) && bit s.chip.released r

/-- A region retired: REGION_RETIRE, the cocoon's loss, and the routes (R352). -/
def State.retireOne (s : State) (r : Nat) (ext : BitVec 16) : State :=
  if !s.released r then s
  else
    let s := (s.dropRegion r).raise { unit := .chip, sev := sevF, code := 0x0903, ext := ext, addr := BitVec.ofNat 64 r }
    (s.leaveCocoon r).rewriteRoutes

/-- Every region in service that is cut off retired (R216). -/
def State.retireCut (s : State) : State := s.cutOff.foldl (fun t x => t.retireOne x 0x03) s

/-- A region retired, and then every region that is cut off by it. -/
def State.retireRegion (s : State) (r : Nat) (ext : BitVec 16) : State :=
  if !s.released r then s else (s.retireOne r ext).retireCut

/-- REGION_RETIRE: a fault in the region's base-die logic, a lost HBM3E stack, a cut or a rail. -/
def execRegionRetire (r : Nat) (ext : BitVec 16) (s : State) : Out1 :=
  if 8 ≤ r then .fault .noSuchUnit else .next (s.retireRegion r ext)

/-! ### The shared area (R21, R343, R365) -/

/-- SHARED_FAIL. -/
def execSharedFail (unit : BitVec 4) (s : State) : Out1 :=
  if s.boot.inReset then .next s
  else .next (s.raise { unit := .chip, sev := sevH, code := 0x0908, addr := unit.setWidth 64 })

/-- CHIP_CLK_STATE (Table 1-13). -/
def State.clkState (s : State) : Nat := s.mon.root + b2n s.mon.pending * 65536

/-- ROOT_UNLOCK. -/
def execRootUnlock (s : State) : Out1 :=
  if s.boot.inReset then .next s
  else .next (s.raise { unit := .chip, sev := sevH, code := 0x0909, addr := BitVec.ofNat 64 s.clkState })

end Sys2Proof.Machine
end

