-- ==== Sys2Proof/Machine/Memory.lean ====
section
/-! DEFINITION. The memory system beside the groups: the accumulate port (R183, R226–R229), the scrubber (R233),
TLB invalidation (R238), instruction cache invalidation (R240) and the ECC counts (R241). -/

namespace Sys2Proof.Machine

/-! ### The accumulate port -/

/-- Whether a set drains into a working accumulator: its Skipper task names it, it has drained into it, or a drain
that waits in an array queue of its groups goes there (R228; log entry 131). -/
def State.drainsInto (s : State) (b : Nat) (x : GroupSet) (a : Nat) : Bool :=
  x.drains.contains a ||
  (match x.source with
    | .skipper r q t m => decide (a / 65536 = r) && (match s.taskDesc (r, q, t, m) with
        | some d => decide (d.kind = 3) && decide (d.accum = a % 65536)
        | none => false)
    | _ => false) ||
  (s.standing b x).any (fun g => g.2.mxq.any (fun e => decide (e.opc = 0xC6) && xAcc e.x &&
    (match s.workingAt x.ctx (argPair e 0) with | some w => decide (w.1 = a) | none => false)))

/-- The set of the group that drained a fold. -/
def State.foldSet (s : State) (f : FoldGroup) : Option GroupSet :=
  (s.block (cellBlock f.g.cell)).sets.find? (fun x => x.gids.contains f.gid)

/-- A launch with a lower ticket that was submitted earlier and drains into the fold's accumulator has not completed
(R228). -/
def State.foldHeld (s : State) (f : FoldGroup) : Bool :=
  match f.accum, s.foldSet f with
  | some a, some own =>
    s.blocks.any (fun b => (b.2.sets ++ b.2.launchQ ++ b.2.arriving).any (fun x =>
      decide (x.ctx = f.ctx) && decide (x.ticket < f.ticket) && decide (x.id < own.id) && s.drainsInto b.1 x a))
  | _, _ => false

/-- The first fold group of a port that may go: not held, and none of its group for the same destination held before
it; a held drain holds no drains into other accumulators (R228). -/
def State.nextFold (s : State) : List FoldGroup → List (Nat × Option Nat) → Option FoldGroup
  | [], _ => none
  | f :: r, seen =>
    if seen.contains (f.gid, f.accum) then s.nextFold r seen
    else if s.foldHeld f then s.nextFold r ((f.gid, f.accum) :: seen)
    else some f

/-- The first occurrence of a group removed. -/
def removeFold (f : FoldGroup) : List FoldGroup → List FoldGroup
  | [] => []
  | x :: r => if x = f then r else x :: removeFold f r

/-- One element folded: the state, and the flags (R183). The fold was checked when it was sent (R314). -/
def State.foldElem (s : State) (f : FoldGroup) (i : Nat) (v : Word) : State × Nat :=
  if f.bf16 then
    let a := f.addr + 2 * i
    let r := match f.resid with | some p => (s.byteAs f.ctx (p + i)).toNat | none => 0
    let x := resFold (s.wordAs f.ctx a 2) r (decodeVal bf16 v.toNat)
    let s := s.storeAs f.ctx a (leBytes 2 x.1)
    (match f.resid with | some p => s.storeAs f.ctx (p + i) (leBytes 1 x.2.1) | none => s, x.2.2)
  else
    let a := f.addr + 4 * i
    let x := accAddF { value := BitVec.ofNat 32 (s.wordAs f.ctx a 4) } (f32 v) .near
    (s.storeAs f.ctx a (leBytes 4 x.value.toNat), fOr (if x.inv then fINV else 0) (if x.ovf then fOVF else 0))

/-- All elements of a group folded in order: the state, the flags, and how many elements raised one. -/
def State.foldAll (s : State) (f : FoldGroup) : Nat → List Word → State × Nat × Nat
  | _, [] => (s, 0, 0)
  | i, v :: r =>
    let x := s.foldElem f i v
    let y := x.1.foldAll f (i + 1) r
    (y.1, fOr x.2 y.2.1, b2n (decide (x.2 ≠ 0)) + y.2.2)

/-- Elements that raised INV or OVF counted by the Skipper, with FOLD_FLAG once for each task (R185). -/
def State.noteFold (s : State) (t : TaskId) (fl n : Nat) : State :=
  let v := s.region t.1
  let s := s.setRegion t.1 { v with skip := { v.skip with
    foldElems := v.skip.foldElems + n
    foldInv := v.skip.foldInv || decide (fl % 2 = 1)
    foldOvf := v.skip.foldOvf || decide (fl / 4 % 2 = 1) } }
  match s.runOf t with
  | none => s
  | some k =>
    if k.flagged then s
    else
      (s.modRun t (fun y => { y with flagged := true })).raise {
        unit := .geu t.1, sev := sevC, code := 0x0404, ctx := some v.skip.ctx
        addr := BitVec.ofNat 64 ((match s.taskDesc t with | some d => d.layer % 65536 | none => 0) + t.2.2.1 % 1024 * 65536) }

/-- The lines that a fold group reads: its value line and its residue line (R226). -/
def foldLines (f : FoldGroup) : List (Nat × Nat) :=
  (f.addr / 128 * 128, 128) :: (match f.resid with | some p => [(p / 64 * 64, 64)] | none => [])

/-- The fold of a group dropped for an uncorrectable error: an F against the launch that drained it (R229, R348). -/
def State.dropFold (s : State) (r : Nat) (f : FoldGroup) : State :=
  let line := f.addr / 128 * 128
  let u := s.eccUnitOf line true
  (u.2.faultLaunch (cellBlock f.g.cell) f.gid 0x0502).raiseReclass u.1 (.acc r) (some f.ctx) 0 (BitVec.ofNat 64 line)

/-- The 64-bit word of a fold group's lines that an upset names: of the value line (0–15) or of the residue line
(16–23). -/
def foldWord (f : FoldGroup) (i : Nat) : Option Nat :=
  if i < 16 then some (f.addr / 128 * 128 + 8 * i)
  else if i < 24 then f.resid.map (fun p => p / 64 * 64 + 8 * (i - 16)) else none

/-- ACC_FOLD_GROUP: the accumulate port of region `r` takes its next group (R227–R229). -/
def execAccFoldGroup (r : Nat) (u : Upset) (s : State) : Out1 :=
  if 8 ≤ r then .fault .noSuchUnit
  else match s.nextFold (s.region r).accPort [] with
    | none => .next s
    | some f =>
      let k := s.region r
      let s := s.setRegion r { k with accPort := removeFold f k.accPort }
      if !s.inMem f.addr 1 then
        .next (((s.faultLaunch (cellBlock f.g.cell) f.gid 0x0907).loseContext f.ctx 2).raise {
          unit := .geu r, sev := sevF, code := 0x0907, master := .acc r, ctx := some f.ctx, addr := BitVec.ofNat 64 f.addr })
      else if (foldLines f).any (fun l => !(s.eccHits l.1 l.2).isEmpty) then .next (s.dropFold r f)
      else match s.upsetMem (.acc r) (some f.ctx) (unitsHit (namedWords u (foldWord f))) with
        | none => .fault .undescribedUpset
        | some (s, _ :: _) => .next (s.dropFold r f)
        | some (s, []) =>
          let mine := match s.group f.g with | some v => decide (v.gid = f.gid) | none => false
          let task := if mine then s.groupTask f.g else none
          let x := s.foldAll f 0 f.vals
          let s := if mine then x.1.modGroup f.g (fun v => v.raiseF x.2.1) else x.1
          .next (match task with
            | some t => if x.2.1 = 0 then s else s.noteFold t x.2.1 x.2.2
            | none => s)

/-! ### The scrubber -/

/-- SCRUB_READ: the scrubber of region `r` reads the Layer Store word, or the HBM3E sector, at byte `o` of
its memory (R233). -/
def execScrubRead (r : Nat) (hbm : Bool) (o : Nat) (u : Upset) (s : State) : Out1 :=
  let unit := if hbm then 32 else 8
  let size := if hbm then hbmSize else lsSize
  let pa := (if hbm then r * hbmSize else lsBase + r * lsSize) + o
  if ¬(r < 8 ∧ o < size ∧ o % unit = 0) then .fault .noSuchUnit
  else if s.csrF (oReg r 0x50000) 0 1 = 0 ∨ !s.inMem pa unit then .next s
  else
    let s := if o = 0 then s.applyB (oReg r 0x50000) (if hbm then 0xFF0000 else 0xFF00) else s
    let k := s.region r
    let s := s.setRegion r (if hbm then { k with scrubHbm := (o + unit) % size } else { k with scrubLs := (o + unit) % size })
    let s := s.readHits pa unit .nobody none none
    match s.upsetMem .nobody none (unitsHit (namedWords u (fun i => if i * 8 < unit then some (pa + 8 * i) else none))) with
    | none => .fault .undescribedUpset
    | some (s, bad) => .next (bad.foldl (fun z k => z.eccUncorrected k .nobody none none) s)

/-! ### TLB invalidation (Tables 7-12 to 7-15) -/

/-- GO of CHIP_TLB_INV_CMD: ignored while an invalidation is under way. -/
def State.tlbStart (s : State) (v : Word) : State :=
  if !bit v 31 then s
  else if s.chip.tlbBusy then { s with chip := { s.chip with tlbIgn := true } }
  else
    let va := s.csrF 0x2400 16 16 + s.csrF 0x2404 0 16 * 65536
    { s with chip := { s.chip with
        tlbBusy := true, tlbIgn := false, tlbCtx := fld v 0 6, tlbAll := bit v 8, tlbFrom := va
        tlbPages := if fld v 12 16 = 0 then 65536 else fld v 12 16 } }

/-- Whether an invalidation names a held translation: a leaf goes when any 64 KiB page of it lies in range. -/
def tlbHit (ctx : Nat) (all : Bool) (from' pages : Nat) (e : TlbEntry) : Bool :=
  decide (e.ctx = ctx) && (all || (decide (e.vpage < from' + pages) && decide (from' < e.vpage + e.pages)))

/-- Held translations dropped. -/
def State.tlbDrop (s : State) (ctx : Nat) (all : Bool) (from' pages : Nat) : State :=
  { s with chip := { s.chip with tlb := s.chip.tlb.filter (fun e => !tlbHit ctx all from' pages e) } }

/-- A context has accesses that have translated and have not completed: started array entries that move
memory, and folds (R238). -/
def State.translated (s : State) (n : Nat) : Bool :=
  s.cells.any (fun c => c.2.groups.any (fun g => decide (g.2.ctx = n) &&
    g.2.mxq.any (fun e => e.started && [0xC2, 0xC3, 0xC6, 0xD1].contains e.opc))) ||
  s.regions.any (fun r => r.2.accPort.any (fun f => decide (f.ctx = n)))

/-- The invalidated phase of a teardown, entered when an ALL invalidation completes after ABANDON (R305). -/
def State.enterInvalidated (s : State) (n : Nat) (all : Bool) : State :=
  if all && (s.ctx n).phase == 4 then s.setCtx n { s.ctx n with phase := 5 } else s

/-- A block's instruction cache emptied (R240). -/
def State.icacheClear (s : State) (b : Nat) : State := s.setBlock b { s.block b with icache := [] }

/-- The ECC counts of a region's memory cleared (Table 7-17). -/
def State.memEccClear (s : State) (r : Nat) : State := s.setRegion r { s.region r with eccCorr := 0, eccUncorr := 0 }

end Sys2Proof.Machine
end

