-- ==== Sys2Proof/Machine/Security.lean ====
section
/-! DEFINITION. The security engine (R311–R330): SEC commands, sealed bundles, the attestation report and the removal
of a tenant. Every command is a write of SEC_CMD with GO = 1; a row acts where the descriptor is its own. -/

namespace Sys2Proof.Machine

/-! ### Commands and results (R313, Tables 10-1, 10-2) -/

/-- The security engine replaced. -/
def State.setSec (s : State) (c : Sec) : State := { s with sec := c }

/-- A command ends: RESULT and DETAIL, and SEC_REFUSED unless it is OK. -/
def State.secEnd (s : State) (cmd res detail : Nat) : State :=
  let s := s.setSec { s.sec with busy := false, result := BitVec.ofNat 8 res, detail := BitVec.ofNat 8 detail }
  if res = 0 then s
  else s.raise { unit := .chip, sev := sevC, code := 0x0801, master := .monarch
                 addr := BitVec.ofNat 64 (cmd + res * 256 + detail % 256 * 65536) }

/-- The descriptor's physical address. -/
def State.secAddr (s : State) : Nat := s.csrF 0x200000 6 26 * 64 + s.csrF 0x200004 0 16 * two32

/-- A range in memory that touches no cocoon's memory. -/
def State.outside (s : State) (pa len : Nat) : Bool :=
  s.inMem pa len && (match placesOf pa (max len 1) with
    | some l => l.all (fun p => (s.cocoonOf p.region).isNone)
    | none => false)

/-- Bytes 0 to 63 of a descriptor that a command uses. -/
def secUses (cmd i : Nat) : Bool :=
  decide (i ≤ 1) ||
  (match cmd with
    | 1 => i == 2
    | 2 => i == 3
    | 3 => i == 3 || (decide (8 ≤ i) && decide (i ≤ 28))
    | 4 => i == 3 || (decide (8 ≤ i) && decide (i < 16)) || (decide (24 ≤ i) && decide (i < 28))
    | 5 => decide (8 ≤ i) && decide (i < 16)
    | 6 => (decide (8 ≤ i) && decide (i < 16)) || decide (32 ≤ i)
    | _ => false)

/-- A descriptor has a known CMD, and zero wherever its command has no field. Bits of a field byte beyond the
field, and addresses or counts outside Table 10-1, count as reserved (log entry 50). -/
def secDescOk (b : List Byte) : Bool :=
  let cmd := leAt b 0 1
  decide (1 ≤ cmd) && decide (cmd ≤ 7) && decide (leAt b 1 1 < 8) &&
  (List.range 64).all (fun i => secUses cmd i || leAt b i 1 == 0) && decide (leAt b 3 1 < 64) && decide (leAt b 28 1 < 8 ∨ cmd ≠ 3) &&
  (if cmd = 3 ∨ cmd = 4 then leAt b 8 8 % 65536 == 0 && decide (1 ≤ leAt b 24 4) && decide (leAt b 24 4 ≤ 65536) &&
      decide (leAt b 8 8 + leAt b 24 4 * 65536 ≤ 2 ^ 47)
   else true) &&
  (cmd != 3 || leAt b 16 8 % 65536 == 0)

/-! ### CREATE and BIND (R314, R315) -/

/-- A region is idle as CREATE asks. -/
def State.regionIdle (s : State) (r : Nat) : Bool :=
  s.cells.all (fun c => decide (cellRegion c.1 ≠ r) || c.2.groups.isEmpty) &&
  decide ((s.region r).skip.st = 0) && (List.range 16).all (fun c => decide (s.csrF (oCe r c) 0 1 = 0)) &&
  s.blocks.all (fun b => decide (blockRegion b.1 ≠ r) || (b.2.chans.all (fun c => c.2.q.isEmpty) && !s.dmaBusy b.1))

/-- CREATE. -/
def State.secCreate (s : State) (b : List Byte) : State :=
  let c := leAt b 1 1
  let rs := maskBits 8 (leAt b 2 1)
  if (s.cocoon c).st ≠ 0 then s.secEnd 1 2 0
  else if rs.isEmpty || rs.any (fun r => !s.regionUp r || (s.cocoonOf r).isSome || !s.regionIdle r) then s.secEnd 1 3 0
  else
    let n := s.sec.draws
    ((s.setSec { s.sec with draws := n + 1 }).setCocoon c
      { st := 1, regions := BitVec.ofNat 8 (leAt b 2 1), key := Config.randomKey n }).secEnd 1 0 0

/-- The lowest region of a cocoon. -/
def Cocoon.lead (k : Cocoon) : Nat := (maskBits 8 k.regions.toNat).headD 0

/-- The Monarch area: the top 256 MiB of HBM3E of the lowest region (R315). -/
def Cocoon.monarchArea (k : Cocoon) : Nat := (k.lead + 1) * hbmSize - 0x10000000

/-- BIND: the root table's place in the Monarch area is open (log entry 5). -/
def State.secBind (s : State) (b : List Byte) : State :=
  let c := leAt b 1 1
  let n := leAt b 3 1
  if (s.cocoon c).st ≠ 1 then s.secEnd 2 2 0
  else if (s.ctx n).st ≠ 0 ∨ (s.boundTo n).isSome then s.secEnd 2 4 0
  else
    let v := s.free
    let root := (s.cocoon c).monarchArea + v.1.toNat % 65536 * 4096
    let s := v.2
    let s := (s.setCsr (oPtLo n) (setFld (s.csrAt (oPtLo n)) 12 20 (root / 4096))).setCsr (oPtHi n)
      (setFld (s.csrAt (oPtHi n)) 0 16 (root / two32))
    (s.setSec { s.sec with bound := insertD none s.sec.bound n (some c) }).secEnd 2 0 0

/-! ### MAP and UNMAP (R316) -/

/-- The lower-half leaves of a context that lie in a page range. -/
def inPages (n p k : Nat) (l : Nat × SecLeaf) : Bool := decide (l.1 = n) && decide (p ≤ l.2.vpage) && decide (l.2.vpage < p + k)

/-- A page may be mapped below: in HBM3E or the Layer Store, in no hole and no cocoon's memory. -/
def State.mapTarget (s : State) (pa : Nat) : Bool := s.inDram pa 65536 && (s.cocoonAt pa).isNone

/-- MAP. -/
def State.secMap (s : State) (b : List Byte) : State :=
  let c := leAt b 1 1
  let n := leAt b 3 1
  let p := leAt b 8 8 / 65536
  let pa := leAt b 16 8
  let k := leAt b 24 4
  if (s.cocoon c).st ≠ 1 then s.secEnd 3 2 0
  else if s.boundTo n ≠ some c then s.secEnd 3 4 0
  else if (List.range k).any (fun i => !s.mapTarget (pa + 65536 * i)) || s.sec.lower.any (inPages n p k) then s.secEnd 3 5 0
  else
    let f := leAt b 28 1
    let l := (List.range k).map (fun i => (n, ({ vpage := p + i, pa := pa + 65536 * i, r := f % 2 == 1, w := f / 2 % 2 == 1, x := false, nc := f / 4 % 2 == 1 } : SecLeaf)))
    (s.setSec { s.sec with lower := s.sec.lower ++ l }).secEnd 3 0 0

/-- The invalidation of an UNMAP: no TLB holds a translation of its range any more (R238). -/
def State.unmapDone (s : State) (n p k : Nat) : State :=
  ({ s with sec := { s.sec with unmapping := none } }.tlbDrop n false p k).secEnd 4 0 0

/-- UNMAP: its leaves go, and it completes after the invalidation of its range, once no access that has translated is
still under way (R238). -/
def State.secUnmap (s : State) (b : List Byte) : State :=
  let c := leAt b 1 1
  let n := leAt b 3 1
  let p := leAt b 8 8 / 65536
  let k := leAt b 24 4
  if (s.cocoon c).st ≠ 1 then s.secEnd 4 2 0
  else if s.boundTo n ≠ some c then s.secEnd 4 4 0
  else
    let s := s.setSec { s.sec with lower := s.sec.lower.filter (fun l => !inPages n p k l) }
    if s.translated n then s.setSec { s.sec with busy := true, unmapping := some (n, p, k) } else s.unmapDone n p k

/-- TLB_INV_DONE: no TLB holds a named translation and no access still uses one; the BUSY of the invalidation, and the
UNMAP that waits for its own, end (R238, R316). -/
def execTlbInvDone (s : State) : Out1 :=
  let s := match s.sec.unmapping with
    | some (n, p, k) => if s.translated n then s else s.unmapDone n p k
    | none => s
  if s.chip.tlbBusy ∧ !s.translated s.chip.tlbCtx then
    let s := s.tlbDrop s.chip.tlbCtx s.chip.tlbAll s.chip.tlbFrom s.chip.tlbPages
    .next ({ s with chip := { s.chip with tlbBusy := false } }.enterInvalidated s.chip.tlbCtx s.chip.tlbAll)
  else .next s

/-! ### Sealed bundles (R323–R325) -/

/-- A bundle's counts and its length. -/
def bundleDevs (b : List Byte) : Nat := leAt b 6 2
def bundleSecs (b : List Byte) : Nat := leAt b 8 4
def bundleEnd (h : List Byte) : Nat := 1680 + 1152 * bundleDevs h + 128 * bundleSecs h

/-- Step 1: the header (Table 10-5). -/
def bundleHeaderOk (h : List Byte) : Bool :=
  leAt h 0 4 == 0x42565041 && leAt h 4 2 == 1 && decide (1 ≤ bundleDevs h) && decide (bundleDevs h ≤ 1024) &&
  decide (1 ≤ bundleSecs h) && decide (bundleSecs h ≤ 4096) && allZero (Sys2Proof.Machine.slice h 12 4) && allZero (Sys2Proof.Machine.slice h 56 8) &&
  decide (bundleEnd h + 2420 ≤ leAt h 16 8)

/-- A JTAG session is open: the TAP is not in Test-Logic-Reset (Table 10-9). -/
def State.jtagOpen (s : State) : Bool := !s.side.tapReset

/-- Step 3: the policy (Table 10-6). -/
def State.policyOk (s : State) (p : List Byte) (regions : Nat) : Bool :=
  (List.range 4).all (fun i => allZero (Sys2Proof.Machine.slice p (32 * i) 32) ||
    leAt p (32 * i) 32 == (lookupD 0 s.boot.digests i).toNat) &&
  decide (leAt p 128 1 ≤ s.fuses.stepping.toNat) && decide (leAt p 129 1 ≤ regions) && decide (regions ≤ leAt p 130 1) &&
  !(leAt p 131 1 % 2 == 1 && s.jtagOpen)

/-- Step 4: the first entry of this package, searched from entry `i`. -/
def bundleEntry (serial : Nat) (b : List Byte) : Nat → Option (List Byte)
  | 0 => none
  | n + 1 =>
    match bundleEntry serial b n with
    | some e => some e
    | none =>
      let e := Sys2Proof.Machine.slice b (1680 + 1152 * n) 1152
      if leAt e 0 8 = serial then some e else none

/-- Step 5: content key and job key. -/
def State.unwrapKeys (s : State) (b e : List Byte) : Option (BitVec 256 × BitVec 256) :=
  let id := Sys2Proof.Machine.slice b 24 32
  match Config.mlKemDecap s.fuses.seed (Sys2Proof.Machine.slice e 8 1088) with
  | none => none
  | some ss =>
    let kek := Config.sha3 (ss ++ id ++ Sys2Proof.Machine.slice e 0 8)
    match Config.aesUnwrap kek (Sys2Proof.Machine.slice e 1096 40) with
    | none => none
    | some ck => match Config.gcmOpen ck 0 id (Sys2Proof.Machine.slice b 1632 32) (Sys2Proof.Machine.slice b 1664 16) with
      | none => none
      | some k => some (ck, BitVec.ofNat 256 (leNat k))

/-- Step 6: the key slot that a job takes: its own, where the cocoon holds it with the same key, else the lowest
free one (log entry 51). -/
def State.jobSlot (s : State) (c : Nat) (job : BitVec 16) (key : BitVec 256) : Option Nat :=
  match (List.range 16).find? (fun k => (s.keySlot k).valid && decide ((s.keySlot k).job = job)) with
  | some k => if (s.keySlot k).cocoon = c ∧ (s.keySlot k).key = key then some k else none
  | none => (List.range 16).find? (fun k => !(s.keySlot k).valid)

/-- A section entry (Table 10-8). -/
def sectOf (s : State) (c : Nat) (e : List Byte) : Sect :=
  let r := (maskBits 8 (s.cocoon c).regions.toNat).getD (leAt e 2 1) 8
  { kind := leAt e 0 1, pa := (if leAt e 1 1 = 1 then lsBase + r * lsSize else r * hbmSize) + leAt e 8 8
    vpage := (2 ^ 47 + leAt e 16 8) / 65536, len := leAt e 24 8, perm := BitVec.ofNat 4 (leAt e 3 1) }

/-- Step 6: one entry breaks R325; `seen` lists the sections before it. -/
def State.sectBad (s : State) (c total : Nat) (e : List Byte) (seen : List Sect) : Bool :=
  let k := s.cocoon c
  let x := sectOf s c e
  let size := if leAt e 1 1 = 1 then lsSize else hbmSize
  let pages := x.len / 65536
  decide (x.kind = 0 ∨ 4 < x.kind) || decide (1 < leAt e 1 1) || decide ((maskBits 8 k.regions.toNat).length ≤ leAt e 2 1) ||
  decide (16 ≤ leAt e 3 1) || decide (leAt e 8 8 % 65536 ≠ 0 ∨ leAt e 16 8 % 65536 ≠ 0 ∨ x.len % 65536 ≠ 0) ||
  leAt e 4 4 != 0 || !allZero (Sys2Proof.Machine.slice e 88 40) || decide (size < leAt e 8 8 + x.len) ||
  (decide (leAt e 1 1 = 0) && decide (k.monarchArea < x.pa + x.len) && decide (x.pa < k.monarchArea + 0x10000000)) ||
  decide (2 ^ 47 < leAt e 16 8 + x.len) || k.upper.any (fun l => decide (x.vpage ≤ l.vpage) && decide (l.vpage < x.vpage + pages)) ||
  seen.any (fun y => decide (x.vpage < y.vpage + y.len / 65536) && decide (y.vpage < x.vpage + pages)) ||
  (bit x.perm 2 && (decide (x.kind ≠ 1) || bit x.perm 1)) ||
  (if x.kind = 4 then leAt e 32 8 != 0 else decide (total < leAt e 32 8 + x.len))

/-- The entries of a bundle checked in order from number `i`: the sections, or the first that fails. -/
def State.sectsOf (s : State) (c total : Nat) (b : List Byte) (at' : Nat) : Nat → Nat → List Sect → Except Nat (List Sect)
  | _, 0, seen => .ok seen
  | i, n + 1, seen =>
    let e := Sys2Proof.Machine.slice b (at' + 128 * i) 128
    if s.sectBad c total e seen then .error i
    else s.sectsOf c total b at' (i + 1) n (seen ++ [sectOf s c e])

/-- Step 7 for one section: its bytes written as they are decrypted, and whether digest and tag hold at its end. The
bytes of a section that fails stay written. -/
def State.writeSect (s : State) (c : Nat) (ck : BitVec 256) (b e : List Byte) (i : Nat) : State × Bool :=
  let x := sectOf s c e
  if x.kind = 4 then (s.write x.pa (List.replicate x.len 0), true)
  else
    let ct := Sys2Proof.Machine.slice b (leAt e 32 8) x.len
    let nonce := BitVec.ofNat 96 (i + 1)
    (s.write x.pa (padTo x.len (Config.gcmStream ck nonce ct)),
      decide ((Config.sha3 ct).toNat = leAt e 40 32) &&
      Config.gcmTagOk ck nonce (Sys2Proof.Machine.slice b 24 32 ++ Sys2Proof.Machine.slice e 0 40) ct (Sys2Proof.Machine.slice e 72 16))

/-- Step 7: sections in order, up to the first that fails. -/
def State.writeSects (s : State) (c : Nat) (ck : BitVec 256) (b : List Byte) (at' : Nat) : Nat → Nat → State × Option Nat
  | _, 0 => (s, none)
  | i, n + 1 =>
    let r := s.writeSect c ck b (Sys2Proof.Machine.slice b (at' + 128 * i) 128) i
    if r.2 then r.1.writeSects c ck b at' (i + 1) n else (r.1, some i)

/-- UNSEAL: steps 1 to 7; it ends with UNSEAL_SECTIONS_DONE. -/
def State.secUnseal (s : State) (d : List Byte) : State :=
  let c := leAt d 1 1
  let k := s.cocoon c
  let a := leAt d 8 8
  if k.st ≠ 1 then s.secEnd 5 2 0
  else if !s.outside a 64 then s.secEnd 5 1 0
  else
    let h := s.bytes a 64
    let total := leAt h 16 8
    if !bundleHeaderOk h then s.secEnd 5 0x10 0
    else if !s.outside a total then s.secEnd 5 1 0
    else
      let s := s.readHits a total .monarch none none
      let b := s.bytes a total
      let signer := Config.sha3 (Sys2Proof.Machine.slice b 64 1312)
      let count := (maskBits 8 k.regions.toNat).length
      if !Config.mlDsaVerify (Sys2Proof.Machine.slice b 64 1312) (Config.sha3 (b.take (bundleEnd h))) (Sys2Proof.Machine.slice b (total - 2420) 2420) then s.secEnd 5 0x11 0
      else if k.signer.isSome ∧ k.signer ≠ some signer then s.secEnd 5 0x12 0
      else if !s.policyOk (Sys2Proof.Machine.slice b 1376 256) count then s.secEnd 5 0x13 0
      else match bundleEntry s.fuses.serial.toNat b (bundleDevs h) with
        | none => s.secEnd 5 0x14 0
        | some e => match s.unwrapKeys b e with
          | none => s.secEnd 5 0x15 0
          | some (ck, key) =>
            let job := BitVec.ofNat 16 (leAt b 1508 2)
            match s.jobSlot c job key with
            | none => s.secEnd 5 0x16 0
            | some slot =>
              let at' := 1680 + 1152 * bundleDevs h
              match s.sectsOf c total b at' 0 (bundleSecs h) [] with
              | .error i => s.secEnd 5 0x17 i
              | .ok l =>
                let w := s.writeSects c ck b at' 0 (bundleSecs h)
                w.1.setSec { w.1.sec with
                  busy := true
                  unsealing := some { cocoon := c, sects := l, fails := w.2, signer := signer, bundle := BitVec.ofNat 256 (leAt b 24 32), job := job, jobKey := key, slot := slot } }

/-- The leaves of a section. -/
def Sect.leaves (x : Sect) : List SecLeaf :=
  (List.range (x.len / 65536)).map (fun i =>
    { vpage := x.vpage + i, pa := x.pa + 65536 * i, r := bit x.perm 0, w := bit x.perm 1, x := bit x.perm 2, nc := bit x.perm 3 })

/-- UNSEAL_SECTIONS_DONE: step 8, or SECTION where a section failed. -/
def execUnsealSectionsDone (s : State) : Out1 :=
  match s.sec.unsealing with
  | none => .next s
  | some u =>
    let s := s.setSec { s.sec with unsealing := none }
    match u.fails with
    | some i => .next (s.secEnd 5 0x17 i)
    | none =>
      let k := s.cocoon u.cocoon
      let s := s.setCocoon u.cocoon { k with
        upper := k.upper ++ u.sects.flatMap Sect.leaves, signer := some u.signer, bundle := u.bundle, unseals := k.unseals + 1 }
      let s := if (s.keySlot u.slot).valid then s
        else s.setKeySlot u.slot { valid := true, cocoon := u.cocoon, job := u.job, key := u.jobKey }
      .next (s.secEnd 5 0 0)

/-! ### Attestation (R326, Tables 10-9 to 10-11) -/

/-- CHIP_REGION_STATE (Table 1-12). -/
def State.regionState (s : State) : Nat :=
  s.chip.inService.toNat + s.chip.retired.toNat * 256 + s.chip.excluded.toNat * 65536 + b2n s.chip.sharedOk * 0x1000000

/-- Ports that are up, or quarantined. -/
def State.portsUp (s : State) : Nat :=
  (List.range 25).foldl (fun a p => if (linksOf p).any (fun l => (s.link l).up) then a + 2 ^ p else a) 0
def State.portsQuar (s : State) : Nat := (List.range 25).foldl (fun a p => if (s.link p).quar then a + 2 ^ p else a) 0

/-- Kind of a die. -/
def dieKind (d : Nat) : Nat := if d < 8 then 1 else if d < 16 then 2 else 3

/-- A die entry (Table 10-10). -/
def State.dieEntry (s : State) (d : Nat) : List Byte :=
  let f := s.fuses
  leBytes 1 d ++ leBytes 1 (dieKind d) ++ leBytes 1 f.dieStep.toNat ++ leBytes 1 (lookupD 0 f.wafers d).toNat ++
  leBytes 1 (lookupD 0 f.xs d).toNat ++ leBytes 1 (lookupD 0 f.ys d).toNat ++ leBytes 5 (lookupD 0 f.lots d).toNat ++ leBytes 5 0

/-- The key slots of a cocoon. -/
def State.slotsOf (s : State) (c : Nat) : List Nat :=
  (List.range 16).filter (fun k => (s.keySlot k).valid && decide ((s.keySlot k).cocoon = c))

/-- The contexts bound to a cocoon. -/
def State.boundCtxs (s : State) (c : Nat) : List Nat := (List.range 64).filter (fun n => decide (s.boundTo n = some c))

/-- A cocoon entry (Table 10-11). -/
def State.cocoonEntry (s : State) (c : Nat) : List Byte :=
  let k := s.cocoon c
  let ports := (maskBits 8 k.regions.toNat).foldl (fun a r => a + 7 * 2 ^ (3 * r)) 0
  let jobs := ((s.slotsOf c).map (fun i => (s.keySlot i).job.toNat)).foldl addMem []
  leBytes 1 (c + k.st.toNat * 32) ++ leBytes 1 k.regions.toNat ++ leBytes 3 ports ++ leBytes 1 (s.boundCtxs c).length ++
  leBytes 1 (s.slotsOf c).length ++ leBytes 1 k.unscrubbed.toNat ++ leBytes 32 ((k.signer.getD 0).toNat) ++
  leBytes 32 k.bundle.toNat ++ leBytes 2 k.unseals ++ leBytes 2 0 ++ padTo 32 (jobs.flatMap (leBytes 2)) ++ leBytes 20 0

/-- The report without its signature. -/
def State.reportBody (s : State) (nonce : List Byte) : List Byte :=
  let f := s.fuses
  let halted := s.cells.any (fun c => c.2.groups.any (fun g => g.2.halted))
  leBytes 4 0x52565041 ++ leBytes 2 1 ++ leBytes 2 0 ++ leBytes 8 6532 ++ padTo 32 nonce ++ leBytes 8 f.serial.toNat ++ leBytes 8 0 ++
  (List.range 17).flatMap s.dieEntry ++
  (List.range 4).flatMap (fun i => leBytes 32 (lookupD 0 s.boot.digests i).toNat) ++
  (leBytes 1 f.bin.toNat ++ leBytes 1 f.stepping.toNat ++ leBytes 1 f.regionDis.toNat ++ leBytes 1 0 ++ leBytes 6 f.macBase.toNat ++
    leBytes 6 0 ++ leBytes 32 f.fwKey.toNat ++ leBytes 16 0) ++
  (leBytes 4 (b2n s.jtagOpen + b2n halted * 2) ++ leBytes 4 s.side.halts.toNat ++ leBytes 4 s.sec.masked.toNat ++
    leBytes 4 s.sec.cipher.toNat ++ leBytes 16 0) ++
  (leBytes 4 s.regionState ++ leBytes 4 s.portsUp ++ leBytes 4 s.portsQuar ++ leBytes 20 0) ++
  (List.range 8).flatMap s.cocoonEntry ++
  padTo 1312 (Config.identitySignKey f.seed) ++ padTo 1184 (Config.identityKemKey f.seed)

/-- ATTEST. -/
def State.secAttest (s : State) (d : List Byte) : State :=
  let a := leAt d 8 8
  if !s.outside a 6532 then s.secEnd 6 1 0
  else
    let r := s.reportBody (Sys2Proof.Machine.slice d 32 32)
    (s.write a (r ++ padTo 2420 (Config.mlDsaSign s.fuses.seed (Config.sha3 r)))).secEnd 6 0 0

/-! ### Removing a tenant (R327) -/

/-- Outstanding requests of a cocoon's contexts completed locally with NAK TIMEOUT; the key slot of each is kept, for
the count of its response (R327). -/
def State.endRequests (s : State) (l : List (Nat × Req × Nat)) : State :=
  l.foldl (fun t q =>
    (({ t with silk := { t.silk with revoked := t.silk.revoked ++ [(q.1, q.2.2)] } }.freeTag q.1).reqRefused q.2.1 nakTimeout)) s

/-- The outstanding requests of contexts, with the key slots of their jobs. -/
def State.requestsOf (s : State) (ns : List Nat) : List (Nat × Req × Nat) :=
  (s.silk.reqs.filter (fun q => ns.contains q.2.ctx)).map (fun q => (q.1, q.2, (s.slotOfJob q.2.frame.tx.job).getD 16))

/-- REMOVE, steps 1 and 2: the tenant is frozen and its keys are revoked. BUSY stays until step 5 has ended
(log entry 48). -/
def State.secRemove (s : State) (d : List Byte) : State :=
  let c := leAt d 1 1
  if (s.cocoon c).st ≠ 1 then s.secEnd 7 2 0
  else
    let s := match s.sec.unsealing with
      | some u => if u.cocoon = c then (s.setSec { s.sec with unsealing := none }).secEnd 5 0x18 0 else s
      | none => s
    let ns := s.boundCtxs c
    let s := ns.foldl (fun t n =>
      let x := t.ctx n
      let t := if x.st = 1 ∨ x.st = 3 ∨ (x.st = 2 ∧ x.phase = 0) then t.freezeContext n else t
      t.clearWins n) s
    let s := (s.setCocoon c { s.cocoon c with st := 2, step := 1 }).sealSectors c (maskBits 8 (s.cocoon c).regions.toNat)
    let v := s.sec.draws
    let s := s.setSec { s.sec with draws := v + 1, busy := true }
    let s := s.setCocoon c { s.cocoon c with key := Config.randomKey v }
    let l := s.requestsOf ns
    let s := (s.slotsOf c).foldl (fun t k => t.setKeySlot k { fail := (t.keySlot k).fail }) s
    s.endRequests l

/-- SEC_COC_DRAIN: the writes that the accumulate ports and the arrays have taken from a cocoon's contexts and not yet
stored, and the transfers of theirs that block DMA engines have begun. A collective channel stops at a frame boundary
at once. -/
def State.drainCount (s : State) (c : Nat) : Nat :=
  let ns := s.boundCtxs c
  s.regions.foldl (fun a r => a + (r.2.accPort.filter (fun f => ns.contains f.ctx)).length) 0 +
  s.cells.foldl (fun a k => a + k.2.groups.foldl (fun b g => if ns.contains g.2.ctx then b + (g.2.mxq.filter (fun e => e.started && e.opc == 0xC6)).length else b) 0) 0 +
  s.host.queues.foldl (fun a q => a + (q.2.running.filter (fun k => ns.contains k.ctx && k.begun && k.result.isNone &&
    (leAt k.bytes 0 1 == 3 || leAt k.bytes 0 1 == 4))).length) 0

/-- REMOVE_DRAIN_DONE: step 3 has ended, and the scrub starts. -/
def execRemoveDrainDone (c : Nat) (s : State) : Out1 :=
  if 8 ≤ c then .fault .noSuchUnit
  else
    let k := s.cocoon c
    if k.st = 2 ∧ k.step = 1 ∧ s.drainCount c = 0 then .next (s.setCocoon c { k with step := 2 }) else .next s

/-- COC_REMOVED: steps 4 and 5. A binding whose slot is free ends with the cocoon (log entry 48). -/
def execCocRemoved (c : Nat) (s : State) : Out1 :=
  if 8 ≤ c then .fault .noSuchUnit
  else
    let k := s.cocoon c
    if k.st ≠ 2 ∨ k.step ≠ 2 then .next s
    else
      let s := s.scrub (maskBits 8 k.regions.toNat)
      let s := (s.boundCtxs c).foldl (fun t n => if (t.ctx n).st = 0 then t.unbind n else t) s
      let s := (s.setCocoon c { unscrubbed := k.unscrubbed }).raise {
        unit := .chip, sev := sevC, code := 0x0802, master := .monarch, addr := BitVec.ofNat 64 c }
      .next (s.secEnd 7 0 0)

/-! ### GO (R313) -/

/-- The command of a descriptor run. -/
def State.secRun (s : State) (d : List Byte) : State :=
  if !secDescOk d then s.secEnd (leAt d 0 1) 1 0
  else match leAt d 0 1 with
    | 1 => s.secCreate d
    | 2 => s.secBind d
    | 3 => s.secMap d
    | 4 => s.secUnmap d
    | 5 => s.secUnseal d
    | 6 => s.secAttest d
    | _ => s.secRemove d

/-- The descriptor, where it lies in memory outside every cocoon. -/
def State.secDesc (s : State) : Option (List Byte) :=
  if s.outside s.secAddr 64 then some (s.bytes s.secAddr 64) else none

/-- While BUSY, only the REMOVE of the cocoon that is being unsealed is taken (R313, R327; log entry 48). -/
def State.secCuts (s : State) (d : List Byte) : Bool :=
  match s.sec.unsealing with
  | some u => secDescOk d && leAt d 0 1 == 7 && leAt d 1 1 == u.cocoon
  | none => false

/-- A write of SEC_CMD with GO = 1. -/
def State.secGo (s : State) : State :=
  match s.secDesc with
  | none => if s.sec.busy then s.reject 0x200008 0 else s.secEnd 0 1 0
  | some d =>
    if s.sec.busy && !s.secCuts d then s.reject 0x200008 0
    else (s.readHits s.secAddr 64 .monarch none none).secRun d

/-- Whether the descriptor at SEC_CMD_ADDR can be read and holds a command. -/
def State.secIs (s : State) (cmd : Nat) : Bool :=
  match s.secDesc with
  | none => false
  | some d => decide (leAt d 0 1 = cmd)

/-- A row of Table 10-1: GO, where the descriptor holds its command. -/
def secRow (cmd : Nat) (s : State) : Out1 := .next (if s.secIs cmd then s.secGo else s)

/-- CREATE. -/
def execCreate (s : State) : Out1 := secRow 1 s

/-- BIND. -/
def execBind (s : State) : Out1 := secRow 2 s

/-- MAP. -/
def execMap (s : State) : Out1 := secRow 3 s

/-- UNMAP. -/
def execUnmap (s : State) : Out1 := secRow 4 s

/-- UNSEAL. -/
def execSecUnseal (s : State) : Out1 := secRow 5 s

/-- ATTEST. -/
def execAttest (s : State) : Out1 := secRow 6 s

/-- REMOVE. -/
def execRemove (s : State) : Out1 := secRow 7 s

end Sys2Proof.Machine
end

