-- ==== Sys2Proof/Machine/Program.lean ====
section
/-! DEFINITION. Step programs (R190–R194): their parts in memory, the order of their tasks, their refusal at load,
and what follows from a program alone: micro-batches, fold points, keep blocks, rungs. -/

namespace Sys2Proof.Machine

/-! ### Parts in memory (Tables 6-6 to 6-8) -/

/-- A tensor record's 64 bytes. -/
def parseTensor (b : List Byte) : TensorRec :=
  let q (o : Nat) : DWord := BitVec.ofNat 64 (leAt b o 8)
  { id := BitVec.ofNat 32 (leAt b 0 4), kind := leAt b 4 1, mode := leAt b 5 1, instar := BitVec.ofNat 16 (leAt b 6 2)
    elems := leAt b 8 8, a := q 16, b := q 24, c := q 32, d := q 40, copies := q 48, mask := q 56 }

/-- A task descriptor's 64 bytes. -/
def parseTask (b : List Byte) : TaskDesc :=
  let f := leAt b 1 1
  { kind := leAt b 0 1, rung := f % 16, overlap := f / 16 % 2 == 1, final := f / 32 % 2 == 1, sect := f / 64
    layer := leAt b 2 2, mbsel := leAt b 4 2, keepb := leAt b 6 2
    dep0 := BitVec.ofNat 32 (leAt b 8 4), dep1 := BitVec.ofNat 32 (leAt b 12 4)
    watch := (List.range 4).map (fun i => BitVec.ofNat 32 (leAt b (16 + 4 * i) 4))
    launch := BitVec.ofNat 64 (leAt b 32 8), nlaunch := leAt b 40 1, xfmt := leAt b 41 1, wfmt := leAt b 42 1
    ofmt := leAt b 43 1, tensor := leAt b 44 2, accum := leAt b 46 2
    bind := BitVec.ofNat 64 (leAt b 48 8), arg := BitVec.ofNat 64 (leAt b 56 8) }

/-- Records of 64 bytes. -/
def records64 : Nat → List Byte → List (List Byte)
  | 0, _ => []
  | n + 1, b => b.take 64 :: records64 n (b.drop 64)

/-- The counts of a program's header lie in the limits of Table 6-6. -/
def headerOk (h : List Byte) : Bool :=
  decide (1 ≤ leAt h 0 2) && decide (leAt h 0 2 ≤ 4095) && decide (1 ≤ leAt h 2 1) && decide (leAt h 2 1 ≤ 8) &&
  decide (1 ≤ leAt h 4 4) && decide (leAt h 4 4 ≤ 1024) && decide (leAt h 60 2 ≤ 256)

/-- A program of a header, its tensor records and its streams. -/
def programOf (addr : Nat) (h : List Byte) (ts : List TensorRec) (qs : List (List TaskDesc)) : Program :=
  let q (o : Nat) : DWord := BitVec.ofNat 64 (leAt h o 8)
  { addr := BitVec.ofNat 64 addr, mbCount := leAt h 0 2, inFlight := leAt h 2 1, tensors := ts, mbTable := q 16
    report := q 24, keepBase := q 32, keepHbm := q 40, hbmUnits := leAt h 56 4, repList := q 48
    repCount := leAt h 60 2, streams := qs }

/-! ### Order (R190, R191) -/

/-- A stream's tasks. -/
def Program.stream (p : Program) (q : Nat) : List TaskDesc := p.streams.getD q []

/-- A task. -/
def Program.task (p : Program) (q t : Nat) : Option TaskDesc := (p.stream q)[t]?

/-- The tasks of a stream that a test picks, by index. -/
def picked (l : List TaskDesc) (f : TaskDesc → Bool) : List Nat :=
  ((l.mapIdx (fun i d => (i, d))).filter (fun x => f x.2)).map (·.1)

/-- The runs of a stream's tasks in their order, each a task and a micro-batch: the prologue (micro-batch 0), the
body for each micro-batch, and the epilogue, whose micro-batch is MB_COUNT (log entry 46). -/
def schedule (l : List TaskDesc) (mb : Nat) : List (Nat × Nat) :=
  (picked l (fun d => d.sect == 0)).map (fun t => (t, 0)) ++
  (List.range mb).flatMap (fun m =>
    (picked l (fun d => d.sect == 1 && (d.mbsel == 0xFFFF || d.mbsel == m))).map (fun t => (t, m))) ++
  (picked l (fun d => d.sect == 2)).map (fun t => (t, mb))

/-- The runs of a stream of a program. -/
def Program.sched (p : Program) (q : Nat) : List (Nat × Nat) := schedule (p.stream q) p.mbCount

/-- All runs of a program: stream, task, micro-batch. -/
def Program.allRuns (p : Program) : List (Nat × Nat × Nat) :=
  (List.range 4).flatMap (fun q => (p.sched q).map (fun x => (q, x.1, x.2)))

/-- The parts of a dependency word (Table 6-10): stream, task and offset. -/
def depOf (w : Word) : Option (Nat × Nat × Int) :=
  if bit w 31 then some (fld w 29 2, fld w 19 10, sext 4 (fld w 15 4)) else none

/-- The dependencies of a task. -/
def TaskDesc.deps (d : TaskDesc) : List (Nat × Nat × Int) := [d.dep0, d.dep1].filterMap depOf

/-- The runs that a dependency of a run waits for (R191): of a task of the same section of the body, that of
micro-batch m + OFS, none outside the micro-batches; of a task of another section, all its runs. -/
def Program.depRuns (p : Program) (d : TaskDesc) (m : Nat) (x : Nat × Nat × Int) : List (Nat × Nat × Nat) :=
  match p.task x.1 x.2.1 with
  | none => []
  | some e =>
    let all := ((p.sched x.1).filter (fun y => decide (y.1 = x.2.1))).map (fun y => (x.1, y.1, y.2))
    if d.sect = 1 ∧ e.sect = 1 then all.filter (fun y => decide (Int.ofNat y.2.2 = Int.ofNat m + x.2.2)) else all

/-- Every run that a run waits for. -/
def Program.waitsFor (p : Program) (i : Nat × Nat × Nat) : List (Nat × Nat × Nat) :=
  match p.task i.1 i.2.1 with
  | none => []
  | some d => d.deps.flatMap (p.depRuns d i.2.2)

/-- Runs left when those whose dependencies are all settled are taken away, again and again. -/
def unsettled (p : Program) : Nat → List (Nat × Nat × Nat) → List (Nat × Nat × Nat)
  | 0, l => l
  | n + 1, l =>
    let k := l.filter (fun i => (p.waitsFor i).any (fun j => l.contains j))
    if k.length = l.length then l else unsettled p n k

/-! ### Tensors, fold points and instars (R187, R188) -/

/-- A weight record. -/
def Program.weight (p : Program) (x : Nat) : Option TensorRec :=
  match p.tensors[x]? with
  | some t => if t.kind = 1 then some t else none
  | none => none

/-- An accumulator record. -/
def Program.accumulator (p : Program) (x : Nat) : Option TensorRec :=
  match p.tensors[x]? with
  | some t => if t.kind = 2 then some t else none
  | none => none

/-- Whether a task names a tensor record, END apart. -/
def TaskDesc.names (d : TaskDesc) (x : Nat) : Bool := decide (d.tensor = x) && decide (d.kind ≠ 9)

/-- FOLDs of a step on tensor `x` whose fold point is at most `m` (R187). -/
def Program.gen (p : Program) (x m : Nat) : Nat :=
  ((p.sched 2).filter (fun y => match p.task 2 y.1 with
    | some d => decide (d.kind = 5) && decide (d.tensor = x) && decide (y.2 ≤ m)
    | none => false)).length

/-- The runs of micro-batch `m` that name tensor `x`. -/
def Program.namers (p : Program) (x m : Nat) : List (Nat × Nat × Nat) :=
  p.allRuns.filter (fun i => decide (i.2.2 = m) && (match p.task i.1 i.2.1 with | some d => d.names x | none => false))

/-- Micro-batch `m` reads tensor `x`: a task of it names the tensor, other than a FOLD, which makes an instar. -/
def Program.readsIn (p : Program) (x m : Nat) : Bool :=
  (p.namers x m).any (fun i => match p.task i.1 i.2.1 with | some d => d.kind != 5 | none => false)

/-- References of a step to the instar that `g` FOLDs make (R188). -/
def Program.refs (p : Program) (x g : Nat) : Nat :=
  ((List.range p.mbCount).filter (fun m => decide (p.gen x m = g) && p.readsIn x m)).length

/-! ### Keep blocks (R171, R176) -/

/-- The task at or before `t`, of the same kind, that is the first layer of a keep block. -/
def blockStart (l : List TaskDesc) (kind : Nat) : Nat → Option Nat
  | 0 => match l[0]? with
    | some d => if d.kind = kind ∧ d.keepb ≠ 0xFFFF then some 0 else none
    | none => none
  | t + 1 => match l[t + 1]? with
    | some d => if d.kind = kind ∧ d.keepb ≠ 0xFFFF then some (t + 1) else blockStart l kind t
    | none => blockStart l kind t

/-- The forward or recompute task of stream 0 that runs a layer. -/
def Program.layerTask (p : Program) (kind layer : Nat) : Option Nat :=
  (picked (p.stream 0) (fun d => decide (d.kind = kind) && decide (d.layer = layer))).head?

/-- The keep block record of a layer. -/
def Program.blockOf (p : Program) (layer : Nat) : Option Nat :=
  match p.layerTask 1 layer with
  | none => none
  | some t => match blockStart (p.stream 0) 1 t with
    | none => none
    | some i => ((p.stream 0)[i]?).map (·.keepb)

/-- The earlier tasks of a task's keep block that a repeat runs muted (R163, R348): forward tasks for a forward
task, recompute tasks for a recompute or backward task (forward ones where the layer has no recompute). -/
def Program.earlier (p : Program) (t : Nat) : List Nat :=
  match p.task 0 t with
  | none => []
  | some d =>
    let upTo (kind i : Nat) : List Nat :=
      match blockStart (p.stream 0) kind i with
      | none => []
      | some b => (picked (p.stream 0) (fun e => decide (e.kind = kind) && decide (e.sect = d.sect))).filter
          (fun j => decide (b ≤ j) && decide (j < i))
    if d.kind = 1 ∨ d.kind = 2 then upTo d.kind t
    else if d.kind = 3 then
      match p.layerTask 2 d.layer with
      | some i => upTo 2 i
      | none => match p.layerTask 1 d.layer with
        | some i => upTo 1 i
        | none => []
    else []

/-- The keep block records in forward order (R176). -/
def Program.blocks (p : Program) : List Nat :=
  (picked (p.stream 0) (fun d => decide (d.kind = 1) && decide (d.keepb ≠ 0xFFFF))).foldl (fun a t =>
    match p.task 0 t with
    | some d => if a.contains d.keepb then a else a ++ [d.keepb]
    | none => a) []

/-- A length rounded up to 64 KiB. -/
def up64k (n : Nat) : Nat := (n + 65535) / 65536 * 65536

/-- The kept inputs of one micro-batch: the placements, the store bytes used and the bytes spilled (R176). -/
def placeMb (p : Program) (part tokens m : Nat) : Nat → Nat → List Nat → List Kept × Nat × Nat
  | used, spill, [] => ([], used, spill)
  | used, spill, b :: rest =>
    let n := tokens * (match p.tensors[b]? with | some t => t.elems | none => 0)
    let size := up64k n
    let h := (33 * n + 64 * 65536 - 1) / (64 * 65536) * 65536
    let slot := m % max 1 p.inFlight
    if used + size ≤ part then
      let r := placeMb p part tokens m (used + size) spill rest
      ({ blk := b, mb := m, hbm := false, addr := p.keepBase.toNat + slot * part + used, held := false } :: r.1, r.2)
    else
      let r := placeMb p part tokens m used (spill + h) rest
      ({ blk := b, mb := m, hbm := true, addr := p.keepHbm.toNat + slot * (p.hbmUnits * 65536) + spill, held := false } :: r.1, r.2)

/-- The placement of a step: kept inputs, and the largest store use, or the micro-batch whose spill overflows. -/
def placeAll (p : Program) (part : Nat) : Nat → List (Word × Word) → Except Nat (List Kept × Nat)
  | _, [] => .ok ([], 0)
  | m, t :: rest =>
    let x := placeMb p part t.1.toNat m 0 0 p.blocks
    if p.hbmUnits * 65536 < x.2.2 then .error m
    else match placeAll p part (m + 1) rest with
      | .error e => .error e
      | .ok r => .ok (x.1 ++ r.1, max x.2.1 r.2)

/-! ### Rungs (R161, R163, Table 5-12) -/

/-- The formats of a task lie in the row of its rung. -/
def rungRow (d : TaskDesc) : Bool :=
  let f (a b o : Nat) : Bool := (d.xfmt == a || d.xfmt == b) && (d.wfmt == a || d.wfmt == b) && d.ofmt == o
  match d.rung with
  | 0 => f 0xB 0xB 3
  | 1 => f 3 0xC 3
  | 2 => f 4 0xD 4
  | 3 => f 2 2 2
  | _ => false

/-- The rung after a trip. -/
def nextRung (r : Nat) : Nat := if r = 0 then 1 else 3

/-- XFMT, WFMT and OFMT of a task at a rung (R193). -/
def rungFmts (d : TaskDesc) (rung : Nat) : Nat × Nat × Nat :=
  if rung = d.rung then (d.xfmt, d.wfmt, d.ofmt)
  else if rung = 1 then (0xC, 0xC, 3)
  else (2, 2, 2)

/-! ### Backward order and overlap (R198) -/

/-- The layers in backward order. -/
def Program.backward (p : Program) : List Nat :=
  (picked (p.stream 0) (fun d => decide (d.kind = 3))).foldl (fun a t =>
    match p.task 0 t with
    | some d => if a.contains d.layer then a else a ++ [d.layer]
    | none => a) []

/-- A layer is marked OVERLAP. -/
def Program.overlapped (p : Program) (layer : Nat) : Bool :=
  p.streams.any (fun l => l.any (fun d => d.overlap && decide (d.layer = layer)))

/-- The layer that follows in backward order. -/
def followerOf (j : Nat) : List Nat → Option Nat
  | a :: b :: rest => if a = j then some b else followerOf j (b :: rest)
  | _ => none

/-- A FINAL reduction of layer `j` runs beside the next layer's backward. -/
def Program.overlaps (p : Program) (j : Nat) : Bool :=
  match followerOf j p.backward with
  | some k => p.overlapped k
  | none => false

/-- A layer has a FINAL reduction. -/
def Program.finalOf (p : Program) (j : Nat) : Bool :=
  (p.stream 1).any (fun d => decide (d.kind = 6) && d.final && decide (d.layer = j))

/-- The layers before a layer in backward order. -/
def layersBefore (k : Nat) : List Nat → List Nat
  | [] => []
  | a :: rest => if a = k then [] else a :: layersBefore k rest

/-! ### Refusals that a program shows by itself (Table 6-12) -/

/-- Tasks of every stream with their stream. -/
def Program.tasks (p : Program) : List (Nat × TaskDesc) :=
  (List.range 4).flatMap (fun q => (p.stream q).map (fun d => (q, d)))

/-- Reason 1. -/
def Program.badRung (p : Program) : Bool :=
  p.tasks.any (fun x => decide (1 ≤ x.2.kind) && decide (x.2.kind ≤ 3) &&
    (!rungRow x.2 || (decide (x.2.kind = 3) && decide (x.2.rung < 2))))

/-- Reason 2. -/
def Program.badOverlap (p : Program) : Bool :=
  decide (8 < (p.tasks.filter (fun x => x.2.overlap)).length) ||
  p.tasks.any (fun x => x.2.overlap && !((layersBefore x.2.layer p.backward).any p.finalOf))

/-- Reason 3. -/
def Program.badDeps (p : Program) : Bool :=
  p.tasks.any (fun x => x.2.deps.any (fun y => (p.task y.1 y.2.1).isNone)) ||
  !(unsettled p p.allRuns.length p.allRuns).isEmpty

/-- Reason 4. -/
def Program.badFolds (p : Program) : Bool :=
  let fs := (p.stream 2).filter (fun d => decide (d.kind = 5))
  fs.any (fun d => decide (d.sect = 1) && decide (d.mbsel = 0xFFFF)) ||
  fs.any (fun d => decide (2 < (fs.filter (fun e => decide (e.tensor = d.tensor))).length))

/-- The stream of a task kind (Table 6-9). -/
def kindStream (k : Nat) : Option Nat :=
  match k with
  | 1 => some 0
  | 2 => some 0
  | 3 => some 0
  | 4 => some 2
  | 5 => some 2
  | 6 => some 1
  | 7 => some 1
  | 8 => some 3
  | 9 => some 3
  | _ => none

/-- Reason 5. -/
def Program.badKinds (p : Program) : Bool :=
  p.tasks.any (fun x => kindStream x.2.kind != some x.1 || decide (3 ≤ x.2.sect)) ||
  (match (p.stream 3).getLast? with | some d => d.kind != 9 || d.sect != 2 | none => true) ||
  decide (((p.stream 3).filter (fun d => decide (d.kind = 9))).length ≠ 1)

/-- Reason 7, as far as the header does not show it. -/
def Program.badCounts (p : Program) : Bool :=
  p.streams.any (fun l => decide (1024 < l.length)) || p.tasks.any (fun x => decide (4 < x.2.nlaunch))

/-- Reason 8. -/
def Program.badMask (p : Program) : Bool :=
  p.tensors.any (fun t => if t.kind = 1 then decide (3 ≤ t.mode) else t.mode != 0 || t.mask != 0)

/-! ### Stream copies (log entry 39) -/

/-- Bytes from one stream copy to the next. -/
def copyStride (t : TensorRec) : Nat := up64 (t.elems + t.elems / 32)

/-- Where the stream copy of a buffer in a weight format stands: bf16 streams from the master itself. -/
def copyAddr (t : TensorRec) (buf : Bool) (wfmt : Nat) : Nat :=
  if wfmt = 2 then (if buf then t.b.toNat else t.a.toNat)
  else t.copies.toNat + (2 * b2n buf + b2n (wfmt == 4 || wfmt == 0xD)) * copyStride t

/-- Elements of 4 bits packed, the first in the low nibble. -/
def packNibbles : List Nat → List Byte
  | [] => []
  | [a] => [BitVec.ofNat 8 (a % 16)]
  | a :: b :: r => BitVec.ofNat 8 (a % 16 + b % 16 * 16) :: packNibbles r

/-- MX blocks of 32 elements: element codes in order, and the scales. -/
def mxBlocks (code : Nat) : Nat → List Val → List Nat × List Byte
  | 0, _ => ([], [])
  | n + 1, vs =>
    if vs.isEmpty then ([], [])
    else
      let b := mxFromF32 code (vs.take 32) (List.replicate 32 .near)
      let r := mxBlocks code n (vs.drop 32)
      (b.2.1 ++ r.1, BitVec.ofNat 8 b.1 :: r.2)

/-- bf16 elements narrowed to a weight format: round to nearest, ties to even, saturating (R186, Table 6-9). -/
def narrow (wfmt : Nat) (vs : List Val) : List Byte :=
  match wfmt with
  | 0xB => let r := mxBlocks 0xB (vs.length / 32 + 1) vs; packNibbles r.1 ++ r.2
  | 0xC => let r := mxBlocks 3 (vs.length / 32 + 1) vs; r.1.map (BitVec.ofNat 8) ++ r.2
  | 0xD => let r := mxBlocks 4 (vs.length / 32 + 1) vs; r.1.map (BitVec.ofNat 8) ++ r.2
  | f => vs.map (fun v => BitVec.ofNat 8 (toFloat ((fmtOf f).getD e4m3) .near true true v).bits)

/-- bf16 elements from their bytes. -/
def bf16Vals : List Byte → List Val
  | a :: b :: r => decodeVal bf16 (a.toNat + 256 * b.toNat) :: bf16Vals r
  | _ => []

end Sys2Proof.Machine
end

