-- ==== Sys2Proof/Machine/Skipper.lean ====
section
/-! DEFINITION. The Skipper (R161–R167, R175–R204, R348): step commands, the start, stop and boundary of a step,
its tasks, the overflow ladder and the step report. -/

namespace Sys2Proof.Machine

/-! ### Accesses of a Skipper -/

/-- A region's Skipper replaced. -/
def State.setSkip (s : State) (r : Nat) (k : Skipper) : State := s.setRegion r { s.region r with skip := k }

/-- The STEP_GO that a region works for ends. -/
def State.goEnd (s : State) (r : Nat) (status : BitVec 16) (detail : BitVec 8) : State :=
  match (s.region r).skip.goCmds with
  | g :: _ => s.cmdResult g.1 g.2 status detail
  | [] => s

/-- An access of stream `q` fails in translation (R211, R237, R302, Table 9-14). -/
def State.skipXlate (s : State) (r q : Nat) (f : Tr × Nat) : State :=
  let n := (s.region r).skip.ctx
  let s := s.goEnd r stFault ((f.1.code.getD 0x010B).setWidth 8)
  match f.1 with
  | .ecc pa => s.tableFault pa (.stream r q) (some n)
  | _ => match s.holeAt n f.2 with
    | some pa => (s.freezeStream r q).raise {
        unit := .geu r, sev := sevF, code := 0x0907, master := .stream r q, ctx := some n, addr := BitVec.ofNat 64 pa }
    | none => ((s.loseContext n 4).freezeStream r q).raise {
        unit := .chip, sev := sevF, code := 0x0703, master := .stream r q, ctx := some n, addr := BitVec.ofNat 64 f.2 }

/-- A read of stream `q`, for a task where one reads; an uncorrectable error is a D event (R347, R348). -/
def State.skipRead (s : State) (r q : Nat) (t : Option TaskId) (va len : Nat) : Except State (List Byte × State) :=
  let n := (s.region r).skip.ctx
  let g := s.range n va len .load
  match g.1 with
  | .error f => .error (g.2.skipXlate r q f)
  | .ok ps =>
    if ps.any (fun p => !(g.2.eccHits p.1 p.2).isEmpty) then
      .error ((if t.isSome then g.2 else g.2.goEnd r stFault 0x02).pieceHits ps (.stream r q) (some n) t)
    else .ok (g.2.pieces ps, g.2)

/-- A write of stream `q`. -/
def State.skipWrite (s : State) (r q va : Nat) (bs : List Byte) : Except State State :=
  let g := s.range (s.region r).skip.ctx va bs.length .store
  match g.1 with
  | .error f => .error (g.2.skipXlate r q f)
  | .ok ps => .ok (g.2.writePieces ps bs)

/-- The mask of a weight as a task reads it; none where it has none. -/
def State.skipMask (s : State) (i : TaskId) (w : TensorRec) : Except State (List Byte × State) :=
  if w.masked then s.skipRead i.1 i.2.1 (some i) w.mask.toNat w.maskLen else .ok ([], s)

/-- Bytes copied by a task. -/
def State.skipCopy (s : State) (i : TaskId) (src dst len : Nat) : Except State State :=
  match s.skipRead i.1 i.2.1 (some i) src len with
  | .error t => .error t
  | .ok (b, t) => t.skipWrite i.1 i.2.1 dst b

/-! ### STEP_LOAD, STEP_GO, STEP_UNLOAD (R194, Table 9-6) -/

/-- The regions of a mask. -/
def maskRegions (m : Nat) : List Nat := maskBits 8 m

/-- Bytes that a command reads. -/
def State.cmdRead (s : State) (q k n va len : Nat) : Except State (List Byte × State) :=
  let g := s.range n va len .load
  match g.1 with
  | .error (.ecc pa, _) => .error ((g.2.cmdResult q k stFault 0x02).tableFault pa (.queue q) (some n))
  | .error (f, a) => .error (g.2.cmdXlate q k n (f.code.getD 0x010B) (BitVec.ofNat 64 a))
  | .ok ps =>
    if ps.any (fun p => !(g.2.eccHits p.1 p.2).isEmpty) then
      .error ((g.2.cmdResult q k stFault 0x02).pieceHits ps (.queue q) (some n) none)
    else .ok (g.2.pieces ps, g.2)

/-- Bytes of a command's operand from byte `o` on: the command address resolves as far as they reach (R287). -/
def State.cmdReadAt (s : State) (q k n : Nat) (a : DWord) (o len : Nat) : Except State (List Byte × State) :=
  let z := s.resolve n (.queue q) a (o + len)
  match z.1 with
  | .error e => .error (z.2.cmdXlate q k n e a)
  | .ok va => z.2.cmdRead q k n (va + o) len

/-- Streams from byte `o` of a program on; none where a count is beyond its limit. -/
def State.loadStreams (s : State) (q k n : Nat) (a : DWord) : Nat → Nat → Except State (Option (List (List TaskDesc)) × State)
  | 0, _ => .ok (some [], s)
  | i + 1, o =>
    match s.cmdReadAt q k n a o 4 with
    | .error t => .error t
    | .ok (c, t) =>
      let m := leNat c
      if 1024 < m then .ok (none, t)
      else match t.cmdReadAt q k n a (o + 4) (64 * m) with
        | .error u => .error u
        | .ok (b, u) =>
          match u.loadStreams q k n a i (o + 4 + 64 * m) with
          | .error w => .error w
          | .ok (none, w) => .ok (none, w)
          | .ok (some l, w) => .ok (some ((records64 m b).map parseTask :: l), w)

/-- A program read at a command address; none where its counts are beyond their limits. -/
def State.loadProgram (s : State) (q k n : Nat) (a : DWord) (va : Nat) : Except State (Option Program × State) :=
  match s.cmdRead q k n va 64 with
  | .error t => .error t
  | .ok (h, t) =>
    if !headerOk h then .ok (none, t)
    else match t.cmdRead q k n (leAt h 8 8) (64 * leAt h 4 4) with
      | .error u => .error u
      | .ok (b, u) =>
        match u.loadStreams q k n a 4 64 with
        | .error w => .error w
        | .ok (none, w) => .ok (none, w)
        | .ok (some qs, w) => .ok (some (programOf va h ((records64 (leAt h 4 4) b).map parseTensor) qs), w)

/-- A range of a context lies in the Layer Store. -/
def State.inStore (s : State) (n va len : Nat) : Bool :=
  match (s.range n va len .store).1 with
  | .ok ps => ps.all (fun p => match placeOf p.1 with | some (.ls _) => true | _ => false)
  | .error _ => false

/-- Reason 6 of Table 6-12 in region `r`. -/
def State.badPlace (s : State) (n r : Nat) (p : Program) : Bool :=
  p.tensors.any (fun t =>
    if t.kind = 2 then !s.inStore n t.a.toNat (2 * t.elems) || !s.inStore n t.c.toNat t.elems
    else t.kind == 1 && t.copies != 0 && !s.inStore n t.copies.toNat (4 * copyStride t)) ||
  !s.inStore n p.keepBase.toNat (max 1 (s.csrF (oReg r 0x11000) 0 16 * 0x100000))

/-- The lowest reason of Table 6-12 that applies. -/
def State.loadReason (s : State) (n : Nat) (rs : List Nat) (p : Program) : Option Nat :=
  if p.badRung then some 1
  else if p.badOverlap then some 2
  else if p.badDeps then some 3
  else if p.badFolds then some 4
  else if p.badKinds then some 5
  else if rs.any (fun r => s.badPlace n r p) then some 6
  else if p.badCounts then some 7
  else if p.badMask then some 8
  else if rs.any (fun r => decide ((s.region r).skip.st ≠ 0)) then some 9
  else none

/-- A load refused: no part of it takes effect (R194). -/
def State.refuseLoad (s : State) (q k : Nat) (rs : List Nat) (reason : Nat) : State :=
  (rs.foldl (fun t r => t.setSkip r { (t.region r).skip with loadReason := reason }) s).cmdResult q k stStepRefused
    (BitVec.ofNat 8 reason)

/-- The instar table of a program that is loaded. -/
def freshInstars (p : Program) : SMap Instar :=
  (p.tensors.mapIdx (fun i t => (i, t))).foldl (fun m x =>
    if x.2.kind = 1 then insertD {} m x.1 { tensor := x.2.id, current := x.2.instar, valid := true } else m) []

/-- A program loaded in a region: nothing of an earlier program's steps stays in the ladder (R164, R166). -/
def State.installProgram (s : State) (n r : Nat) (p : Program) : State :=
  let v := s.region r
  s.setRegion r { v with
    ladder := { stopped := v.ladder.stopped }
    skip := { loadReason := v.skip.loadReason, st := 1, ctx := n, prog := some p }
    instars := freshInstars p, refetch := [] }

/-- STEP_LOAD. -/
def execStepLoad (q k : Nat) (s : State) : Out1 :=
  runCmd 6 q k s (fun s c =>
    let n := c.ctx
    let rs := maskRegions (leAt c.bytes 24 1)
    let a : DWord := BitVec.ofNat 64 (leAt c.bytes 16 8)
    if (s.ctx n).st ≠ 1 then s.cmdResult q k stCtxLost 0
    else if rs.any (fun r => !s.regionUp r || !s.sideOk n r) then s.cmdResult q k stBadBlock 0
    else
      let z := s.resolve n (.queue q) a 64
      match z.1 with
      | .error e => z.2.cmdXlate q k n e a
      | .ok va => match z.2.loadProgram q k n a va with
        | .error t => t
        | .ok (none, t) => t.refuseLoad q k rs 7
        | .ok (some p, t) => match t.loadReason n rs p with
          | some x => t.refuseLoad q k rs x
          | none => (rs.foldl (fun t r => t.installProgram n r p) t).cmdResult q k stOk 0)

/-- A region holds a context's step program. -/
def State.holdsProgram (s : State) (n r : Nat) : Bool :=
  decide ((s.region r).skip.st ≠ 0) && decide ((s.region r).skip.ctx = n)

/-- STEP_GO: each named region takes the step up when its boundary allows; a region without the context's program
makes the command BAD_CMD (log entry 47). -/
def execStepGo (q k : Nat) (s : State) : Out1 :=
  runCmd 7 q k s (fun s c =>
    let rs := maskRegions (leAt c.bytes 24 1)
    if (s.ctx c.ctx).st ≠ 1 then s.cmdResult q k stCtxLost 0
    else if rs.isEmpty || rs.any (fun r => !s.holdsProgram c.ctx r) then s.cmdResult q k stBadCmd 0
    else rs.foldl (fun t r => let v := (t.region r).skip; t.setSkip r { v with goCmds := v.goCmds ++ [(q, k)] }) s)

/-- A region without its step program. -/
def State.unloadProgram (s : State) (r : Nat) : State :=
  let v := s.region r
  s.setRegion r { v with skip := { loadReason := v.skip.loadReason }, instars := [], refetch := [] }

/-- STEP_UNLOAD: waits while a step runs. -/
def execStepUnload (q k : Nat) (s : State) : Out1 :=
  runCmd 8 q k s (fun t c =>
    let rs := (maskRegions (leAt c.bytes 24 1)).filter (fun r => t.holdsProgram c.ctx r)
    if rs.any (fun r => decide ((t.region r).skip.st = 2) || decide ((t.region r).skip.st = 3)) && (t.ctx c.ctx).st == 1 then s
    else (rs.foldl (fun t r => t.unloadProgram r) t).cmdResult q k stOk 0)

/-! ### Runs -/

/-- A run of this step has completed. -/
def State.runDone (s : State) (r : Nat) (i : Nat × Nat × Nat) : Bool :=
  match s.runOf (r, i) with
  | some x => x.done
  | none => false

/-- FOLDs on a tensor that have made their instar in this step. -/
def State.foldsDone (s : State) (r x : Nat) (p : Program) : Nat :=
  ((s.region r).skip.runs.filter (fun y => y.applied && (match p.task y.q y.t with
    | some d => decide (d.kind = 5) && decide (d.tensor = x)
    | none => false))).length

/-- The instar that micro-batch `m` reads of tensor `x`: its number, its buffer, and whether it is the previous
one (R187). -/
def State.instarFor (s : State) (r x m : Nat) (p : Program) : BitVec 16 × Bool × Bool :=
  let e := lookupD {} (s.region r).instars x
  let back := s.foldsDone r x p - p.gen x m
  (e.current - BitVec.ofNat 16 back, e.curBuf != decide (back % 2 = 1), decide (0 < back))

/-- The buffer that does not hold the current instar is free of references (R189). -/
def State.refsFree (s : State) (r x : Nat) : Bool :=
  let e := lookupD {} (s.region r).instars x
  !e.prevValid || decide (e.prevRefs = 0)

/-- A FOLD may write that buffer: it is free, and no Chrysalis pins it (R189, R358). -/
def State.bufferFree (s : State) (r x : Nat) : Bool :=
  s.refsFree r x && !(s.region r).pins.contains (2 * x + b2n (!(lookupD {} (s.region r).instars x).curBuf))

/-- A refetch of a tensor record is pending (R349). -/
def State.refetching (s : State) (r x : Nat) : Bool := (s.region r).refetch.any (fun f => decide (f.tensor = x))

/-- Every backward task of the last micro-batch has completed (R198). -/
def State.backwardDone (s : State) (r : Nat) (p : Program) : Bool :=
  (p.sched 0).all (fun y => match p.task 0 y.1 with
    | some d => decide (d.kind ≠ 3) || decide (y.2 + 1 ≠ p.mbCount) || s.runDone r (0, y.1, y.2)
    | none => true)

/-- Why a run cannot start yet: a WAIT code of Table 6-18, zero where it can (R177, R187, R189, R191, R192, R198). The
tasks that read a weight, not those that move its gradient, wait for their instar (log entry 134). -/
def State.waitCode (s : State) (r : Nat) (p : Program) (i : Nat × Nat × Nat) (d : TaskDesc) : Nat :=
  let m := i.2.2
  let weighed := (p.weight d.tensor).isSome
  if (p.waitsFor i).any (fun j => !s.runDone r j) then 1
  else if weighed && s.refetching r d.tensor then 1
  else if weighed && decide (d.kind ≤ 4) && decide (s.foldsDone r d.tensor p < p.gen d.tensor m) then 1
  else if d.kind = 6 ∧ d.final ∧ p.overlaps d.layer = false ∧ s.backwardDone r p = false then 1
  else if i.1 = 2 ∧ (s.region r).skip.runs.any (fun y => y.waiting && (match p.task y.q y.t with
      | some e => !s.bufferFree r e.tensor
      | none => false)) then 2
  else if d.kind = 1 ∧ p.inFlight ≤ m ∧ p.allRuns.any (fun j => decide (j.2.2 + p.inFlight = m) && !s.runDone r j) then 4
  else if 0 < d.nlaunch ∧ 4 ≤ m ∧ (p.sched i.1).contains (i.2.1, m - 4) ∧ s.runDone r (i.1, i.2.1, m - 4) = false then 5
  else 0

/-- The next run of a stream. -/
def State.nextRun (s : State) (r q : Nat) : Option (Program × TaskDesc × Nat × Nat) :=
  match s.program r with
  | none => none
  | some p => match (p.sched q)[((s.region r).skip.streams.getD q {}).pos]? with
    | none => none
    | some (t, m) => match p.task q t with
      | none => none
      | some d => some (p, d, t, m)

/-- A Skipper may start tasks in a stream: its step runs, its context is active and not being suspended, and the
stream is not frozen. -/
def State.mayRun (s : State) (r q : Nat) : Bool :=
  let k := (s.region r).skip
  decide (k.st = 2) && (s.ctx k.ctx).st == 1 && !decide (s.host.ctxBusy = some (k.ctx, 7)) && !(k.streams.getD q {}).frozen

/-- The rung at which a run starts: the program's, raised by promotions in force (R164) and, for a recompute, by
those of its forward task (R163). -/
def State.startRung (s : State) (r : Nat) (p : Program) (d : TaskDesc) (m : Nat) : Nat :=
  let dir := b2n (decide (d.kind = 3))
  let base := ((s.region r).ladder.sticky.filter (fun x => decide (x.1 = d.layer) && decide (x.2.1 = dir))).foldl (fun a x => max a x.2.2) d.rung
  if d.kind = 2 then
    match p.layerTask 1 d.layer with
    | some t => (match s.runOf (r, 0, t, m) with | some x => max base x.rung | none => base)
    | none => base
  else base

/-- A run recorded, its stream moved past it. -/
def State.addRun (s : State) (r q t m rung : Nat) : State :=
  let k := (s.region r).skip
  s.setSkip r { k with
    streams := k.streams.mapIdx (fun i x => if i = q then { x with pos := x.pos + 1 } else x)
    runs := k.runs ++ [{ q := q, t := t, m := m, rung := rung }] }

/-- The next run of stream `q` starts, where it is of the given kind and nothing holds it. -/
def startTask (q kind r : Nat) (s : State) (room : TaskId → TaskDesc → Bool)
    (work : State → Program → TaskId → TaskDesc → State) : Out1 :=
  if 8 ≤ r then .fault .noSuchUnit
  else match s.nextRun r q with
    | none => .next s
    | some (p, d, t, m) =>
      let i : TaskId := (r, q, t, m)
      if d.kind ≠ kind || !s.mayRun r q || decide (s.waitCode r p (q, t, m) d ≠ 0) || !room i d then .next s
      else .next (work (s.addRun r q t m (s.startRung r p d m)) p i d)

/-! ### Launches (R192, R193, Table 6-11) -/

/-- The binding record of task `j` for micro-batch `m` at a rung. -/
def State.bindRecord (s : State) (r : Nat) (p : Program) (d : TaskDesc) (m rung : Nat) : List Byte :=
  let f := rungFmts d rung
  let x := s.instarFor r d.tensor m p
  let w := p.weight d.tensor
  let a := p.accumulator d.accum
  let kept := match p.blockOf d.layer with
    | some b => (s.region r).skip.kept.find? (fun (k : Kept) => decide (k.blk = b) && decide (k.mb = m))
    | none => none
  leBytes 8 (match w with | some t => copyAddr t x.2.1 f.2.1 | none => 0) ++
  leBytes 8 (match kept with | some k => k.addr | none => 0) ++
  leBytes 1 (match kept with | some k => b2n k.hbm | none => 0) ++ leBytes 1 rung ++
  leBytes 1 f.1 ++ leBytes 1 f.2.1 ++ leBytes 1 f.2.2 ++ leBytes 1 (if w.isSome then b2n x.2.2 else 0) ++ leBytes 2 m ++
  leBytes 8 (match a with | some t => t.a.toNat | none => 0) ++ leBytes 8 (match a with | some t => t.c.toNat | none => 0) ++
  leBytes 8 (match w with | some t => t.mask.toNat | none => 0) ++ leBytes 2 (if w.isSome then x.1.toNat else 0) ++
  leBytes 6 0 ++ leBytes 8 d.arg.toNat

/-- Runs of consecutive 1 bits. -/
def oneRuns : Bool → List Bool → Nat
  | _, [] => 0
  | prev, b :: r => (if b && !prev then 1 else 0) + oneRuns b r

/-- How often a launch record of a task is submitted: the last record of a backward task with a masked weight and
an accumulator is its weight-gradient launch, once for each run of 1 bits (R180, log entry 38). -/
def State.timesOf (s : State) (i : TaskId) (p : Program) (d : TaskDesc) (l : Nat) : Except State (Nat × State) :=
  match p.weight d.tensor with
  | some w =>
    if d.kind = 3 ∧ w.masked ∧ (p.accumulator d.accum).isSome ∧ l + 1 = d.nlaunch then
      match s.skipMask i w with
      | .error t => .error t
      | .ok (m, t) =>
        let bits := maskBitOf w.mode w.cols (w.elems - 1) + 1
        .ok (oneRuns false ((List.range bits).map (fun j => bit (m.getD (j / 8) 0) (j % 8))), t)
    else .ok (1, s)
  | none => .ok (1, s)

/-- A set of a task submitted (R296): one that its block can never take raises TASK_TAINT (R350). -/
def State.submitTask (s : State) (i : TaskId) (b : Nat) (x : GroupSet) : State :=
  match s.submitSet b x with
  | .error _ => s.taintStop i
  | .ok t => t.modRun i (fun y => { y with open' := y.open' + 1 })

/-- Copies of a launch submitted. The Skipper's mute bit takes the place of the record's own (R175; DESIGN CHOICE, log
entry 128). -/
def State.submitTimes (s : State) (i : TaskId) (b : List Byte) (entry : DWord) (n : Nat) (mute : Bool) : Nat → State
  | 0 => s
  | k + 1 =>
    let f := s.fresh
    let x := launchSet b f.1 n (f.2.cid n) (.skipper i.1 i.2.1 i.2.2.1 i.2.2.2) entry i.2.2.2
    (f.2.submitTask i (launchBlock b) { x with mute := mute }).submitTimes i b entry n mute k

/-- Launch record `l` of task `j` submitted for a run, with s20 to s23 (R192). -/
def State.submitRecord (s : State) (i : TaskId) (p : Program) (j : Nat) (d : TaskDesc) (mute : Bool) (l : Nat) : Except State State :=
  let n := (s.region i.1).skip.ctx
  match s.skipRead i.1 i.2.1 (some i) (d.launch.toNat + 128 * l) 128 with
  | .error t => .error t
  | .ok (b, t) =>
    let bind := d.bind.toNat + 64 * (i.2.2.2 % 4)
    let b := b.take 112 ++ leBytes 4 i.2.2.2 ++ leBytes 4 j ++ leBytes 8 bind
    let a : DWord := BitVec.ofNat 64 (leAt b 16 8)
    let z := t.resolve n (.stream i.1 i.2.1) a 8
    match z.1 with
    | .error _ => .error (z.2.skipXlate i.1 i.2.1 (.xlate, a.toNat))
    | .ok va =>
      if !declOk b || blockRegion (launchBlock b) != i.1 then .error (z.2.taintStop i)
      else match z.2.timesOf i p d l with
        | .error u => .error u
        | .ok (k, u) => .ok (u.submitTimes i b (BitVec.ofNat 64 va) n mute k)

/-- Launch records in order. -/
def State.submitRecords (s : State) (i : TaskId) (p : Program) (j : Nat) (d : TaskDesc) (mute : Bool) : Nat → Nat → State
  | _, 0 => s
  | l, k + 1 =>
    match s.submitRecord i p j d mute l with
    | .error t => t
    | .ok t => t.submitRecords i p j d mute (l + 1) k

/-- A stream copy made while the tensor's refetch is pending noted there (R349). -/
def State.noteCopy (s : State) (r x : Nat) (buf : Bool) (wfmt : Nat) : State :=
  let v := s.region r
  s.setRegion r { v with refetch := v.refetch.map (fun f =>
    if f.tensor = x ∧ !f.copies.contains (buf, wfmt) then { f with copies := f.copies ++ [(buf, wfmt)] } else f) }

/-- A stream copy made from the instar of a micro-batch (R163, R186). -/
def State.makeCopy (s : State) (i : TaskId) (p : Program) (d : TaskDesc) (wfmt : Nat) : Except State State :=
  match p.weight d.tensor with
  | none => .ok s
  | some w =>
    if wfmt = 2 then .ok s
    else
      let buf := (s.instarFor i.1 d.tensor i.2.2.2 p).2.1
      match s.skipRead i.1 i.2.1 (some i) (copyAddr w buf 2) (2 * w.elems) with
      | .error t => .error t
      | .ok (b, t) => match t.skipWrite i.1 i.2.1 (copyAddr w buf wfmt) (narrow wfmt (bf16Vals b)) with
        | .error u => .error u
        | .ok u => .ok (u.noteCopy i.1 d.tensor buf wfmt)

/-- The copy of a promoted rung for task `j` of a run; a narrowed one overwrites the program's (log entry 39). -/
def State.promoteCopy (s : State) (i : TaskId) (p : Program) (j rung : Nat) (d : TaskDesc) : Except State State :=
  if rung = d.rung then .ok s
  else match s.makeCopy i p d (rungFmts d rung).2.1 with
    | .error t => .error t
    | .ok t =>
      if (rungFmts d rung).2.1 = 2 then .ok t
      else .ok (t.modRun i (fun y => { y with copied := if y.copied.contains j then y.copied else y.copied ++ [j] }))

/-- The launches of task `j` for a run, at a rung: a promoted rung's weights are narrowed first, then the binding
record is written, and the launch records go out in order. -/
def State.launchTask (s : State) (i : TaskId) (p : Program) (j rung : Nat) (mute : Bool) : State :=
  match p.task i.2.1 j with
  | none => s
  | some d =>
    match s.promoteCopy i p j rung d with
    | .error t => t
    | .ok t =>
      if d.nlaunch = 0 then t
      else match t.skipWrite i.1 i.2.1 (d.bind.toNat + 64 * (i.2.2.2 % 4)) (t.bindRecord i.1 p d i.2.2.2 rung) with
        | .error u => u
        | .ok u => u.submitRecords i p j d mute 0 d.nlaunch

/-! ### The step report (R203, Table 6-15) -/

/-- A ladder record's bytes (Table 5-13). -/
def LadderRec.bytes (x : LadderRec) : List Byte :=
  leBytes 4 x.tensor.toNat ++ leBytes 4 x.step.toNat ++ leBytes 2 x.layer ++ leBytes 2 x.mb ++ leBytes 1 x.ctx ++
  leBytes 1 (x.fromR + x.dest * 16) ++ leBytes 1 (b2n x.bwd + b2n x.watch * 2) ++ leBytes 1 0 ++ leBytes 8 x.w.toNat ++
  leBytes 4 x.sats.toNat ++ leBytes 4 x.nonfin.toNat

/-- Micro-batches whose body tasks have all completed. -/
def State.mbsDone (s : State) (r : Nat) (p : Program) : Nat :=
  ((List.range p.mbCount).filter (fun m =>
    p.allRuns.all (fun i => decide (i.2.2 ≠ m) || s.runDone r i || (match p.task i.1 i.2.1 with
      | some d => decide (d.sect ≠ 1)
      | none => true)))).length

/-- The Antenna records of the report tensor ids. -/
def State.reportEntries (s : State) (r n : Nat) (ids : List Word) : List (List Byte) :=
  ids.filterMap (fun t =>
    let e := (s.region r).ant.entry (t.toNat % 4096)
    if e.valid ∧ e.id = t ∧ e.ctx = n then some e.bytes else none)

/-- The report of a region's step. -/
def State.reportBytes (s : State) (r : Nat) (p : Program) (status : Nat) (ids : List Word) : List Byte :=
  let v := s.region r
  let k := v.skip
  let ants := s.reportEntries r k.ctx ids
  leBytes 4 (s.csrAt (oStep k.ctx)).toNat ++ leBytes 1 k.ctx ++ leBytes 1 r ++ leBytes 2 status ++ leBytes 2 (s.mbsDone r p) ++
  leBytes 2 v.ladder.log.length ++ leBytes 1 (b2n v.ladder.overflow + b2n k.foldInv * 2 + b2n k.foldOvf * 4) ++
  leBytes 1 k.overlaps ++ leBytes 2 ants.length ++ leBytes 4 v.ladder.promotions ++ leBytes 4 k.keptHbm ++
  leBytes 4 k.keepMax ++ leBytes 4 k.folds ++ leBytes 4 k.foldsHeld ++ leBytes 4 k.foldElems ++ leBytes 2 v.epoch.toNat ++
  leBytes 22 0 ++ v.ladder.log.flatMap LadderRec.bytes ++ ants.flatten

/-- Report tensor ids. -/
def wordsOf : List Byte → List Word
  | a :: b :: c :: d :: r => BitVec.ofNat 32 (leNat [a, b, c, d]) :: wordsOf r
  | _ => []

/-- The report written at its region's place. -/
def State.writeReport (s : State) (r : Nat) (status : Nat) : Except State State :=
  match s.program r with
  | none => .ok s
  | some p =>
    match s.skipRead r 3 none p.repList.toNat (4 * p.repCount) with
    | .error t => .error t
    | .ok (b, t) => t.skipWrite r 3 (p.report.toNat + 65536 * r) (t.reportBytes r p status (wordsOf b))

/-! ### Stops (R165, R202) -/

/-- A step stops: its report is written, its STEP_GO ends, the context is lost and its task streams are frozen. -/
def State.stopStep (s : State) (r q status : Nat) (code : BitVec 16) (addr : DWord) : State :=
  let n := (s.region r).skip.ctx
  let s := match s.writeReport r status with
    | .ok t => t
    | .error t => t
  let s := (s.goEnd r stStepStopped (BitVec.ofNat 8 status)).setSkip r { (s.region r).skip with st := 4 }
  let v := s.region r
  let s := s.setRegion r { v with ladder := { v.ladder with stopped := v.ladder.stopped || decide (status = 1) } }
  let s := s.loseContext n 3
  let s := (List.range 8).foldl (fun t x =>
    if t.holdsProgram n x then [0, 1, 2, 3].foldl (fun t y => t.freezeStream x y) t else t) s
  s.raise { unit := .geu r, sev := sevF, code := code, master := .stream r q, ctx := some n, addr := addr }

/-! ### The start of a step (R195) -/

/-- The micro-batch table. -/
def tableOf : List Byte → List (Word × Word)
  | a :: b :: c :: d :: e :: f :: g :: h :: r =>
    (BitVec.ofNat 32 (leNat [a, b, c, d]), BitVec.ofNat 32 (leNat [e, f, g, h])) :: tableOf r
  | _ => []

/-- Home accumulators set to zero (R182). -/
def State.zeroAccums (s : State) (r : Nat) : List TensorRec → Except State State
  | [] => .ok s
  | t :: rest =>
    if t.kind ≠ 2 then s.zeroAccums r rest
    else match s.skipWrite r 0 t.b.toNat (List.replicate (2 * t.elems) 0) with
      | .error u => .error u
      | .ok u => match u.skipWrite r 0 t.d.toNat (List.replicate t.elems 0) with
        | .error w => .error w
        | .ok w => w.zeroAccums r rest

/-- References of the instars of a step (R188); a previous instar has none left (Table 6-4). -/
def State.takeRefs (s : State) (r : Nat) (p : Program) : State :=
  let v := s.region r
  s.setRegion r { v with instars := v.instars.foldl (fun m e =>
    insertD {} m e.1 { e.2 with
      prevValid := false, prevRefs := 0, curRefs := p.refs e.1 0
      future := (List.range (p.gen e.1 p.mbCount)).map (fun g => p.refs e.1 (g + 1)) }) [] }

/-- A region may begin the step of its next STEP_GO: no other region of the context still works on an earlier one. -/
def State.mayBegin (s : State) (r : Nat) : Bool :=
  let k := (s.region r).skip
  decide (k.st = 1) && !k.goCmds.isEmpty && (s.ctx k.ctx).st == 1 && !decide (s.host.ctxBusy = some (k.ctx, 7)) &&
  (List.range 8).all (fun x =>
    let j := (s.region x).skip
    !s.holdsProgram k.ctx x || decide (j.st ≠ 2 ∧ j.st ≠ 3) || decide (j.goCmds.head? = k.goCmds.head?))

/-- STEP_START. -/
def execStepStart (r : Nat) (s : State) : Out1 :=
  if 8 ≤ r then .fault .noSuchUnit
  else match s.program r with
    | none => .next s
    | some p =>
      if !s.mayBegin r then .next s
      else
        let s := s.applyB (oReg r 0x11000) 0xFFFF
        match s.skipRead r 0 none p.mbTable.toNat (8 * p.mbCount) with
        | .error t => .next t
        | .ok (b, t) =>
          let n := (t.region r).skip.ctx
          let k := (t.region r).skip
          let mbs := tableOf b
          let part := t.csrF (oReg r 0x11000) 0 16 * 0x100000 / p.inFlight / 65536 * 65536
          let k : Skipper := { loadReason := k.loadReason, st := 2, ctx := n, prog := k.prog, mbs := mbs, goCmds := k.goCmds }
          match placeAll p part 0 mbs with
          | .error m => .next ((t.setSkip r k).stopStep r 0 4 0x0407 (BitVec.ofNat 64 m))
          | .ok (kept, used) =>
            let t := t.setSkip r { k with
              kept := kept, keptHbm := (kept.filter (·.hbm)).length, keepMax := used / 65536 }
            match t.zeroAccums r p.tensors with
            | .error u => .next u
            | .ok u => .next (u.takeRefs r p)

/-! ### Layer tasks (R172, R175, R178, R182) -/

/-- The kept input of a forward task that is the first of its keep block is held from now on (R178, R179). -/
def State.holdKept (s : State) (r : Nat) (d : TaskDesc) (m : Nat) : State :=
  if d.keepb = 0xFFFF then s
  else
    let k := (s.region r).skip
    s.setSkip r { k with kept := k.kept.map (fun x => if x.blk = d.keepb ∧ x.mb = m then { x with held := true } else x) }

/-- FWD_TASK. -/
def execFwdTask (r : Nat) (s : State) : Out1 :=
  startTask 0 1 r s (fun _ _ => true) (fun t p i d =>
    let t := t.holdKept r d i.2.2.2
    t.launchTask i p i.2.2.1 (match t.runOf i with | some x => x.rung | none => d.rung) false)

/-- RECOMP_TASK. -/
def execRecompTask (r : Nat) (s : State) : Out1 :=
  startTask 0 2 r s (fun _ _ => true) (fun t p i d =>
    t.launchTask i p i.2.2.1 (match t.runOf i with | some x => x.rung | none => d.rung) true)

/-- Whether two neighbours of a stream's order are backward tasks of one accumulator. -/
def sameAccum (p : Program) (a : Nat) (x : Option (Nat × Nat)) : Bool :=
  match x with
  | none => false
  | some y => match p.task 0 y.1 with
    | some d => decide (d.kind = 3) && decide (d.accum = a)
    | none => false

/-- The accumulator of a backward task comes straight from the one before it, or goes straight to the next (R182). -/
def Program.fromLast (p : Program) (t m a : Nat) : Bool :=
  let i := (p.sched 0).idxOf (t, m)
  decide (0 < i) && sameAccum p a ((p.sched 0)[i - 1]?)
def Program.toNext (p : Program) (t m a : Nat) : Bool :=
  sameAccum p a ((p.sched 0)[(p.sched 0).idxOf (t, m) + 1]?)

/-- The working accumulator that a backward task starts from, kept so that a trip can discard what the attempt adds
(R163, log entry 136). -/
def State.saveAccum (s : State) (i : TaskId) (a : TensorRec) : State :=
  let n := (s.region i.1).skip.ctx
  match s.peek n a.a.toNat (2 * a.elems), s.peek n a.c.toNat a.elems with
  | some b, some r => s.modRun i (fun y => { y with saved := some (b, r) })
  | _, _ => s

/-- BWD_TASK: the accumulator is copied from home to working, then the launches go out. -/
def execBwdTask (r : Nat) (s : State) : Out1 :=
  startTask 0 3 r s (fun _ _ => true) (fun t p i d =>
    let run (u : State) : State :=
      u.launchTask i p i.2.2.1 (match u.runOf i with | some x => x.rung | none => d.rung) false
    match p.accumulator d.accum with
    | none => run t
    | some a =>
      let go (u : State) : State := run (u.saveAccum i a)
      if p.fromLast i.2.2.1 i.2.2.2 d.accum then go t
      else match t.skipCopy i a.b.toNat a.a.toNat (2 * a.elems) with
        | .error u => u
        | .ok u => match u.skipCopy i a.d.toNat a.c.toNat a.elems with
          | .error w => w
          | .ok w => go w)

/-- The work of a WPREP. -/
def State.prepWeights (s : State) (i : TaskId) (p : Program) (d : TaskDesc) : State :=
  match s.makeCopy i p d d.wfmt with
  | .error t => t
  | .ok t => t.launchTask i p i.2.2.1 d.rung false

/-- WPREP_TASK. -/
def execWprepTask (r : Nat) (s : State) : Out1 := startTask 2 4 r s (fun _ _ => true) (fun t p i d => t.prepWeights i p d)

/-! ### FOLD (R189, R200–R202) -/

/-- An instar entry changed. -/
def State.modInstar (s : State) (r x : Nat) (f : Instar → Instar) : State :=
  let v := s.region r
  s.setRegion r { v with instars := insertD {} v.instars x (f (lookupD {} v.instars x)) }

/-- FOLDs that wait, oldest first, each with its task. -/
def State.waitingFolds (s : State) (r : Nat) (p : Program) : List (TaskRun × TaskDesc) :=
  (s.region r).skip.runs.filterMap (fun y => if y.waiting then (p.task y.q y.t).map (fun d => (y, d)) else none)

/-- FOLD_WAIT of a tensor record: a FOLD waits under R189. -/
def State.foldWaits (s : State) (r x : Nat) : Bool :=
  match s.program r with
  | none => false
  | some p => (s.waitingFolds r p).any (fun y => decide (y.2.tensor = x)) && !s.refsFree r x

/-- Waiting FOLDs on a tensor whose buffer still has references counted, each once (R203). -/
def State.countHeld (s : State) (r x : Nat) (p : Program) : State :=
  if s.refsFree r x then s
  else
    let k := (s.region r).skip
    let on (y : TaskRun) : Bool := y.waiting && !y.held && (match p.task y.q y.t with | some d => decide (d.tensor = x) | none => false)
    s.setSkip r { k with
      foldsHeld := k.foldsHeld + (k.runs.filter on).length
      runs := k.runs.map (fun y => if on y then { y with held := true } else y) }

/-- FOLD_TASK: the FOLD begins to wait for a free buffer and its ready word. -/
def execFoldTask (r : Nat) (s : State) : Out1 :=
  startTask 2 5 r s (fun _ _ => true) (fun t p i d =>
    let t := (t.applyB (oReg r 0x11000) 0xFF0000).modRun i (fun y => { y with waiting := true })
    (t.countHeld r d.tensor p).launchTask i p i.2.2.1 d.rung false)

/-- The length of an exchange payload (R200): deltas padded to 32 with their scales, or bf16. -/
def payloadLen (h : List Byte) : Nat :=
  let n := leAt h 24 4
  if leAt h 10 1 = 3 then 2 * n else (n + 31) / 32 * 33

/-- Where the ready word stands (log entry 41). -/
def readyAddr (arg : DWord) (h : List Byte) : Nat := arg.toNat + 32 + (payloadLen h + 7) / 8 * 8

/-- The value of the ready word that lets a FOLD of a header go. -/
def readyWord (h : List Byte) : Nat := 0x80000000 + leAt h 4 4

/-- The ready word of a waiting FOLD has come, or its staging area cannot be read. -/
def State.foldReady (s : State) (r : Nat) (d : TaskDesc) : Bool :=
  let n := (s.region r).skip.ctx
  match s.peek n d.arg.toNat 32 with
  | none => true
  | some h => match s.peek n (readyAddr d.arg h) 8 with
    | none => true
    | some w => decide (leNat w = readyWord h)

/-- A waiting FOLD can be looked at. -/
def State.foldLooks (s : State) (r : Nat) (x : TaskRun × TaskDesc) : Bool :=
  s.bufferFree r x.2.tensor && !s.refetching r x.2.tensor && s.foldReady r x.2

/-- The first waiting FOLD that can go, with none before it on its tensor. -/
def State.nextFoldTask (s : State) (r : Nat) : List (TaskRun × TaskDesc) → List Nat → Option (TaskRun × TaskDesc)
  | [], _ => none
  | x :: rest, seen =>
    if !seen.contains x.2.tensor && s.foldLooks r x then some x
    else s.nextFoldTask r rest (x.2.tensor :: seen)

/-- The new pairs of a tensor: `sent` lists, in order, the elements that the payload carries, each with its code
and scale, or with its bf16 bits where full weights are sent. Masters, residues, flags, and how many raised one. -/
def foldPairs (full : Bool) : Nat → List Byte → List Byte → List (Nat × Nat × Nat) → List Byte × List Byte × Nat × Nat
  | i, b0 :: b1 :: bs, r :: rs, sent =>
    let here := match sent with
      | (j, a, c) :: rest => if j = i then some (a, c, rest) else none
      | [] => none
    match here with
    | none =>
      let x := foldPairs full (i + 1) bs rs sent
      (b0 :: b1 :: x.1, r :: x.2.1, x.2.2)
    | some (a, c, rest) =>
      let y := if full then (a, 0, 0) else resFold (b0.toNat + 256 * b1.toNat) r.toNat (mxValue e4m3 a c)
      let x := foldPairs full (i + 1) bs rs rest
      (leBytes 2 y.1 ++ x.1, BitVec.ofNat 8 y.2.1 :: x.2.1, fOr y.2.2 x.2.2.1, b2n (decide (y.2.2 ≠ 0)) + x.2.2.2)
  | _, _, _, _ => ([], [], 0, 0)

/-- The elements that a payload carries (R181, R201): masked ones among them stay as they are. In a packed payload the
first element index counts trained elements, as the element count does (DESIGN CHOICE, log entry 129). -/
def sentElems (w : TensorRec) (mask h payload : List Byte) : List (Nat × Nat × Nat) :=
  let n := leAt h 24 4
  let first := leAt h 16 8
  let ids := if leAt h 28 1 % 2 = 1 then (((List.range w.elems).filter (trained w mask)).drop first).take n
    else (List.range n).map (first + ·)
  let pad := (n + 31) / 32 * 32
  let all := ids.mapIdx (fun k i =>
    if leAt h 10 1 = 3 then (i, leAt payload (2 * k) 2, 0)
    else (i, leAt payload k 1, leAt payload (pad + k / 32) 1))
  all.filter (fun x => trained w mask x.1)

/-- References that a completed task gives up (R188): micro-batch `m`'s goes with the last of its tasks that name the
tensor. -/
def State.dropRefs (s : State) (r : Nat) (p : Program) (d : TaskDesc) (m : Nat) : State :=
  if (p.weight d.tensor).isNone || decide (p.mbCount ≤ m) || !p.readsIn d.tensor m ||
      (p.namers d.tensor m).any (fun i => !s.runDone r i) then s
  else
    let back := s.foldsDone r d.tensor p - p.gen d.tensor m
    s.modInstar r d.tensor (fun e =>
      if back = 0 then { e with curRefs := e.curRefs - 1 } else if back = 1 then { e with prevRefs := e.prevRefs - 1 } else e)

/-- A FOLD's own work has ended: it has completed once its launches have, too (R191). -/
def State.foldEnds (s : State) (i : TaskId) (p : Program) (d : TaskDesc) : State :=
  let s := s.modRun i (fun y => { y with waiting := false, applied := true, done := decide (y.open' = 0) })
  if s.runDone i.1 i.2 then s.dropRefs i.1 p d i.2.2.2 else s

/-- The fold itself, once header and payload are there (R189, R201). -/
def State.applyFold (s : State) (i : TaskId) (p : Program) (d : TaskDesc) (w : TensorRec) (h payload : List Byte) : State :=
  let x := d.tensor
  let e := lookupD {} (s.region i.1).instars x
  let src := if e.curBuf then (w.b, w.d) else (w.a, w.c)
  let dst := if e.curBuf then (w.a, w.c) else (w.b, w.d)
  match s.skipRead i.1 2 (some i) src.1.toNat (2 * w.elems) with
  | .error t => t
  | .ok (b, t) => match t.skipRead i.1 2 (some i) src.2.toNat w.elems with
    | .error u => u
    | .ok (r, u) => match u.skipMask i w with
      | .error a => a
      | .ok (m, a) =>
        let y := foldPairs (leAt h 10 1 == 3) 0 b r (sentElems w m h payload)
        match a.skipWrite i.1 2 dst.1.toNat y.1 with
        | .error v => v
        | .ok v => match v.skipWrite i.1 2 dst.2.toNat y.2.1 with
          | .error z => z
          | .ok z =>
            let z := if y.2.2.1 = 0 then z else z.noteFold i y.2.2.1 y.2.2.2
            let k := (z.region i.1).skip
            ((((z.setSkip i.1 { k with folds := k.folds + 1 }).modInstar i.1 x (fun e => { e with
              current := e.current + 1, curBuf := !e.curBuf, prevValid := true, prevRefs := e.curRefs
              curRefs := e.future.headD 0, future := e.future.drop 1 })).foldEnds i p d).countHeld i.1 x p)

/-- FOLD_APPLY: the next FOLD whose ready word has come checks its header and writes the new instar. -/
def execFoldApply (r : Nat) (s : State) : Out1 :=
  if 8 ≤ r then .fault .noSuchUnit
  else match s.program r with
    | none => .next s
    | some p =>
      if !s.mayRun r 2 then .next s
      else match s.nextFoldTask r (s.waitingFolds r p) [] with
        | none => .next s
        | some (y, d) =>
          let i : TaskId := (r, y.q, y.t, y.m)
          match p.weight d.tensor with
          | none => .next (s.foldEnds i p d)
          | some w => match s.skipRead r 2 (some i) d.arg.toNat 32 with
            | .error t => .next t
            | .ok (h, t) => match t.skipRead r 2 (some i) (readyAddr d.arg h) 8 with
              | .error u => .next u
              | .ok (v, u) =>
                if leNat v ≠ readyWord h then .next u
                else match u.skipRead r 2 (some i) (d.arg.toNat + 32) (payloadLen h) with
                  | .error u => .next u
                  | .ok (b, u) =>
                    let e := lookupD {} (u.region r).instars d.tensor
                    if (leAt h 10 1 ≠ 2 ∧ leAt h 10 1 ≠ 3) ∨ leAt h 0 4 ≠ w.id.toNat ∨ leAt h 12 2 ≠ e.current.toNat then
                      .next (u.stopStep r 2 3 0x0406 (w.id.setWidth 64))
                    else .next (u.applyFold i p d w h b)

/-- FOLD_TIMEOUT: the time of REG_SKIP_CFG.FOLD_TIMEOUT has passed since a FOLD began to wait under R189 or for its
ready word; zero means none. -/
def execFoldTimeout (r : Nat) (s : State) : Out1 :=
  if 8 ≤ r then .fault .noSuchUnit
  else match s.program r with
    | none => .next s
    | some p =>
      if !s.mayRun r 2 || s.csrF (oReg r 0x11000) 16 8 == 0 then .next s
      else match (s.waitingFolds r p).filter (fun x => !s.refsFree r x.2.tensor || !s.foldReady r x.2) with
        | [] => .next s
        | (_, d) :: _ => .next (s.stopStep r 2 2 0x0405 (match p.weight d.tensor with | some w => w.id.setWidth 64 | none => 0))

/-! ### COLL, RING and SEND (R194, R198–R200) -/

/-- A task's descriptor can go: its channel is not at work for its context. -/
def State.collRoom (s : State) (i : TaskId) (d : TaskDesc) : Bool :=
  let n := (s.region i.1).skip.ctx
  match s.peek n d.arg.toNat 128 with
  | some b => !s.descWaits i.1 n b
  | none => true

/-- The trained elements of a masked weight, as a task reads its mask; none for any other tensor. -/
def State.packOf (s : State) (i : TaskId) (w : Option TensorRec) : Except State (Option (List Nat) × State) :=
  match w with
  | some t =>
    if t.masked then
      match s.skipMask i t with
      | .error u => .error u
      | .ok (m, u) => .ok (some (trainedOf t m), u)
    else .ok (none, s)
  | none => .ok (none, s)

/-- A task's collective put to work with the epoch in force; a reduction on a masked weight goes packed (R181). -/
def State.startCollTask (s : State) (p : Program) (i : TaskId) (d : TaskDesc) : State :=
  match s.skipRead i.1 i.2.1 (some i) d.arg.toNat 128 with
  | .error t => t
  | .ok (b, t) => match t.packOf i (p.weight d.tensor) with
    | .error u => u
    | .ok (pack, u) =>
      let t := (u.modRun i (fun y => { y with open' := y.open' + 1 })).launchTask i p i.2.2.1 d.rung false
      t.startDesc i.1 (t.region i.1).skip.ctx b (fun x => { x with task := some i.2, pack := if x.fmt = 0xFF then none else pack })

/-- COLL_TASK. -/
def execCollTask (r : Nat) (s : State) : Out1 :=
  startTask 1 6 r s (fun i d => s.collRoom i d) (fun t p i d => t.startCollTask p i d)

/-- RING_TASK. -/
def execRingTask (r : Nat) (s : State) : Out1 :=
  startTask 1 7 r s (fun i d => s.collRoom i d) (fun t p i d => t.startCollTask p i d)

/-- The lowest idle channel that is bound to a context. -/
def State.idleChannel (s : State) (r n : Nat) : Option Nat :=
  (List.range 16).find? (fun c => s.ceBound r c n && !(s.ceChan r c).busy && !(s.ceChan r c).frozen)

/-- The bytes that a SEND carries (R184, R200, Table 6-13). -/
def sendBytes (step : Nat) (instar : BitVec 16) (id : Word) (d : TaskDesc) (packed : Bool) (ids : List Nat) (b r : List Byte) : List Byte :=
  let fmt := if d.rung = 3 then 2 else 4
  leBytes 4 id.toNat ++ leBytes 4 step ++ leBytes 2 d.layer ++ leBytes 1 1 ++ leBytes 1 fmt ++ leBytes 2 instar.toNat ++
  leBytes 2 0 ++ leBytes 8 0 ++ leBytes 4 ids.length ++ leBytes 1 (b2n packed) ++ leBytes 3 0 ++
  ids.flatMap (fun i => leBytes (ceSize fmt) (toFloat ((fmtOf fmt).getD bf16) .near true true (pairVal (leAt b (2 * i) 2) (leAt r i 1))).bits)

/-- The layer whose gradient an accumulator holds. -/
def Program.accumLayer (p : Program) (a : Nat) : Option Nat :=
  ((p.stream 0).find? (fun d => decide (d.kind = 3) && decide (d.accum = a))).map (·.layer)

/-- A SEND reads the working copy where the last copy back was left out (R198, log entry 42). -/
def Program.sendsWorking (p : Program) (a : Nat) : Bool :=
  match p.accumLayer a with
  | some j => p.finalOf j && p.overlaps j
  | none => false

/-- A SEND put to work: the gradient goes to the host address in ARG, behind its header. -/
def State.sendTask (s : State) (p : Program) (i : TaskId) (d : TaskDesc) : State :=
  let r := i.1
  let n := (s.region r).skip.ctx
  match s.idleChannel r n, p.accumulator d.accum with
  | some c, some a =>
    let m := (addrNode d.arg, addrWindow d.arg)
    let x : Xfer := { Xfer.blank xfSend n (s.job n) with started := true, members := [m], task := some i.2, epoch := (s.region r).epoch }
    let t := (s.modRun i (fun y => { y with open' := y.open' + 1 })).setCeChan r c { s.ceChan r c with busy := true, xfer := some x }
    let work := p.sendsWorking d.accum
    match t.ceRead r c n (if work then a.a.toNat else a.b.toNat) (2 * a.elems) with
    | .error u => u
    | .ok (b, u) => match u.ceRead r c n (if work then a.c.toNat else a.d.toNat) a.elems with
      | .error v => v
      | .ok (e, v) => match v.packOf i (p.weight d.tensor) with
        | .error v => v
        | .ok (pack, v) =>
          let cur := (lookupD {} (v.region r).instars d.tensor).current
          let id := match p.weight d.tensor with | some w => w.id | none => a.id
          let data := sendBytes (v.csrAt (oStep n)).toNat cur id d pack.isSome (pack.getD (List.range a.elems)) b e
          (v.ceQueue r c (ceFrames { x with epoch := 0 } c opPut m (addrOffset d.arg).toNat data)).launchTask i p i.2.2.1 d.rung false
  | _, _ => s.launchTask i p i.2.2.1 d.rung false

/-- SEND_TASK. -/
def execSendTask (r : Nat) (s : State) : Out1 :=
  startTask 3 8 r s (fun _ _ => (s.idleChannel r (s.region r).skip.ctx).isSome) (fun t p i d => t.sendTask p i d)

/-! ### Completion of a task (R162–R165, R179, R188, R348) -/

/-- What the watched entries of a task hold (R162): S, W and NONFIN summed, SATS, and the first watch that fails. -/
structure Watch where
  w      : Nat := 0
  sats   : Nat := 0
  nonfin : Nat := 0
  fails  : Option Word := none
  deriving DecidableEq, Repr

/-- The watched entries of a task read; `acc` are the tensor ids that it has drained with ACC = 1 (R164). An entry that
holds another tensor of the context counts as one that is not valid (DESIGN CHOICE, log entry 127). -/
def State.watchOf (s : State) (r n : Nat) (p : Program) (acc : List Word) (l : List Word) : Watch :=
  l.foldl (fun a t =>
    if t = 0 then a
    else
      let e := (s.region r).ant.entry (t.toNat % 4096)
      let fail (x : Watch) : Watch := if x.fails.isNone then { x with fails := some t } else x
      if acc.contains t || p.tensors.any (fun x => decide (x.kind = 2) && decide (x.id = t)) then fail a
      else if e.valid ∧ e.id = t ∧ e.ctx = n then
        { a with w := a.w + e.written.toNat, sats := a.sats + e.sats.toNat, nonfin := a.nonfin + e.nonfin.toNat }
      else if e.collide ≠ 0 then fail a
      else a) {}

/-- The test of R162. -/
def trips (cfg : Word) (x : Watch) : Bool :=
  bit cfg 26 && (decide (fld cfg 0 24 * x.w < (x.sats + x.nonfin) * 2 ^ 24) || (bit cfg 24 && decide (x.nonfin ≠ 0)))

/-- A ladder record written, or lost where the log is full (R166). -/
def State.logLadder (s : State) (r : Nat) (x : LadderRec) (trip : Bool) : State :=
  let v := s.region r
  let l := v.ladder
  let full := decide (64 ≤ l.log.length)
  s.setRegion r { v with ladder := { l with
    log := if full then l.log else l.log ++ [x], overflow := l.overflow || full, promotions := l.promotions + b2n trip } }

/-- The record of an attempt. -/
def State.ladderRec (s : State) (i : TaskId) (d : TaskDesc) (rung dest : Nat) (x : Watch) (watch : Bool) : LadderRec :=
  let n := (s.region i.1).skip.ctx
  { tensor := (d.watch.find? (fun t => decide (t ≠ 0))).getD 0, step := s.csrAt (oStep n), layer := d.layer, mb := i.2.2.2
    ctx := n, fromR := rung, dest := dest, bwd := decide (d.kind = 3), watch := watch, w := BitVec.ofNat 64 x.w
    sats := BitVec.ofNat 32 x.sats, nonfin := BitVec.ofNat 32 x.nonfin }

/-- The next part of a repeat, or of a task that has none, the task itself. -/
def State.launchNext (s : State) (i : TaskId) (p : Program) (d : TaskDesc) (x : TaskRun) : State :=
  match x.steps with
  | [] => s
  | j :: rest =>
    let s := s.modRun i (fun y => { y with steps := rest })
    if j = i.2.2.1 then
      (if d.kind = 4 then s.prepWeights i p d else s.launchTask i p j x.rung (decide (d.kind = 2)))
    else
      let rung := match s.runOf (i.1, i.2.1, j, i.2.2.2) with
        | some y => y.rung
        | none => match p.task i.2.1 j with | some e => e.rung | none => 0
      s.launchTask i p j rung true

/-- An attempt's outputs discarded (R163): what it has added to its working accumulator is taken back; its other
outputs are written again by the repeat. -/
def State.discardAttempt (s : State) (i : TaskId) (p : Program) (d : TaskDesc) : Except State State :=
  match (s.runOf i).bind (·.saved), p.accumulator d.accum with
  | some (b, r), some a =>
    match s.skipWrite i.1 i.2.1 a.a.toNat b with
    | .error t => .error t
    | .ok t => t.skipWrite i.1 i.2.1 a.c.toNat r
  | _, _ => .ok s

/-- A task repeated (R163, R348): watched entries cleared, the attempt's outputs discarded, then the earlier layers of
its keep block, muted, and the task itself, at a rung. -/
def State.repeatTask (s : State) (i : TaskId) (p : Program) (d : TaskDesc) (rung : Nat) : State :=
  let s := d.watch.foldl (fun t w => if w = 0 then t else t.antClearOne i.1 (w.toNat % 4096)) s
  match s.discardAttempt i p d with
  | .error t => t
  | .ok s =>
    let s := s.modRun i (fun y => { y with rung := rung, tainted := false, accIds := [], steps := p.earlier i.2.2.1 ++ [i.2.2.1] })
    match s.runOf i with
    | some x => s.launchNext i p d x
    | none => s

/-- A trip (R163–R165). -/
def State.tripTask (s : State) (i : TaskId) (p : Program) (d : TaskDesc) (x : TaskRun) (w : Watch) : State :=
  if 3 ≤ x.rung then
    (s.logLadder i.1 (s.ladderRec i d x.rung 0xF w false) true).stopStep i.1 i.2.1 1 0x0402 (s.taskAddr i)
  else
    let dest := nextRung x.rung
    let s := (s.logLadder i.1 (s.ladderRec i d x.rung dest w false) true).raise {
      unit := .geu i.1, sev := sevC, code := 0x0401, master := .stream i.1 i.2.1, ctx := some (s.region i.1).skip.ctx
      addr := s.taskAddr i }
    let v := s.region i.1
    let s := if s.csrF (oReg i.1 0x10100) 25 1 = 1 then
        s.setRegion i.1 { v with ladder := { v.ladder with sticky := v.ladder.sticky ++ [(d.layer, b2n (decide (d.kind = 3)), dest)] } }
      else s
    s.repeatTask i p d dest

/-- A kept input released with the last backward task of its keep block (R179). -/
def State.releaseKept (s : State) (r : Nat) (p : Program) (d : TaskDesc) (m : Nat) : State :=
  match (if d.kind = 3 then p.blockOf d.layer else none) with
  | none => s
  | some b =>
    let left := (p.sched 0).any (fun y => decide (y.2 = m) && (match p.task 0 y.1 with
      | some e => decide (e.kind = 3) && decide (p.blockOf e.layer = some b) && !s.runDone r (0, y.1, y.2)
      | none => false))
    if left then s
    else
      let k := (s.region r).skip
      s.setSkip r { k with kept := k.kept.map (fun x => if x.blk = b ∧ x.mb = m then { x with held := false } else x) }

/-- The copies that end a task: its accumulator back home (R182, R198), and the stream copy that a promotion has
replaced made again (log entry 39). -/
def State.copyBack (s : State) (i : TaskId) (p : Program) (d : TaskDesc) (x : TaskRun) : Except State State :=
  let home : Except State State :=
    match (if d.kind = 3 then p.accumulator d.accum else none) with
    | none => .ok s
    | some a =>
      if p.toNext i.2.2.1 i.2.2.2 d.accum || (decide (i.2.2.2 + 1 = p.mbCount) && p.sendsWorking d.accum) then .ok s
      else match s.skipCopy i a.a.toNat a.b.toNat (2 * a.elems) with
        | .error t => .error t
        | .ok t => t.skipCopy i a.c.toNat a.d.toNat a.elems
  match home with
  | .error t => .error t
  | .ok t => x.copied.foldl (fun a j => match a, p.task i.2.1 j with
    | .ok u, some e => u.makeCopy i p e e.wfmt
    | a, _ => a) (.ok t)

/-- The shard descriptor of a layer task's output (R193), at the address in ARG, none where it is zero. The step program
gives the Skipper no rows and columns, and a task that watches nothing no tensor id: open values (log entry 137). -/
def State.writeShard (s : State) (i : TaskId) (d : TaskDesc) (rung : Nat) : Except State State :=
  if d.arg = 0 ∨ d.kind = 0 ∨ 3 < d.kind then .ok s
  else
    let id := s.free
    let rows := id.2.free
    let cols := rows.2.free
    let t := (d.watch.find? (fun t => decide (t ≠ 0))).getD (BitVec.ofNat 32 id.1.toNat)
    cols.2.skipWrite i.1 i.2.1 d.arg.toNat (leBytes 4 t.toNat ++ leBytes 2 i.2.2.2 ++ leBytes 1 (rungFmts d rung).2.2 ++
      leBytes 1 rung ++ leBytes 4 rows.1.toNat ++ leBytes 4 cols.1.toNat ++ leBytes 16 0)

/-- A task has completed. -/
def State.finishTask (s : State) (i : TaskId) (p : Program) (d : TaskDesc) (x : TaskRun) : State :=
  match (match s.copyBack i p d x with | .ok t => t.writeShard i d x.rung | .error t => .error t) with
  | .error t => t
  | .ok t =>
    let t := t.modRun i (fun y => { y with done := true })
    let k := (t.region i.1).skip
    let t := if d.kind = 3 ∧ d.overlap ∧ i.2.2.2 + 1 = p.mbCount then t.setSkip i.1 { k with overlaps := k.overlaps + 1 } else t
    (t.dropRefs i.1 p d i.2.2.2).releaseKept i.1 p d i.2.2.2

/-- The ladder's check of a task whose launches have completed (R162). -/
def State.checkTask (s : State) (i : TaskId) (p : Program) (d : TaskDesc) (x : TaskRun) : State :=
  if d.kind ≠ 1 ∧ d.kind ≠ 3 then s.finishTask i p d x
  else
    let s := s.applyB (oReg i.1 0x10100) 0x05FFFFFF
    let w := s.watchOf i.1 (s.region i.1).skip.ctx p x.accIds d.watch
    match w.fails with
    | some t =>
      if s.csrF (oReg i.1 0x10100) 26 1 = 0 then s.finishTask i p d x
      else (s.logLadder i.1 (s.ladderRec i d x.rung 0xF w true) false).stopStep i.1 i.2.1 1 0x0403 (t.setWidth 64)
    | none => if trips (s.csrAt (oReg i.1 0x10100)) w then s.tripTask i p d x w else s.finishTask i p d x

/-- SKIPPER_TASK_COMPLETE: the launches, transfers and copies that a started task has out have all completed. -/
def execSkipperTaskComplete (r q t m : Nat) (s : State) : Out1 :=
  if 8 ≤ r ∨ 4 ≤ q then .fault .noSuchUnit
  else
    let i : TaskId := (r, q, t, m)
    match s.program r, s.runOf i, s.taskDesc i with
    | some p, some x, some d =>
      if x.done || x.waiting || decide (0 < x.open') || !s.mayRun r q || d.kind == 9 then .next s
      else if x.tainted then
        (if s.refetching r d.tensor then .next s
         else if 1 ≤ d.kind ∧ d.kind ≤ 4 then .next (s.repeatTask i p d x.rung)
         else
           let t := s.modRun i (fun y => { y with tainted := false })
           if d.kind = 6 ∨ d.kind = 7 then (if s.collRoom i d then .next (t.startCollTask p i d) else .next s)
           else if d.kind = 8 then
             (if (s.idleChannel r (s.region r).skip.ctx).isSome then .next (t.sendTask p i d) else .next s)
           else .next t)
      else if !x.steps.isEmpty then .next (s.launchNext i p d x)
      else .next (s.checkTask i p d x)
    | _, _, _ => .next s

/-! ### The end of a step (R196, R203) -/

/-- Every task of the step but END has completed. -/
def State.allDone (s : State) (r : Nat) (p : Program) : Bool :=
  p.allRuns.all (fun i => s.runDone r i || (match p.task i.1 i.2.1 with | some d => d.kind == 9 | none => true))

/-- END_TASK: the report is written, and the step of the region ends. -/
def execEndTask (r : Nat) (s : State) : Out1 :=
  startTask 3 9 r s (fun _ _ => match s.program r with | some p => s.allDone r p | none => false) (fun t _ i _ =>
    match t.writeReport r 0 with
    | .error u => u
    | .ok u =>
      let u := u.modRun i (fun y => { y with done := true })
      u.setSkip r { (u.region r).skip with st := 3 })

/-- The ladder of a region at a step boundary (R166, Table 5-14, Table 5-15). -/
def State.clearLadder (s : State) (r : Nat) : State :=
  let s := s.applyB (oReg r 0x10100) 0x02000000
  let v := s.region r
  s.setRegion r { v with ladder := { v.ladder with log := [], overflow := false, promotions := 0, sticky := [] } }

/-- The regions that work on one step of context `n`: those whose first STEP_GO is the one that an ended region has. -/
def State.stepRegions (s : State) (n : Nat) : List Nat :=
  let rs := (List.range 8).filter (fun r => s.holdsProgram n r)
  match rs.find? (fun r => decide ((s.region r).skip.st = 3)) with
  | none => []
  | some e => rs.filter (fun r => decide ((s.region r).skip.goCmds.head? = (s.region e).skip.goCmds.head?))

/-- CHIP_SR_STEP at a step boundary (R153, R196). -/
def State.advanceStep (s : State) (n : Nat) : State :=
  if (find s.csrPend (oStep n)).isSome then s.applyB (oStep n)
  else match s.progRegions n with
    | [] => s
    | lead :: _ => if s.csrF (oReg lead 0x11000) 24 1 = 1 then s.setCsr (oStep n) (s.csrAt (oStep n) + 1) else s

/-- STEP_BOUNDARY: the last region ends the step of context `n`. -/
def execStepBoundary (n : Nat) (s : State) : Out1 :=
  if 64 ≤ n then .fault .noSuchUnit
  else
    let rs := s.stepRegions n
    if rs.isEmpty || rs.any (fun r => decide ((s.region r).skip.st ≠ 3)) || (s.ctx n).st != 1 then .next s
    else
      let s := (List.range 8).foldl (fun t r => if t.holdsProgram n r then t.applyB (oReg r 0x11000) 0x1000000 else t) s
      let s := s.advanceStep n
      let s := rs.foldl (fun t r => t.clearLadder r) s
      let s := s.goEnd (rs.headD 0) stOk 0
      let s := rs.foldl (fun t r =>
        let k := (t.region r).skip
        t.setSkip r { k with st := 1, goCmds := k.goCmds.drop 1, runs := [], streams := [{}, {}, {}, {}], kept := [] }) s
      .next (s.chryBoundary n)

/-! ### Refetches (R349) -/

/-- Stream copies of a tensor made again from its buffers, as WPREP makes them. -/
def State.remakeCopies (s : State) (r x : Nat) : List (Bool × Nat) → State
  | [] => s
  | (buf, wfmt) :: rest =>
    match (s.program r).bind (·.weight x) with
    | none => s
    | some w => match s.skipRead r 2 none (copyAddr w buf 2) (2 * w.elems) with
      | .error t => t
      | .ok (b, t) => match t.skipWrite r 2 (copyAddr w buf wfmt) (narrow wfmt (bf16Vals b)) with
        | .error u => u
        | .ok u => u.remakeCopies r x rest

/-- A write of REG_ERR_REFETCH: GO ends the refetch of TENSOR, whose copies made since the event are made again; the
tainted task is then repeated. -/
def State.refetchGo (s : State) (r : Nat) (v : Word) : State :=
  let x := fld v 0 10
  if !bit v 31 then s
  else
    let k := s.region r
    let copies := (k.refetch.filter (fun f => decide (f.tensor = x))).flatMap (·.copies)
    (s.setRegion r { k with refetch := k.refetch.filter (fun f => decide (f.tensor ≠ x)) }).remakeCopies r x copies

/-- REFETCH_TIMEOUT: GO has not come in the time of CHIP_ERR_CFG.REFETCH_TIMEOUT; zero means none. -/
def execRefetchTimeout (r x : Nat) (s : State) : Out1 :=
  if 8 ≤ r then .fault .noSuchUnit
  else if s.csrF oErrCfg 16 8 = 0 then .next s
  else match (s.region r).refetch.find? (fun f => decide (f.tensor = x)) with
    | none => .next s
    | some f =>
      let k := s.region r
      let s := s.setRegion r { k with refetch := k.refetch.filter (fun y => decide (y.tensor ≠ x)) }
      .next (match f.task with
        | some t => s.taintStop (r, t)
        | none => s.taintWeights r)

end Sys2Proof.Machine
end

