-- ==== Sys2Proof/Machine/RegView.lean ====
section
/-! DEFINITION. What a read of each control space register returns (R367, R368, and the register tables of chapters
1 to 12): the fields that software writes, beside the views of what the device holds. -/

namespace Sys2Proof.Machine

/-- A cell of a region in service whose window still reads: not fenced, or with groups whose state the freeze kept
(R368). -/
def State.cellReads (s : State) (c : Nat) : Bool :=
  s.regionUp (cellRegion c) && (!(s.cell c).fenced || !(s.cell c).groups.isEmpty)

/-- The same of a block's registers. -/
def State.blockReads (s : State) (b : Nat) : Bool :=
  s.regionUp (blockRegion b) && (!(s.block b).fenced || s.blockResident b)

/-- Whether a register's unit can be read (R368). -/
def State.unitReads (s : State) : UnitAt → Bool
  | .reg r => s.regionUp r
  | .blk b => s.blockReads b
  | .cell c => s.cellReads c
  | _ => true

/-- Whether a register's unit takes writes (R368). -/
def State.unitWrites (s : State) : UnitAt → Bool
  | .reg r => s.regionUp r
  | .blk b => s.regionUp (blockRegion b) && !(s.block b).fenced
  | .cell c => s.cellUp c
  | _ => true

/-- Word `k` of a record. -/
def recWord (b : List Byte) (k : Nat) : Nat := leAt b (4 * k) 4

/-- An error unit's registers (Table 11-11). -/
def ErrUnit.view (u : ErrUnit) (o : Nat) : Nat :=
  if o < 0x20 then (match u.first with | some e => recWord e.bytes (o / 4) | none => 0)
  else if o = 0x20 then u.overflow.toNat + u.escalated.toNat * 2 ^ 16 + u.uncorr.toNat * 2 ^ 24
  else 0

/-! ### Cells and blocks -/

/-- CELL_GROUP_INFO of a group (Table 2-11). -/
def Group.info (v : Group) : Nat :=
  let st := match v.st with | .running => 1 | .atBarrier _ => 2 | .frozen => 3 | .exiting => 4
  v.ctx + v.regs * 256 + v.slots.toNat * 65536 + st * 2 ^ 24

/-- A mask of group slots. -/
def slotMask (k : Cell) (p : Group → Bool) : Nat := k.groups.foldl (fun a g => a + b2n (p g.2) * 2 ^ g.1) 0

/-- CELL_STATUS (Table 2-9). -/
def Cell.status (k : Cell) : Nat :=
  k.groups.length + (64 - k.regsUsed / 512) * 256 + (64 - k.unitsUsed.length) * 65536 + (~~~k.slotsUsed).toNat * 2 ^ 24

/-- CELL_MX_SLOT (Table 4-18): a slot's owner, and the problem that covers it. -/
def Cell.mxSlot (k : Cell) (m : Nat) : Nat :=
  let t := lookupD {} k.tags m
  let p := lookupD {} k.tags t.baseSlot
  if !t.owned then 0
  else t.owner + 16 + b2n t.base * 32 + p.pk.toNat * 64 + b2n p.qk * 256 + b2n p.xr * 512 + b2n p.int * 1024 +
    (p.rows - 1) * 4096 + (p.cols - 1) * 65536 + t.baseSlot * 2 ^ 24

/-- CELL_MX_STATUS (Table 4-16). -/
def State.mxStatus (s : State) (c : Nat) : Nat :=
  let waits := (s.running c .compute).any (fun e => e.2.opc == 0xC5 && decide (e.2.kdone < e.2.need))
  b2n (!(s.running c .compute).isEmpty) + b2n (!(s.running c .load).isEmpty) * 2 + b2n (!(s.running c .drain).isEmpty) * 4 +
  b2n waits * 8 + slotMask (s.cell c) (fun v => !v.mxq.isEmpty) * 65536

/-- A cell window's registers. -/
def State.cellView (s : State) (c o : Nat) : Nat :=
  let k := s.cell c
  if o = 0x004 then k.status
  else if o = 0x008 then slotMask k Group.isFrozen + slotMask k (fun v => match v.st with | .atBarrier _ => true | _ => false) * 65536
  else if inArr o 0x040 4 16 then (match find k.groups ((o - 0x040) / 4) with | some v => v.info | none => 0)
  else if o = 0x080 then s.mxStatus c
  else if inArr o 0x0A0 4 8 then k.mxSlot ((o - 0x0A0) / 4)
  else if 0x0C0 ≤ o ∧ o < 0x0E8 then k.err.view (o - 0x0C0)
  else if o = 0x100 then slotMask k (fun v => v.halted)
  else 0

/-- BLK_WCAST_STATE (Table 4-20). -/
def State.wcastState (s : State) (b c : Nat) : Nat :=
  let k := s.chan b c
  match k.q with
  | [] => b2n k.frozen * 2
  | w :: r => 1 + b2n k.frozen * 2 + w.ctx * 4 + r.length * 256 + (s.subscribers b w).foldl (fun a i => a + 2 ^ i) 0 * 65536

/-- A block's registers. -/
def State.blkView (s : State) (b o : Nat) : Nat :=
  let k := s.block b
  if o = 0x0F4 then
    let blocked := match k.launchQ with | x :: _ => !s.fitsNow b x | [] => false
    k.launchQ.length + b2n blocked * 65536 + (s.freeBars b).length * 2 ^ 24
  else if inArr o 0x100 4 64 then
    let x := lookupD {} k.bars ((o - 0x100) / 4)
    x.word
  else if inArr o 0x210 4 4 then s.wcastState b ((o - 0x210) / 4)
  else if inArr o 0x220 4 4 then (match (s.chan b ((o - 0x220) / 4)).q with | w :: _ => w.beats - w.granted | [] => 0)
  else if 0x400 ≤ o ∧ o < 0x428 then k.err.view (o - 0x400)
  else if 0x500 ≤ o ∧ o < 0x540 then
    let x := lookupD {} k.win.latches ((o - 0x500) / 16)
    recWord (leBytes 8 x.count.toNat ++ leBytes 8 x.seq.toNat) ((o - 0x500) % 16 / 4)
  else if o = 0x540 then min k.win.steps 255
  else 0

/-! ### Regions -/

/-- An entry of the Antenna table: words 1 to 7 come from the shadow that a read of its word 0 latched (R160). -/
def Antenna.view (a : Antenna) (o : Nat) : Nat :=
  let n := o / 32
  let e := match a.shadow with
    | some (m, x) => if m = n ∧ o % 32 ≠ 0 then x else a.entry n
    | none => a.entry n
  recWord e.bytes (o % 32 / 4)

/-- What a started FOLD waits for (Table 6-18, R349, R358): the end of a refetch, its buffer, or its ready word. -/
def State.foldCode (s : State) (r : Nat) (d : TaskDesc) : Nat :=
  if s.refetching r d.tensor then 1
  else if !s.bufferFree r d.tensor then 2
  else if s.foldReady r d then 0 else 3

/-- The WAIT code of a stream (Table 6-18): of its next run, else a FOLD's wait for its ready word. -/
def State.streamWait (s : State) (r q : Nat) : Nat :=
  let k := (s.region r).skip
  if k.st ≠ 2 then 0
  else
    let c := match s.nextRun r q with
      | some (p, d, t, m) =>
        let w := s.waitCode r p (q, t, m) d
        if w = 0 ∧ d.kind = 9 ∧ !s.allDone r p then 1 else w
      | none => 0
    let f := match s.program r with
      | some p => ((s.waitingFolds r p).filter (fun x : TaskRun × TaskDesc => decide (x.1.q = q))).map (fun x : TaskRun × TaskDesc => s.foldCode r x.2)
      | none => []
    if f.contains 1 then 1
    else if c ≠ 0 then c
    else f.headD 0

/-- REG_SKIP_STREAM (Table 6-18). Once every task has started there is no next one: TASK and MB are open then (log
entry 5). -/
def State.streamView (s : State) (r q : Nat) : Nat :=
  let pos := match s.nextRun r q with
    | some (_, _, t, m) => t + m * 4096
    | none => if (s.program r).isNone then 0 else fld (Config.freeValue s.freeCtr) 0 10 + fld (Config.freeValue s.freeCtr) 12 12 * 4096
  pos + s.streamWait r q * 2 ^ 24

/-- REG_SKIP_STATUS (Table 6-17). -/
def State.skipStatus (s : State) (r : Nat) : Nat :=
  let k := (s.region r).skip
  k.st + k.ctx * 256 + k.loadReason * 65536 +
  [0, 1, 2, 3].foldl (fun a q => a + b2n (s.streamWait r q != 0) * 2 ^ (24 + q) + b2n (k.streams.getD q {}).frozen * 2 ^ (28 + q)) 0

/-- An instar table entry's words (Table 6-5). -/
def Instar.view (e : Instar) (wait : Bool) (k : Nat) : Nat :=
  if k = 0 then e.tensor.toNat
  else if k = 1 then e.current.toNat + b2n e.curBuf * 2 ^ 16 + b2n e.prevValid * 2 ^ 17 + b2n wait * 2 ^ 18 + b2n e.valid * 2 ^ 19
  else if k = 2 then min e.curRefs 4095 + min e.prevRefs 4095 * 65536
  else 0

/-- REG_ERR_REFETCH_STATE (Table 11-12). -/
def refetchState (l : List Refetch) : Nat :=
  match l with
  | [] => 0
  | f :: r => r.foldl (fun a x => min a x.tensor) f.tensor + 65536 + min l.length 255 * 2 ^ 24

/-- A region's registers. -/
def State.regView (s : State) (r o : Nat) : Nat :=
  let v := s.region r
  if o = 0x10008 then v.ant.collisions.toNat + (v.ant.entries.filter (fun e => e.2.valid)).length * 65536
  else if o = 0x10104 then
    min v.ladder.promotions 255 + v.ladder.log.length * 256 + b2n v.ladder.overflow * 65536 + b2n v.ladder.stopped * 2 ^ 17
  else if 0x10200 ≤ o ∧ o < 0x10A00 then
    (match v.ladder.log[(o - 0x10200) / 32]? with | some x => recWord x.bytes ((o - 0x10200) % 32 / 4) | none => 0)
  else if o = 0x11004 then s.skipStatus r
  else if inArr o 0x11010 4 4 then s.streamView r ((o - 0x11010) / 4)
  else if o = 0x11020 then v.epoch.toNat
  else if 0x20000 ≤ o ∧ o < 0x40000 then v.ant.view (o - 0x20000)
  else if 0x40000 ≤ o ∧ o < 0x44000 then (lookupD {} v.instars ((o - 0x40000) / 16)).view (s.foldWaits r ((o - 0x40000) / 16)) ((o - 0x40000) % 16 / 4)
  else if o = 0x50004 then v.eccCorr.toNat + v.eccUncorr.toNat * 65536
  else if inArr o 0x50100 4 8 then (lookupD 0 v.routes ((o - 0x50100) / 4)).toNat
  else if 0x60000 ≤ o ∧ o < 0x60028 then v.err.view (o - 0x60000)
  else if o = 0x60044 then refetchState v.refetch
  else 0

/-! ### Silk and host -/

/-- SILK_PORT_STATUS (Table 8-20): the host port shows what any of its associations shows, and the lowest one's
peer. -/
def State.portStatus (s : State) (p : Nat) : Nat :=
  let ks := (linksOf p).map (fun l => s.link l)
  let peer := match ks.find? (fun k => k.up) with | some k => k.peerNode.toNat | none => (s.link p).peerNode.toNat
  b2n (ks.any (fun k => k.up)) + b2n (ks.any (fun k => k.training)) * 2 + b2n (s.link p).quar * 4 +
  b2n (ks.any (fun k => k.peerLock)) * 8 + peer * 65536

/-- The SILK_ registers. -/
def State.silkView (s : State) (o : Nat) : Nat :=
  if 0x1000 ≤ o ∧ o < 0x1640 then
    let p := (o - 0x1000) / 64
    let k := (o - 0x1000) % 64
    if k = 4 then s.portStatus p
    else if k = 8 then (s.link p).viol.toNat + (s.link p).violLast.toNat * 65536
    else if k = 0xC then s.portMac p % 2 ^ 32
    else if k = 0x10 then s.portMac p / 2 ^ 32
    else 0
  else if inArr o 0x20000 16 256 then b2n (s.jwinInUse ((o - 0x20000) / 16)) * 2
  else if 0x30000 ≤ o ∧ o < 0x30800 then
    let r := (o - 0x30000) / 256
    let k := (o - 0x30000) % 256
    let v := s.region r
    if k < 64 then
      let c := lookupD {} v.ce (k / 4)
      b2n c.busy * 256 + b2n c.frozen * 512
    else if k = 0x80 then v.ceSats.toNat + v.fwd.length * 65536 + v.molt.toNat * 2 ^ 25
    else 0
  else 0

/-- HOST_Q_STATE.STATE (Table 9-19). -/
def State.queueSt (s : State) (q : Nat) : Nat :=
  let u := s.queue q
  if !s.qEnabled q then 0
  else if u.frozen then 5
  else if u.parked then 6
  else if u.stopped then 4
  else if u.waiting then 3
  else if u.running.isEmpty then 1
  else 2

/-- A fence's words (Table 9-19). -/
def Fence.view (f : Fence) (k : Nat) : Nat :=
  if k = 0 then f.value.toNat % 2 ^ 32
  else if k = 1 then f.value.toNat / 2 ^ 32 + f.st.toNat * 2 ^ 16 + f.waiters * 2 ^ 20
  else if k = 2 then f.owner.toNat
  else 0

/-- The HOST_ registers. -/
def State.hostView (s : State) (o : Nat) : Nat :=
  if inArr o 0x1000 16 64 then
    let x := s.ctx ((o - 0x1000) / 16)
    x.st.toNat + x.phase.toNat * 16 + x.cause.toNat * 256
  else if o = 0x180C then b2n s.host.ctxBusy.isSome + b2n s.host.ctxRej * 2
  else if o = 0x300C then b2n s.host.fenceRej
  else if inArr o 0x20018 64 1024 then (s.queue ((o - 0x20018) / 64)).head.toNat
  else if inArr o 0x2001C 64 1024 then
    s.queueSt ((o - 0x2001C) / 64) + (s.queue ((o - 0x2001C) / 64)).lastSeq.toNat * 65536
  else if 0x40000 ≤ o ∧ o < 0xC0000 then (s.fence ((o - 0x40000) / 32)).view ((o - 0x40000) % 32 / 4)
  else 0

/-! ### Security, chip and Monarch -/

/-- The SEC_ registers (Table 10-12). -/
def State.secView (s : State) (o : Nat) : Nat :=
  if o = 0x000C then b2n s.sec.busy + s.sec.result.toNat * 256 + s.sec.detail.toNat * 65536
  else if inArr o 0x0100 16 8 then
    let k := s.cocoon ((o - 0x100) / 16)
    k.st.toNat + k.regions.toNat * 256 + k.unscrubbed.toNat * 65536 + (s.slotsOf ((o - 0x100) / 16)).length * 2 ^ 24
  else if inArr o 0x0104 16 8 then
    let c := (o - 0x104) / 16
    if (s.cocoon c).st = 2 ∧ (s.cocoon c).step = 1 then s.drainCount c else 0
  else if inArr o 0x0400 4 64 then (match s.boundTo ((o - 0x400) / 4) with | some c => 1 + c * 2 | none => 0)
  else if inArr o 0x0800 16 16 then
    let k := s.keySlot ((o - 0x800) / 16)
    if k.valid then 1 + k.cocoon * 2 + k.job.toNat * 65536 else 0
  else if inArr o 0x0804 16 16 then (s.keySlot ((o - 0x804) / 16)).fail.toNat
  else if o = 0x0C00 then s.sec.masked.toNat + s.sec.cipher.toNat * 65536
  else 0

/-- The kind of a die (Table 12-10). -/
def fuseKind (d : Nat) : Nat := if d < 8 then 1 else if d < 16 then 2 else 3

/-- The fuse registers (Table 12-10). -/
def Fuses.view (f : Fuses) (o : Nat) : Nat :=
  if o < 0x210 then
    let d := (o - 0x100) / 16
    let k := (o - 0x100) % 16
    let lot := (lookupD 0 f.lots d).toNat
    if k = 0 then lot % 2 ^ 32
    else if k = 4 then
      lot / 2 ^ 32 + (lookupD 0 f.wafers d).toNat * 256 + (lookupD 0 f.xs d).toNat * 65536 + (lookupD 0 f.ys d).toNat * 2 ^ 24
    else if k = 8 then fuseKind d + f.dieStep.toNat * 256
    else 0
  else if o = 0x300 then f.serial.toNat % 2 ^ 32
  else if o = 0x304 then f.serial.toNat / 2 ^ 32
  else if o = 0x308 then f.regionDis.toNat
  else if o = 0x30C then f.macBase.toNat % 2 ^ 32
  else if o = 0x310 then f.macBase.toNat / 2 ^ 32
  else if inArr o 0x320 4 8 then f.fwKey.toNat / 2 ^ (8 * (o - 0x320)) % 2 ^ 32
  else 0

/-- The chip error handling's and the Chrysalis unit's registers (Tables 11-11, 11-13). -/
def State.chipErrView (s : State) (o : Nat) : Nat :=
  let e := s.chip.errs
  let c := s.chip.chry
  if o < 0x8028 then s.chip.err.view (o - 0x8000)
  else if o = 0x802C then
    b2n e.halted + b2n e.locked * 2 + b2n (s.errBusy .chip) * 4 + s.chip.err.queue.length * 256 + e.lost.toNat * 65536
  else if o = 0x8038 then e.cseq.toNat
  else if o = 0x8140 then
    b2n c.busy + b2n (s.regions.any (fun r => !r.2.pins.isEmpty)) * 2 + b2n c.failed * 4 + b2n c.slot * 8 + c.k * 16 +
    min (c.own.foldl (· + ·) c.ownCur) 65535 * 65536
  else if o = 0x8144 then c.last.toNat
  else if o = 0x815C then b2n c.cmdBusy + c.result.toNat * 256 + c.index.toNat * 65536
  else if 0x10000 ≤ o ∧ o < 0x18000 then
    (match lookupD none e.log ((o - 0x10000) / 32) with | some x => recWord x.bytes ((o - 0x10000) % 32 / 4) | none => 0)
  else 0

/-- The CHIP_ registers. -/
def State.chipView (s : State) (o : Nat) : Nat :=
  let c := s.chip
  if o = 0x0000 then s.fuses.stepping.toNat + s.fuses.bin.toNat * 256 + 0x08 * 65536 + 0x11 * 2 ^ 24
  else if o = 0x0004 then c.inService.toNat + c.retired.toNat * 256 + c.excluded.toNat * 65536 + b2n c.sharedOk * 2 ^ 24
  else if o = 0x0008 then s.clkState
  else if inArr o 0x0020 4 8 then
    let r := (o - 0x20) / 4
    (if s.regionUp r then lookupD 0 c.avail r - lookupD 0 c.fencedCnt r else 0) + lookupD 0 c.fencedCnt r * 65536
  else if o = 0x0040 then c.rejCount.toNat + c.rejBit.toNat * 2 ^ 24
  else if o = 0x0044 then c.rejAddr.toNat
  else if 0x0100 ≤ o ∧ o < 0x1000 then s.fuses.view o
  else if o = 0x240C then b2n c.tlbBusy + b2n c.tlbIgn * 2
  else if 0x8000 ≤ o then s.chipErrView o
  else 0

/-- The allowed root steps (R378): nominal, down by 42, and 420 last. -/
def rootSteps (nominal : Nat) : List Nat := (List.range 12).map (fun k => max 420 (nominal - 42 * k)) |>.filter (fun x => decide (420 < x)) |>.append [420]

/-- The highest allowed step that does not exceed a value; the lowest step for lower values. -/
def stepAt (nominal v : Nat) : Nat := ((rootSteps nominal).find? (fun x => decide (x ≤ v))).getD 420

/-- The operator target in force (Table 12-6). -/
def State.targetRoot (s : State) : Nat := stepAt (nominalRoot s.fuses) (s.csrF 0x000C 0 10)

/-- The effective root (R379); a trip holds every cap at the lowest step (R381; log entry 55). -/
def State.effectiveRoot (s : State) : Nat :=
  if s.mon.trip then 420 else min s.targetRoot (min s.mon.powerCap (min s.mon.thermCap s.mon.inputCap))

/-- The caps below the target (MON_CAP.CAUSES). -/
def State.capCauses (s : State) : Nat :=
  let t := s.targetRoot
  b2n (decide (s.mon.powerCap < t)) + b2n (decide (s.mon.thermCap < t)) * 2 + b2n (decide (s.mon.inputCap < t)) * 4 +
  b2n (s.mon.trip && decide (420 < t)) * 8

/-- The MON_ registers (Tables 12-6, 12-9). -/
def State.monView (s : State) (o : Nat) : Nat :=
  let m := s.mon
  if o = 0x0004 then m.vin % 2 ^ 13 + m.iin % 2 ^ 10 * 65536
  else if o = 0x0008 then m.watts % 2 ^ 13
  else if o = 0x000C then if s.boot.phase = 8 then s.effectiveRoot + s.capCauses * 65536 else 0
  else if o = 0x0020 then m.stepSeq.toNat
  else if o = 0x0040 then s.boot.phase.toNat + s.boot.source.toNat * 16 + s.boot.fail.toNat * 256 + s.boot.failKind.toNat * 65536
  else if inArr o 0x0100 4 17 then lookupD 0 m.temps ((o - 0x100) / 4) % 1024
  else if inArr o 0x0400 8 64 then
    let x := lookupD {} m.hist ((o - 0x400) / 8)
    x.seq.toNat + x.root.toNat * 65536 + x.cause.toNat * 2 ^ 26
  else 0

/-! ### Reads -/

/-- The views of a unit's registers. -/
def State.unitView (s : State) : UnitAt → Nat → Nat
  | .chip, o => s.chipView o
  | .mon, o => s.monView o
  | .sec, o => s.secView o
  | .host, o => s.hostView o
  | .silk, o => s.silkView o
  | .reg r, o => s.regView r o
  | .blk b, o => s.blkView b o
  | .cell c, o => s.cellView c o

/-- The word at a control space offset as it stands (R368): fields that software writes, and views. A reserved
address reads zero, and so does a register whose unit is out of service. -/
def State.regWord (s : State) (off : Nat) : Word :=
  match locate off with
  | none => 0
  | some (u, o) =>
    if off % 4 = 0 ∧ s.unitReads u then s.csrRead off ||| BitVec.ofNat 32 (s.unitView u o) else 0

/-- A read of a control space word: word 0 of an Antenna entry latches the shadow (R160). -/
def State.readWord (s : State) (off : Nat) : Word × State :=
  let v := s.regWord off
  match locate off with
  | some (.reg r, o) =>
    if s.regionUp r ∧ 0x20000 ≤ o ∧ o < 0x40000 ∧ o % 32 = 0 then (v, s.antLatch r ((o - 0x20000) / 32)) else (v, s)
  | _ => (v, s)

end Sys2Proof.Machine
end

