-- ==== Sys2Proof/Machine/RegWrite.lean ====
section
/-! DEFINITION. Writes of the control space (R368–R374): fields by class, and what a write of each command register
does. Every row that is a write of one register goes through `State.writeWord`. -/

namespace Sys2Proof.Machine

/-- A write of a word's fields; the lowest dropped one is named by CFG_REJECT (R370–R373). -/
def State.plainWrite (s : State) (off : Nat) (v : Word) (keep : Word := 0) : State :=
  let r := s.writeFields off v keep
  match r.2 with
  | none => r.1
  | some b => r.1.reject off b

/-! ### Chip, cells, blocks and regions -/

/-- A write of an error unit's ERR_CLR (R366, Table 11-11). -/
def State.clearErr (s : State) (u : UnitRef) (v : Word) : State :=
  if bit v 0 then s.setErrUnit u { s.errUnit u with first := none, overflow := 0, escalated := 0 } else s

/-- CHIP_ registers. -/
def State.writeChip (s : State) (o : Nat) (v : Word) : State :=
  if inArr o 0x1008 16 64 then
    let n := (o - 0x1008) / 16
    let s := s.plainWrite o v
    if s.ctxResident n then s else s.applyB (oStep n)
  else if inArr o 0x2000 16 64 then s.plainWrite o v (if (s.boundTo ((o - 0x2000) / 16)).isSome then 0xFFFFF000 else 0)
  else if inArr o 0x2004 16 64 then s.plainWrite o v (if (s.boundTo ((o - 0x2004) / 16)).isSome then 0x0000FFFF else 0)
  else if o = 0x2408 then s.tlbStart v
  else if o = 0x8024 then s.clearErr .chip v
  else if o = 0x8150 then s.chryCommand v
  else s.plainWrite o v

/-- A group's HALT and STEP bits written (R394): HALT first, then STEP for a group that is halted. -/
def State.dbgGroup (s : State) (c slot : Nat) (v : Word) : State :=
  match (s.cell c).groups.find? (fun g => decide (g.1 = slot)) with
  | none => s
  | some (_, g) =>
    let s := if bit v slot && !g.halted then { s with side := { s.side with halts := s.side.halts + 1 } } else s
    s.setGroup { cell := c, slot := slot } { g with
      halted := bit v slot, stepOne := bit v slot && (bit v (16 + slot) || (g.halted && g.stepOne)) }

/-- A write of CELL_DBG_CTL. Where it ends the halt of a waiting group, the barrier unit may find its set in deadlock
(R51, R394). -/
def State.dbgWrite (s : State) (c : Nat) (v : Word) : State :=
  let s := (List.range 16).foldl (fun t i => t.dbgGroup c i v) s
  (s.block (cellBlock c)).sets.foldl (fun t x => t.deadlockCheck (cellBlock c) x.id) s

/-- A cell window's registers. -/
def State.writeCell (s : State) (c o off : Nat) (v : Word) : State :=
  if o = 0x0E4 then s.clearErr (.ceu c) v
  else if o = 0x100 then s.dbgWrite c v
  else s.plainWrite off v

/-- A block's registers. -/
def State.writeBlk (s : State) (b o off : Nat) (v : Word) : State :=
  if o = 0x304 then (if bit v 0 then s.icacheClear b else s)
  else if o = 0x424 then s.clearErr (.beu b) v
  else s.plainWrite off v

/-- A region's registers. -/
def State.writeReg (s : State) (r o off : Nat) (v : Word) : State :=
  if o = 0x10004 then s.antClear r v
  else if o = 0x50008 then (if bit v 0 then s.memEccClear r else s)
  else if o = 0x60024 then s.clearErr (.geu r) v
  else if o = 0x60040 then s.refetchGo r v
  else s.plainWrite off v

/-! ### Silk -/

/-- A port's quarantine ended, its count reset; hops that it kept out are looked up again (R278). -/
def State.endQuar (s : State) (p : Nat) : State :=
  let s := s.modLink p (fun k => { k with quar := false, viol := 0, violWin := 0 })
  let s := (linksOf p).foldl (fun t l => if (t.link l).up then t.flushLink l else t) s
  s.reroute

/-- A link whose port opens trains and announces itself. -/
def State.openLink (s : State) (l : Nat) : State :=
  if s.portOn l then (s.modLink l (fun k => { k with training := true })).sendHello l else s

/-- ENABLE of a port turned on. The link that host boot trained does not train again (R388). -/
def State.enablePort (s : State) (p : Nat) : State :=
  if p = 24 ∧ s.boot.hostBoot then
    let s := (linksOf p).foldl (fun t l => if t.portOn l then t.sendHello l else t) s
    { s with boot := { s.boot with hostBoot := false } }
  else (linksOf p).foldl (fun t l => t.openLink l) s

/-- A write of SILK_PORT_CTL (Table 8-19). -/
def State.writePort (s : State) (p off : Nat) (v : Word) : State :=
  let was := s.csrF off 0 1
  let s := s.plainWrite off v
  let now := s.csrF off 0 1
  let s := if was = 0 ∧ now = 1 then s.enablePort p
    else if was = 1 ∧ now = 0 then (linksOf p).foldl (fun t l => t.dropLink l) s
    else s
  let s := if bit v 16 then s.endQuar p else s
  if bit v 17 && !(s.link p).quar then s.quarantine p else s

/-- Two valid windows with the same (JOB, WINDOW), one of them `w` (R270). -/
def State.jwinTwice (s : State) (w : Nat) : Bool :=
  let key (i : Nat) : Nat × Nat := (s.csrF (oJwin i 0) 16 16, s.csrF (oJwin i 4) 0 8)
  decide (s.csrF (oJwin w 0) 0 1 = 1) &&
  (List.range 256).any (fun i => decide (i ≠ w) && decide (s.csrF (oJwin i 0) 0 1 = 1) && decide (key i = key w))

/-- A write of a job window's word: dropped whole where it would make a duplicate (R270, R373). -/
def State.writeJwin (s : State) (w off : Nat) (v : Word) : State :=
  if (s.writeFields off v).1.jwinTwice w then s.reject off 0 else s.plainWrite off v

/-- SILK_ registers. -/
def State.writeSilk (s : State) (o off : Nat) (v : Word) : State :=
  if inArr o 0x1000 64 25 then s.writePort ((o - 0x1000) / 64) off v
  else if 0x20000 ≤ o ∧ o < 0x21000 then s.writeJwin ((o - 0x20000) / 16) off v
  else s.plainWrite off v

/-! ### Host -/

/-- A fence operation that is not accepted (R298, R373). -/
def State.rejectFence (s : State) : State :=
  ({ s with host := { s.host with fenceRej := true } }).reject (oHost 0x3000) 14

/-- A write of HOST_FENCE_CMD (Table 9-10). -/
def State.fenceCommand (s : State) (v : Word) : State :=
  let f := fld v 0 14
  let x := s.fence f
  let arg : BitVec 48 := BitVec.ofNat 48 (s.csrF (oHost 0x3004) 0 32 + s.csrF (oHost 0x3008) 0 16 * two32)
  let t : State := { s with host := { s.host with fenceRej := false } }
  match fld v 14 2 with
  | 0 =>
    if x.st ≠ 0 then s.rejectFence
    else (t.setCsr (oFence f 8) (setFld (s.csrAt (oFence f 8)) 16 1 0)).setFence f
      { value := arg, st := 1, owner := BitVec.ofNat 16 (fld v 16 16) }
  | 1 => if x.st ≠ 1 then s.rejectFence else t.signalFence f arg
  | 2 => if x.st = 0 ∨ x.waiters ≠ 0 then s.rejectFence else t.changeFence f x.value 0
  | _ => s.rejectFence

/-- ENABLE of a queue turned on: HEAD is 0 and written to the ring; the queue is parked unless its context is active
or lost (R286, R290). -/
def State.enableQueue (s : State) (q : Nat) : State :=
  let open' := match s.qCtx q with | some n => (s.ctx n).st == 1 || (s.ctx n).st == 2 | none => false
  let s := s.setQueue q { lastSeq := (s.queue q).lastSeq, parked := !open' }
  match s.qCtx q with
  | some n => if open' then s.writeHead q n else s
  | none => s

/-- A write of HOST_Q_CFG: RESUME ends the stopped state (R300), then ENABLE acts. -/
def State.writeQueue (s : State) (q off : Nat) (v : Word) : State :=
  let was := s.csrF off 0 1
  let s := s.plainWrite off v
  let s := if bit v 3 then s.setQueue q { s.queue q with stopped := false } else s
  let now := s.csrF off 0 1
  if was = 0 ∧ now = 1 then s.enableQueue q
  else if was = 1 ∧ now = 0 then s.disableQueue q
  else s

/-- A write of HOST_CTX_HT_LO makes both words of the handler table address apply (Table 9-17). -/
def State.writeHandlers (s : State) (n off : Nat) (v : Word) : State :=
  let s := s.plainWrite off v
  { s with host := { s.host with ht := insertD 0 s.host.ht n (s.csrF off 8 24 * 256 + s.csrF (oHtHi n) 0 16 * two32) } }

/-- A write of HOST_EP word 0: clearing VALID discards the association's replay buffer, setting it opens the
association. -/
def State.writeEp (s : State) (e off : Nat) (v : Word) : State :=
  let was := s.csrF off 0 1
  let s := s.plainWrite off v
  let now := s.csrF off 0 1
  if was = 1 ∧ now = 0 then s.dropLink (32 + e)
  else if was = 0 ∧ now = 1 then s.openLink (32 + e)
  else s

/-- HOST_ registers. -/
def State.writeHost (s : State) (o off : Nat) (v : Word) : State :=
  if inArr o 0x0100 32 32 then s.writeEp ((o - 0x100) / 32) off v
  else if inArr o 0x1008 16 64 then s.writeHandlers ((o - 0x1008) / 16) off v
  else if o = 0x1800 then s.ctxCommand v
  else if o = 0x3000 then s.fenceCommand v
  else if inArr o 0x20000 64 1024 then s.writeQueue ((o - 0x20000) / 64) off v
  else s.plainWrite off v

/-! ### One write -/

/-- A write of a unit's register. -/
def State.writeUnit (s : State) (u : UnitAt) (o off : Nat) (v : Word) : State :=
  match u with
  | .chip => s.writeChip o v
  | .mon => s.plainWrite off v
  | .sec => if o = 0x0008 then (if bit v 0 then s.secGo else s) else s.plainWrite off v
  | .host => s.writeHost o off v
  | .silk => s.writeSilk o off v
  | .reg r => s.writeReg r o off v
  | .blk b => s.writeBlk b o off v
  | .cell c => s.writeCell c o off v

/-- A write of the control space word at an offset (R368): a reserved address, a unit out of service, or a package in
reset (R383) takes nothing. -/
def State.writeWord (s : State) (off : Nat) (v : Word) : State :=
  match locate off with
  | none => s
  | some (u, o) => if off % 4 = 0 ∧ s.unitWrites u ∧ !s.boot.inReset then s.writeUnit u o off v else s

/-! ### Rows: a write of any register -/

/-- REGISTER_WRITE. -/
def execRegisterWrite (off : Nat) (v : Word) (s : State) : Out1 := .next (s.writeWord off v)

/-! ### Rows of chapters 5 and 7 -/

/-- TLB_INV_RANGE: CHIP_TLB_INV_CMD with ALL = 0 (R238). -/
def execTlbInvRange (v : Word) (s : State) : Out1 := .next (s.writeWord 0x2408 (setFld v 8 1 0))

/-- TLB_INV_ALL: CHIP_TLB_INV_CMD with ALL = 1 (R238). -/
def execTlbInvAll (v : Word) (s : State) : Out1 := .next (s.writeWord 0x2408 (setFld v 8 1 1))

/-- GEN_WRITE: CHIP_PT_ROOT_HI of a context (R239): held translations carry the GEN they were made under. -/
def execGenWrite (n : Nat) (v : Word) (s : State) : Out1 :=
  if 64 ≤ n then .fault .noSuchUnit else .next (s.writeWord (oPtHi n) v)

/-- ICACHE_INVALIDATE: BLK_ICACHE_INV (R240). -/
def execIcacheInvalidate (b : Nat) (v : Word) (s : State) : Out1 :=
  if nBlocks ≤ b then .fault .noSuchUnit else .next (s.writeWord (oBlk b 0x304) v)

/-- MEM_ECC_CLEAR: REG_MEM_ECC_CLR (Table 7-17). -/
def execMemEccClear (r : Nat) (v : Word) (s : State) : Out1 :=
  if 8 ≤ r then .fault .noSuchUnit else .next (s.writeWord (oReg r 0x50008) v)

/-- ANT_CLEAR_ALL: REG_ANT_CLEAR with ALL = 1 (Table 5-9). -/
def execAntClearAll (r : Nat) (v : Word) (s : State) : Out1 :=
  if 8 ≤ r then .fault .noSuchUnit else .next (s.writeWord (oReg r 0x10004) (setFld v 0 1 1))

/-- ANT_CLEAR_ONE: REG_ANT_CLEAR with ONE = 1 and ALL = 0. -/
def execAntClearOne (r : Nat) (v : Word) (s : State) : Out1 :=
  if 8 ≤ r then .fault .noSuchUnit else .next (s.writeWord (oReg r 0x10004) (setFld (setFld v 0 1 0) 1 1 1))

/-! ### Rows of chapter 8 -/

/-- SILK_PORT_QUAR_CLEAR: QUAR_CLEAR of SILK_PORT_CTL, the other fields as they read (R278). -/
def execSilkPortQuarClear (p : Nat) (s : State) : Out1 :=
  if 25 ≤ p then .fault .noSuchUnit else .next (s.writeWord (oPort p) (s.csrRead (oPort p) ||| 0x00010000))

/-- QUAR_FORCE. -/
def execQuarForce (p : Nat) (s : State) : Out1 :=
  if 25 ≤ p then .fault .noSuchUnit else .next (s.writeWord (oPort p) (s.csrRead (oPort p) ||| 0x00020000))

/-- PORT_ENABLE_WRITE: SILK_PORT_CTL of a port. -/
def execPortEnableWrite (p : Nat) (v : Word) (s : State) : Out1 :=
  if 25 ≤ p then .fault .noSuchUnit else .next (s.writeWord (oPort p) v)

/-- JWIN_WRITE: word `k` of a job window (R270, R271). -/
def execJwinWrite (n k : Nat) (v : Word) (s : State) : Out1 :=
  if 256 ≤ n ∨ 4 ≤ k then .fault .noSuchUnit else .next (s.writeWord (oJwin n (4 * k)) v)

/-! ### Rows of chapter 9 -/

/-- HOST_CTX_CMD for a context and an action (Table 9-18). -/
def ctxWord (n action : Nat) : Word := BitVec.ofNat 32 (n + action * 256)

/-- A row that is one action of HOST_CTX_CMD. -/
def ctxRow (action n : Nat) (s : State) : Out1 :=
  if 64 ≤ n then .fault .noSuchUnit else .next (s.writeWord (oHost 0x1800) (ctxWord n action))

/-- ACTIVATE (R286). -/
def execActivate (n : Nat) (s : State) : Out1 := ctxRow 1 n s

/-- FREEZE (Table 9-11). -/
def execFreeze (n : Nat) (s : State) : Out1 := ctxRow 2 n s

/-- DISCARD. -/
def execDiscard (n : Nat) (s : State) : Out1 := ctxRow 3 n s

/-- DRAIN. -/
def execDrain (n : Nat) (s : State) : Out1 := ctxRow 4 n s

/-- ABANDON. -/
def execAbandon (n : Nat) (s : State) : Out1 := ctxRow 5 n s

/-- FREE. -/
def execFree (n : Nat) (s : State) : Out1 := ctxRow 6 n s

/-- SUSPEND (Table 9-12). -/
def execSuspend (n : Nat) (s : State) : Out1 := ctxRow 7 n s

/-- RESUME. -/
def execResume (n : Nat) (s : State) : Out1 := ctxRow 8 n s

/-- EVICT. -/
def execEvict (n : Nat) (s : State) : Out1 := ctxRow 9 n s

/-- PURGE (R306). -/
def execPurge (n : Nat) (s : State) : Out1 := ctxRow 10 n s

/-- HOST_FENCE_CMD for a fence, an operation and a CID. -/
def fenceWord (f op : Nat) (cid : BitVec 16) : Word := BitVec.ofNat 32 (f + op * 16384 + cid.toNat * 65536)

/-- A row that is one operation of HOST_FENCE_CMD. -/
def fenceRow (op f : Nat) (cid : BitVec 16) (s : State) : Out1 :=
  if 16384 ≤ f then .fault .noSuchUnit else .next (s.writeWord (oHost 0x3000) (fenceWord f op cid))

/-- FENCE_ALLOC (Table 9-10). -/
def execFenceAlloc (f : Nat) (cid : BitVec 16) (s : State) : Out1 := fenceRow 0 f cid s

/-- FENCE_SIGNAL. -/
def execFenceSignal (f : Nat) (cid : BitVec 16) (s : State) : Out1 := fenceRow 1 f cid s

/-- FENCE_FREE. -/
def execFenceFree (f : Nat) (cid : BitVec 16) (s : State) : Out1 := fenceRow 2 f cid s

/-- QUEUE_RESUME: HOST_Q_CFG with RESUME = 1 (R300). -/
def execQueueResume (q : Nat) (v : Word) (s : State) : Out1 :=
  if 1024 ≤ q then .fault .noSuchUnit else .next (s.writeWord (oQ q 0) (setFld v 3 1 1))

/-- QUEUE_ENABLE: HOST_Q_CFG with ENABLE (R290). -/
def execQueueEnable (q : Nat) (v : Word) (s : State) : Out1 :=
  if 1024 ≤ q then .fault .noSuchUnit else .next (s.writeWord (oQ q 0) v)

/-! ### Rows of chapters 11 and 12 -/

/-- RESTORE: CHIP_CHRY_CMD (R361). -/
def execRestore (v : Word) (s : State) : Out1 := .next (s.writeWord 0x8150 v)

/-- REFETCH_GO: REG_ERR_REFETCH (R349). -/
def execRefetchGo (r : Nat) (v : Word) (s : State) : Out1 :=
  if 8 ≤ r then .fault .noSuchUnit else .next (s.writeWord (oReg r 0x60040) v)

/-- ERR_CLR of an error unit (R366). -/
def errClrOff : UnitRef → Nat
  | .ceu c => oCell c 0x0E4
  | .beu b => oBlk b 0x424
  | .geu r => oReg r 0x60024
  | .chip => 0x8024

/-- An error unit that exists (Table 11-1). -/
def errUnitOk : UnitRef → Bool
  | .ceu c => decide (c < nCells)
  | .beu b => decide (b < nBlocks)
  | .geu r => decide (r < 8)
  | .chip => true

/-- ERR_CLR. -/
def execErrClr (u : UnitRef) (v : Word) (s : State) : Out1 :=
  if errUnitOk u then .next (s.writeWord (errClrOff u) v) else .fault .noSuchUnit

/-- DBG_HALT: HALT of CELL_DBG_CTL (R394). -/
def execDbgHalt (c : Nat) (v : Word) (s : State) : Out1 :=
  if nCells ≤ c then .fault .noSuchUnit else .next (s.writeWord (oCell c 0x100) (setFld v 16 16 0))

/-- DBG_STEP: CELL_DBG_CTL with STEP bits. -/
def execDbgStep (c : Nat) (v : Word) (s : State) : Out1 :=
  if nCells ≤ c then .fault .noSuchUnit else .next (s.writeWord (oCell c 0x100) v)

end Sys2Proof.Machine
end

