-- ==== Sys2Proof/Machine/Power.lean ====
section
/-! DEFINITION. Power input, rails, clock stepping and thermal limits (R375–R382). -/

namespace Sys2Proof.Machine

/-! ### Reset (R26, R376, R377, R383) -/

/-- The package in reset: everything but the fuses is lost (R26, R383). What lies outside the package stays: its
pins, the commands that wait, what it has sent, and the model's own counters. RST_N alone does not reset the
TAP (R402). -/
def State.enterReset (s : State) (b : Boot) (tap : Bool) : State :=
  let t := State.resetWith s.fuses
  { t with
    boot := { b with inReset := true }
    sec := { draws := s.sec.draws }
    side := if tap then { tapReset := s.side.tapReset }
      else { tapReset := s.side.tapReset, jtagIr := s.side.jtagIr, pads := s.side.pads, bsrOut := s.side.bsrOut
             highz := s.side.highz, debugDr := s.side.debugDr }
    nextId := s.nextId, freeCtr := s.freeCtr, out := s.out, pending := s.pending }

/-- The reset sequence starts once nothing holds the package in reset (R383). -/
def State.leaveReset (s : State) : State :=
  let b := s.boot
  if b.inReset && b.pwrGood && b.rstN && !b.held && !b.inputBad then { s with boot := { b with inReset := false } } else s

/-- An input voltage, in units of 10 mV, in the range in which the sequence starts (R383). -/
def inputGood (vin : Nat) : Bool := decide (4400 ≤ vin) && decide (vin ≤ 5800)

/-- The boot state of a package in reset: the pins, the straps and what holds it there, the input last sampled
included. -/
def State.heldBoot (s : State) : Boot :=
  let b := s.boot
  { pwrGood := b.pwrGood, rstN := b.rstN, held := b.held, inReset := b.inReset, straps := b.straps
    inputBad := b.inputBad || (s.mon.vin != 0 && !inputGood s.mon.vin) }

/-- RAIL_FAULT: a rail of a region retires it with EXT 0x04; a shared rail holds the package in reset (R376). -/
def execRailFault (rail : Rail) (s : State) : Out1 :=
  match rail with
  | .region r => if 8 ≤ r then .fault .noSuchUnit else .next (s.retireRegion r 0x04)
  | .shared => .next (s.enterReset { s.heldBoot with held := true } true)

/-! ### Input (R377, Table 12-4) -/

/-- INPUT_RANGE. -/
def State.inputRange (s : State) (vin : Nat) : State :=
  s.raise { unit := .chip, sev := sevC, code := 0x0A02, addr := BitVec.ofNat 64 vin }

/-- INPUT_SAMPLE: every 10 µs, in units of 10 mV and 100 mA. `n` samples in a row hold a condition for n × 10 µs (log
entry 54). In reset the input holds the package there until it lies in 44–58 V (R383). -/
def execInputSample (vin iin : Nat) (s : State) : Out1 :=
  let bad := decide (vin < 4000) || decide (6200 < vin)
  let good := inputGood vin
  if s.boot.inReset then .next { s with boot := { s.boot with inputBad := !good } }.leaveReset
  else if bad then .next (s.enterReset { s.heldBoot with inputBad := true } true)
  else
    let m := s.mon
    let low := if vin < 4400 then m.lowRun + 1 else 0
    let high := if 5800 < vin then m.highRun + 1 else 0
    let ok := if good then m.okRun + 1 else 0
    let cap := if low = 10 then 420 else if 1000 ≤ ok ∧ !m.trip then nominalRoot s.fuses else m.inputCap
    let s : State := { s with mon := { m with
      vin := vin, iin := iin, lowRun := min low 11, highRun := min high 11, okRun := min ok 1000, inputCap := cap } }
    .next (if low = 10 ∨ high = 10 then s.inputRange vin else s)

/-! ### Caps (R380, R381) -/

/-- One allowed step down, or up, from a step. -/
def stepDown (nominal v : Nat) : Nat := ((rootSteps nominal).find? (fun x => decide (x < v))).getD 420
def stepUp (nominal v : Nat) : Nat := ((rootSteps nominal).reverse.find? (fun x => decide (v < x))).getD nominal

/-- The power rating (Table 12-6). -/
def State.rating (s : State) : Nat := if s.fuses.bin = 1 then 4800 else 4400

/-- POWER_CAP_TICK: the comparison of each 1 ms, once the device is ready. A latched LIMIT applies first. -/
def execPowerCapTick (watts : Nat) (s : State) : Out1 :=
  if s.boot.inReset ∨ s.boot.phase ≠ 8 then .next s
  else
    let s := s.applyB oPwrCfg
    let lim := min (s.csrF oPwrCfg 0 13) s.rating
    let nom := nominalRoot s.fuses
    let m := s.mon
    if lim < watts then
      let cap := stepDown nom m.powerCap
      .next ({ s with mon := { m with watts := watts, powerCap := cap, underRun := 0 } }.raise {
        unit := .chip, sev := sevC, code := 0x0A03, addr := BitVec.ofNat 64 cap })
    else
      let run := if watts * 100 < lim * 95 then m.underRun + 1 else 0
      let up := decide (10 ≤ run) && !m.trip
      .next { s with mon := { m with
        watts := watts, powerCap := if up then stepUp nom m.powerCap else m.powerCap, underRun := if 10 ≤ run then 0 else run } }

/-- The hottest die: its number and reading. -/
def hottest (l : List Nat) : Nat × Nat :=
  (l.mapIdx (fun i t => (i, t))).foldl (fun a x => if a.2 < x.2 then x else a) (0, l.headD 0)

/-- The thermal limit in units of 0.5 °C. Values outside 60–105 °C have no stated effect: the limit is then open (log
entry 5). -/
def State.thermLimit (s : State) : Nat × State :=
  let l := s.csrF oThermCfg 0 8
  if 60 ≤ l ∧ l ≤ 105 then (2 * l, s)
  else
    let v := s.free
    (fld v.1 0 8, v.2)

/-- The event address of a thermal event (Table 12-12). -/
def thermAddr (d t : Nat) : DWord := BitVec.ofNat 64 (d % 32 + t % 1024 * 65536)

/-- A trip: THERM_TRIP, and every cap at the lowest step (R381). -/
def State.tripCaps (s : State) (a : DWord) : State :=
  { s with mon := { s.mon with trip := true, powerCap := 420, thermCap := 420, inputCap := 420 } }.raise {
    unit := .chip, sev := sevH, code := 0x0A05, addr := a }

/-- THERMAL_CAP_TICK: the readings of each 1 ms, one of each of the 17 dies, in units of 0.5 °C. -/
def execThermalCapTick (temps : List Nat) (s : State) : Out1 :=
  if temps.length ≠ 17 then .fault .noSuchUnit
  else if s.boot.inReset ∨ s.boot.phase ≠ 8 then .next s
  else
    let s := (s.applyB oThermCfg).thermLimit
    let lim := s.1
    let s := s.2
    let nom := nominalRoot s.fuses
    let m := s.mon
    let x := hottest temps
    let a := thermAddr x.1 x.2
    let s : State := { s with mon := { m with temps := (temps.take 17).mapIdx (fun i t => (i, t)) |>.foldl (fun z y => insertD 0 z y.1 y.2) [] } }
    let s :=
      if lim ≤ x.2 then
        { s with mon := { s.mon with thermCap := stepDown nom m.thermCap, coolRun := 0 } }.raise {
          unit := .chip, sev := sevC, code := 0x0A04, addr := a }
      else
        let run := if x.2 + 6 < lim then m.coolRun + 1 else 0
        let up := decide (10 ≤ run) && !m.trip
        { s with mon := { s.mon with
          thermCap := if up then stepUp nom m.thermCap else m.thermCap, coolRun := if 10 ≤ run then 0 else run } }
    .next (if 220 ≤ x.2 then s.tripCaps a else s)

/-! ### Root steps (R379, R382, R304) -/

/-- What the effective root follows (Table 12-6, CAUSE). -/
def State.stepCause (s : State) : BitVec 3 :=
  let e := s.effectiveRoot
  if s.mon.trip then 4
  else if s.targetRoot = e then 0
  else if s.mon.powerCap = e then 1
  else if s.mon.thermCap = e then 2
  else 3

/-- CLOCK_STEP_PREPARE: the PLL prepares one allowed step toward the effective root. -/
def execClockStepPrepare (s : State) : Out1 :=
  let m := s.mon
  let e := s.effectiveRoot
  let nom := nominalRoot s.fuses
  if s.boot.inReset ∨ s.boot.phase ≠ 8 ∨ m.pending ∨ m.root = e then .next s
  else
    let next := if e < m.root then stepDown nom m.root else stepUp nom m.root
    .next { s with mon := { m with pending := true, next := next, cause := s.stepCause } }

/-- A step log record of a window (R304): written at its coherence point; one whose address does not translate is
not written (log entry 56). -/
def State.logStep (s : State) (b : Nat) (bs : List Byte) : State :=
  let w := (s.block b).win
  if w.logAddr = 0 ∨ w.logCap ≤ w.logN then s
  else
    let s := s.setBlock b { s.block b with win := { w with logN := w.logN + 1 } }
    let r := s.range w.ctx (w.logAddr.toNat + 16 * (w.logCap * w.logIdx + w.logN)) 16 .store
    match r.1 with
    | .ok ps => r.2.writePieces ps bs
    | .error (.ecc pa, _) => r.2.tableFault pa .nobody (some w.ctx)
    | .error _ => r.2

/-- A block's latch at a switch (R382). -/
def State.latchStep (s : State) (seq : BitVec 16) (b : Nat) : State :=
  let c := s.countNow b
  let s := c.2
  let w := (s.block b).win
  let s := s.setBlock b { s.block b with win := { w with
    steps := w.steps + 1, latches := insertD {} w.latches (seq.toNat % 4) { count := c.1, seq := seq } } }
  s.logStep b (leBytes 8 c.1.toNat ++ leBytes 2 seq.toNat ++ leBytes 6 0)

/-- CLOCK_STEP_SWITCH: all clocks change in one cycle; the history record, and the latches of open windows. -/
def execClockStepSwitch (s : State) : Out1 :=
  let m := s.mon
  if !m.pending then .next s
  else
    let q := m.stepSeq
    let s : State := { s with mon := { m with
      root := m.next, pending := false, stepSeq := q + 1
      hist := insertD {} m.hist (q.toNat % 64) { seq := q, root := BitVec.ofNat 10 m.next, cause := m.cause } } }
    .next (s.blocks.foldl (fun t b => if (s.block b.1).win.opened then t.latchStep q b.1 else t) s)

end Sys2Proof.Machine
end

