-- ==== Sys2Proof/Machine/Boot.lean ====
section
/-! DEFINITION. Reset and boot (R330, R383–R389, R411): the reset inputs, the phases of Table 12-7, firmware images from
flash and over the host port. -/

namespace Sys2Proof.Machine

/-! ### Reset inputs (R383, R384) -/

/-- RESET_ASSERT: the levels of PWR_GOOD and RST_N change, other than by the rise of RST_N. Either low puts the package
in reset; PWR_GOOD low also ends the hold of R376. -/
def execResetAssert (pwrGood rstN : Bool) (s : State) : Out1 :=
  let b := s.boot
  if !pwrGood || !rstN then
    let b' : Boot := { s.heldBoot with pwrGood := pwrGood, rstN := rstN && b.rstN, held := b.held && pwrGood }
    .next (s.enterReset b' (!pwrGood))
  else if b.rstN then .next { s with boot := { b with pwrGood := true } }.leaveReset
  else .next s

/-- RESET_RELEASE: RST_N rises and the straps are sampled; the sequence starts once nothing else holds the package. -/
def execResetRelease (straps : Straps) (s : State) : Out1 :=
  if s.boot.rstN then .next s
  else .next { s with boot := { s.boot with rstN := true, straps := straps } }.leaveReset

/-! ### Firmware images (R386, R387, Table 12-8) -/

/-- Length of an image by its header, where the header is good for a kind. -/
def imageLen (kind : Nat) (h : List Byte) : Option Nat :=
  let n := leAt h 8 4
  if decide (64 ≤ h.length) && leAt h 0 4 == 0x31574647 && leAt h 4 1 == kind && leAt h 5 1 == 0 && decide (n ≤ 0x1000000) &&
    n % 64 == 0 && allZero (slice h 12 52)
  then some (1376 + n + 2420) else none

/-- An image judged: its measured digest, or the FAIL code. -/
def checkImage (f : Fuses) (kind : Nat) (b : List Byte) : Except Byte (BitVec 256) :=
  match imageLen kind b with
  | none => .error 0x02
  | some n =>
    let key := slice b 64 1312
    let d := Config.sha3 (b.take (n - 2420))
    if b.length < n then .error 0x02
    else if Config.sha3 key ≠ f.fwKey then .error 0x03
    else if !Config.mlDsaVerify key d (slice b (n - 2420) 2420) then .error 0x04
    else .ok d

/-- Flash contents: pieces, each with its address. An address in no piece reads all ones, as erased flash does
(PRESUMED, log entry 139). -/
def flashByte (fl : List (Nat × List Byte)) (a : Nat) : Byte :=
  match fl.find? (fun c => decide (c.1 ≤ a) && decide (a < c.1 + c.2.length)) with
  | some c => c.2.getD (a - c.1) 0xFF
  | none => 0xFF
def flashBytes (fl : List (Nat × List Byte)) (a n : Nat) : List Byte := (List.range n).map (fun i => flashByte fl (a + i))

/-- An image read from flash and judged: the commands issued (R387), and its digest with the place of the image after
it, or the FAIL code. -/
def readImage (f : Fuses) (fl : List (Nat × List Byte)) (stop kind a : Nat) : List Out × Except Byte (BitVec 256 × Nat) :=
  let hdr : List Out := [.qspi 0x13 a 64]
  match imageLen kind (flashBytes fl a 64) with
  | none => (hdr, .error 0x02)
  | some n =>
    if stop < a + n then (hdr, .error 0x02)
    else (hdr ++ [.qspi 0x6C (a + 64) (n - 64)], match checkImage f kind (flashBytes fl a n) with
      | .ok d => .ok (d, (a + n + 65535) / 65536 * 65536)
      | .error e => .error e)

/-- An image read, then those after it from the next place on: the commands issued, and the digests, or the first
failure with its kind. -/
def thenRest (k : Nat) (x : List Out × Except Byte (BitVec 256 × Nat)) (rest : Nat → List Out × Except (Byte × Byte) (List (BitVec 256))) :
    List Out × Except (Byte × Byte) (List (BitVec 256)) :=
  match x.2 with
  | .error e => (x.1, .error (e, BitVec.ofNat 8 k))
  | .ok (d, a) =>
    let y := rest a
    (x.1 ++ y.1, match y.2 with
      | .ok l => .ok (d :: l)
      | .error e => .error e)

/-- The images of a slot of the kinds given, each at the next 64 KiB boundary. -/
def readSlot (f : Fuses) (fl : List (Nat × List Byte)) (stop : Nat) : List Nat → Nat → List Out × Except (Byte × Byte) (List (BitVec 256))
  | [], _ => ([], .ok [])
  | k :: ks, a => thenRest k (readImage f fl stop k a) (readSlot f fl stop ks)

/-- The slot, 64 MiB long, at an address. -/
def checkSlot (f : Fuses) (fl : List (Nat × List Byte)) (a : Nat) : List Out × Except (Byte × Byte) (List (BitVec 256)) :=
  readSlot f fl (a + 0x4000000) [1, 2, 3] a

/-- Boot stops (R385): PHASE reads failed, and an in-band interrupt tells it (R392). -/
def State.bootFail (s : State) (code kind : Byte) : State :=
  let s : State := { s with boot := { s.boot with phase := 0xF, fail := code, failKind := kind, hostBoot := false, image := [] } }
  if s.side.i3cIbi then s.emit (.ibi 0x02) else s

/-- Measured digests stored for the attestation report, the boot ROM's first. -/
def keepDigests (l : List (BitVec 256)) : SMap (BitVec 256) :=
  ((Config.romDigest :: l).mapIdx (fun i d => (i, d))).foldl (fun m e => insertD 0 m e.1 e.2) []

/-- A phase ends and the next begins. -/
def State.nextPhase (s : State) : State := { s with boot := { s.boot with phase := s.boot.phase + 1 } }

/-- Host boot: the ROM brings up the host port with the strapped PHY (R384, R388). -/
def State.hostPort (s : State) : State :=
  let s := s.setCsr (oPort 24) (setFld (s.csrAt (oPort 24)) 1 2 s.boot.straps.hostPhy.toNat)
  { s with boot := { s.boot with hostBoot := true, source := 3 } }

/-- Host boot begins, where the straps allow it; else boot stops with the flash's failure. -/
def State.tryHost (s : State) (code kind : Byte) : State :=
  if s.boot.straps.bootMode = 2 then s.bootFail code kind else s.hostPort

/-- Images taken from a slot. -/
def State.fromSlot (s : State) (src : BitVec 2) (l : List (BitVec 256)) : State :=
  { s with boot := { s.boot with source := src, digests := keepDigests l, images := 3 } }.nextPhase

/-- Things leave the device in order. -/
def State.emitAll (s : State) (l : List Out) : State := { s with out := s.out ++ l }

/-- The end of phase 3 without host boot: the flash is reset, then slot A, slot B, and at last the host port (R384,
R387). All three images of a slot are judged here; phase 4 then only ends. -/
def State.loadFlash (s : State) (flash : Option (List (Nat × List Byte))) : State :=
  let s := s.emitAll [.qspi 0x66 0 0, .qspi 0x99 0 0]
  match flash with
  | none => (s.emit (.qspi 0x13 0 64)).tryHost 0x01 0
  | some fl =>
    let a := checkSlot s.fuses fl 0
    let s := s.emitAll a.1
    match a.2 with
    | .ok l => s.fromSlot 1 l
    | .error _ =>
      let b := checkSlot s.fuses fl 0x4000000
      let s := s.emitAll b.1
      match b.2 with
      | .ok l => s.fromSlot 2 l
      | .error e => s.tryHost e.1 e.2

/-! ### Regions (R30, R385, R411) -/

/-- A region left out, with BOOT_EXCLUDE: bit 8 fuse, 9 self-test, 10 training. BOOT_EXCLUDED shows it from the phase
that leaves it out, 5 or 6 (DEDUCED, log entry 3). -/
def State.exclude (s : State) (r why : Nat) : State :=
  { s with chip := { s.chip with
    excluded := setFld s.chip.excluded r 1 1, released := setFld s.chip.released r 1 0 } }.raise {
      unit := .chip, sev := sevC, code := 0x0A06, addr := BitVec.ofNat 64 (r + 2 ^ why) }

/-- A region released: its cells that passed the self-test are available. -/
def State.releaseRegion (s : State) (r : Nat) (bad : List Nat) : State :=
  let l := (bad.filter (fun c => decide (c < nCells) && decide (cellRegion c = r))).foldl addMem []
  let s := l.foldl (fun t c => t.setCell c { t.cell c with fenced := true }) s
  { s with chip := { s.chip with
    released := setFld s.chip.released r 1 1, avail := insertD 0 s.chip.avail r (1280 - l.length) } }

/-- Phase 5. -/
def State.releaseAll (s : State) (b : BootInput) : State :=
  (List.range 8).foldl (fun t r =>
    if bit t.fuses.regionDis r then t.exclude r 8
    else if b.relFail.contains r then t.exclude r 9
    else t.releaseRegion r b.cellFail) s

/-- Phase 6. -/
def State.trainAll (s : State) (b : BootInput) : State :=
  (List.range 8).foldl (fun t r =>
    if !bit t.chip.released r then t
    else if b.trainFail.contains r then t.exclude r 10
    else { t with chip := { t.chip with trained := setFld t.chip.trained r 1 1 } }) s

/-- Phase 7: the `fw` fields are set, the root stands at the effective root, the ports that are enabled open (R388,
R389), and regions that do not reach base die 0 are retired (R216). Host boot leaves the host port disabled. An input
cap that Table 12-4 set during boot stays. -/
def State.ready (s : State) : State :=
  let n := nominalRoot s.fuses
  let s : State := { s with
    chip := { s.chip with inService := s.chip.released, sharedOk := true }
    boot := { s.boot with phase := 8 }
    mon := { s.mon with powerCap := n, thermCap := n, inputCap := if s.mon.inputCap = 420 then 420 else n } }
  let s := (s.setCsr oPwrCfg (BitVec.ofNat 32 s.rating)).setCsr oThermCfg 0x64
  let s := if s.boot.hostBoot then s.setCsr (oPort 24) (setFld (s.csrAt (oPort 24)) 0 1 0) else s
  let s : State := { s with mon := { s.mon with root := s.effectiveRoot } }
  let s := s.rewriteRoutes.retireCut
  let s := (List.range 25).foldl (fun t p => if t.csrF (oPort p) 0 1 = 1 then t.enablePort p else t) s
  if s.side.i3cIbi then s.emit (.ibi 0x02) else s

/-! ### Rows -/

/-- BOOT_PHASE_END (Table 12-7). A failure of the shared area's self-test stops phases 1 to 4. -/
def execBootPhaseEnd (b : BootInput) (s : State) : Out1 :=
  let k := s.boot
  if k.inReset then .next s
  else if b.sharedFail ∧ 1 ≤ k.phase.toNat ∧ k.phase.toNat ≤ 4 then .next (s.bootFail 0x06 0)
  else match k.phase.toNat with
    | 1 => .next s.nextPhase
    | 2 =>
      let s := s.nextPhase
      let s : State := { s with mon := { s.mon with root := 420 } }
      .next (if k.straps.bootMode = 1 then s.hostPort else s)
    | 3 =>
      if !k.hostBoot then .next (s.loadFlash b.flash)
      else if b.hostTimeout then .next (s.bootFail 0x05 (BitVec.ofNat 8 (k.images + 1)))
      else if 1 ≤ k.images then .next s.nextPhase
      else .next s
    | 4 =>
      if k.images = 3 then .next s.nextPhase
      else if b.hostTimeout then .next (s.bootFail 0x05 (BitVec.ofNat 8 (k.images + 1)))
      else .next s
    | 5 => .next (s.releaseAll b).nextPhase
    | 6 => .next (s.trainAll b).nextPhase
    | 7 => .next s.ready
    | _ => .next s

/-- Bytes of an image stored from an offset. -/
def putBytes : SMap (Option Byte) → Nat → List Byte → SMap (Option Byte)
  | m, _, [] => m
  | m, o, b :: r => putBytes (insertD none m o (some b)) (o + 1) r

/-- The first `n` bytes of an image, once all of them are there. -/
def firstBytes (m : SMap (Option Byte)) (n : Nat) : Option (List Byte) :=
  let l := (m.filter (fun e => decide (e.1 < n))).filterMap (fun e => e.2)
  if l.length = n then some l else none

/-- The image in hand judged, once it is whole: a good one is measured, a bad one stops boot. -/
def State.takeImage (s : State) : State :=
  let k := s.boot
  let kind := k.images + 1
  match firstBytes k.image 64 with
  | none => s
  | some h => match imageLen kind h with
    | none => s.bootFail 0x02 (BitVec.ofNat 8 kind)
    | some n => match firstBytes k.image n with
      | none => s
      | some b => match checkImage s.fuses kind b with
        | .error e => s.bootFail e (BitVec.ofNat 8 kind)
        | .ok d =>
          let digests := insertD 0 (insertD 0 k.digests 0 Config.romDigest) kind d
          { s with boot := { k with images := kind, image := [], digests := digests } }

/-- The MAC address of port 24 by the fuses, which the ROM uses (R388). -/
def Fuses.hostMac (f : Fuses) : Nat := (f.macBase.toNat + 24) % 2 ^ 48

/-- The IPv6 link-local address formed by modified EUI-64 from a MAC address: fe80::/64, the MAC with FFFE between its
halves and its universal bit inverted. -/
def linkLocal (mac : Nat) : BitVec 128 :=
  BitVec.ofNat 128 (0xFE80 * 2 ^ 112 + ((mac / 2 ^ 24 ^^^ 0x020000) * 2 ^ 40 + 0xFFFE * 2 ^ 24 + mac % 2 ^ 24))

/-- A datagram for the ROM: UDP to its address and port 0x4742, of a legal length. -/
def romTakes (f : Fuses) (i : IpUdp) (d : List Byte) : Bool :=
  i.nextHdr == 17 && i.dst == linkLocal f.hostMac && i.dport == 0x4742 && decide (72 ≤ d.length) && decide (d.length ≤ 4040)

/-- HOST_BOOT_DATAGRAM: in host boot the ROM answers each datagram with its header, and takes the image bytes of the
kind that is due (R388). Traffic class, flow label and hop limit of the answer are open values (log entry 5). -/
def execHostBootDatagram (i : IpUdp) (d : List Byte) (s : State) : Out1 :=
  let k := s.boot
  if k.inReset || !k.hostBoot || !(k.phase == 3 || k.phase == 4) || !romTakes s.fuses i d then .next s
  else
    let v := s.free
    let s := v.2.emit (.datagram {
      tclass := BitVec.ofNat 8 (fld v.1 0 8), flow := BitVec.ofNat 20 (fld v.1 8 20), hops := BitVec.ofNat 8 (fld v.1 28 8)
      src := i.dst, dst := i.src, sport := i.dport, dport := i.sport } (d.take 8))
    if leAt d 0 1 ≠ k.images + 1 then .next s
    else .next { s with boot := { k with image := putBytes k.image (leAt d 4 4) (d.drop 8) } }.takeImage

end Sys2Proof.Machine
end

