-- ==== Sys2Proof/Machine/Control.lean ====
section
/-! DEFINITION. Control and synchronisation (R45–R51, R92–R97, Table 3-21), the reads of a WAIT (R95) and the
completion of a FENCE (R96, R220). -/

namespace Sys2Proof.Machine

/-- A control instruction that uses no operand but its MOD bits. -/
def ctlShape (w : DWord) (ok : Bool) : Shape :=
  ((shZ (iDst w)).and ((shZ (iA w)).and ((shZ (iB w)).and (shZ (iC w))))).and (Shape.when ok)

/-- NOP. -/
def execNop (g : GRef) (w : DWord) (s : State) : Out1 :=
  issue s g .control 0xF0 w 0 ((ctlShape w (iMod w == 0)).and (shWhole w)) noCheck anyRoom
    (fun s v => s.setGroup g { v with pc := nextPc v.pc 1 })

/-- An address displaced by 8 × MOD, sign-extended (R92, R94). -/
def relTarget (pc : DWord) (w : DWord) : DWord := pc + wrap 64 (8 * sext 20 (iMod w))

/-- ROFF (R92). -/
def roff (w : DWord) : Nat := iDst w * 256 + iC w

/-- BRA (R46, R47). -/
def execBra (g : GRef) (w : DWord) (s : State) : Out1 :=
  let uncond := iPred w == 7 && !iPneg w
  let sh := ((shZ (iA w)).and (shZ (iB w))).and
    ((Shape.when (if uncond then roff w == 0 else decide (1 ≤ roff w))).and (shGuard w))
  issue s g .control 0xF1 w 0 sh noCheck anyRoom (fun s v =>
    let taken := v.mask &&& v.guardBits w
    let fall := v.mask &&& ~~~(v.guardBits w)
    if taken = 0 then s.setGroup g { v with pc := nextPc v.pc 1 }
    else if fall = 0 then s.setGroup g { v with pc := relTarget v.pc w }
    else if 32 ≤ v.stack.length then s.faultGroup g 0x0107 0 v.pc
    else
      s.setGroup g { v with
        stack := { rpc := v.pc + BitVec.ofNat 64 (8 * roff w), pendPc := relTarget v.pc w, pendMask := taken,
                   saved := v.mask, pendDone := false } :: v.stack
        mask := fall
        pc := nextPc v.pc 1 })

/-- A jump to an address, MISALIGN where it is no multiple of 8 (R94). -/
def jumpTo (s : State) (g : GRef) (v : Group) (target : DWord) : State :=
  if target.toNat % 8 ≠ 0 then s.faultGroup g 0x010A 0 target else s.setGroup g { v with pc := target }

/-- The shape of JMPR and RET. -/
def jumpShape (w : DWord) : Shape :=
  ((shZ (iDst w)).and ((shS (iA w) 2).and ((shZ (iB w)).and (shZ (iC w))))).and ((Shape.when (iMod w == 0)).and (shWhole w))

/-- JMPR. -/
def execJmpr (g : GRef) (w : DWord) (s : State) : Out1 :=
  issue s g .control 0xF2 w 0 (jumpShape w) noCheck anyRoom (fun s v => jumpTo s g v (v.spair (iA w)))

/-- CALL. -/
def execCall (g : GRef) (w : DWord) (s : State) : Out1 :=
  issue s g .control 0xF3 w 0
    (((shS (iDst w) 2).and ((shZ (iA w)).and ((shZ (iB w)).and (shZ (iC w))))).and (shWhole w)) noCheck anyRoom
    (fun s v => s.setGroup g { v.setS2 (iDst w) (nextPc v.pc 1) with pc := relTarget v.pc w })

/-- RET. -/
def execRet (g : GRef) (w : DWord) (s : State) : Out1 :=
  issue s g .control 0xF4 w 0 (jumpShape w) noCheck anyRoom (fun s v => jumpTo s g v (v.spair (iA w)))

/-! ### Exit -/

/-- A group exits (R45, R49, R54): registers and scratch are released, its exit counts at every barrier of
its set, and it leaves its slot once the array has done with it. -/
def State.exitGroup (s : State) (g : GRef) : State :=
  match s.group g with
  | none => s
  | some v =>
    let b := cellBlock g.cell
    let s := s.setGroup g { v with st := .exiting, vregs := [], sregs := [], preds := [], scratch := [], scratchUnits := [] }
    let s := s.modSet b v.setId (fun x => { x with exited := x.exited ++ [v.index] })
    let s := match s.setOf b v.setId with
      | none => s
      | some x => (List.range x.bars).foldl (fun t i => t.barCount b x i) s
    (s.deadlockCheck b v.setId).settleGroup g

/-- EXIT: the executing threads leave the live mask and every mask of the stack (R45). -/
def execExit (g : GRef) (w : DWord) (s : State) : Out1 :=
  issue s g .control 0xF5 w 0 ((ctlShape w (iMod w == 0)).and (shGuard w)) noCheck anyRoom (fun s v =>
    let off := ~~~(v.active w)
    let u := { v with
      live := v.live &&& off, mask := v.mask &&& off, pc := nextPc v.pc 1
      stack := v.stack.map (fun e => { e with saved := e.saved &&& off, pendMask := e.pendMask &&& off }) }
    let s := s.setGroup g u
    if u.live = 0 then s.exitGroup g else s)

/-! ### Barriers -/

/-- The checks of BAR, in the order of R98 (R50). -/
def barCheckIssue (g : GRef) (w : DWord) (s : State) (v : Group) : Option (BitVec 16) :=
  if v.mask ≠ v.live then some 0x0103
  else match s.setOf (cellBlock g.cell) v.setId with
    | some x => if x.bars ≤ fld w 0 4 then some 0x0104 else none
    | none => some 0x0104

/-- BAR: the group arrives and waits (R49). Its program counter stays at the BAR until it is released. -/
def execBar (g : GRef) (w : DWord) (s : State) : Out1 :=
  issue s g .control 0xF6 w 0 ((ctlShape w (iMod w < 16)).and (shWhole w)) (barCheckIssue g w) anyRoom (fun s v =>
    let b := cellBlock g.cell
    let s := s.setGroup g { v with st := .atBarrier (fld w 0 4) }
    match s.setOf b v.setId with
    | none => s
    | some x => (s.barCount b x (fld w 0 4)).deadlockCheck b v.setId)

/-! ### Fences -/

/-- FENCE: the group waits at it (R96). -/
def execFence (g : GRef) (w : DWord) (s : State) : Out1 :=
  issue s g .control 0xF7 w 0 ((ctlShape w (decide (iMod w % 16 < 4) && decide (iMod w < 32))).and (shWhole w)) noCheck anyRoom
    (fun s v => s.setGroup g { v with fence := some { scope := BitVec.ofNat 2 (fld w 0 2), silk := bit w 4 } })

/-- Array instructions that a fence counts: MX.LOAD, MX.LOADC, MX.DRAIN and ACT.BWD, and an MX.WCAST until
its channel has accepted it (R123; log entry 25). -/
def fencedMx (e : MxEntry) : Bool :=
  [0xC2, 0xC3, 0xC6, 0xD1].contains e.opc || (decide (e.opc = 0xC4) && !e.started)

/-- Silk requests of a group that have no response yet. -/
def State.groupReqs (s : State) (gid : Nat) : Bool :=
  s.silk.reqs.any (fun r => match r.2.waiter with
    | .load _ i _ _ _ => decide (i = gid)
    | .group _ i _ => decide (i = gid)
    | _ => false)

/-- Whether what a group's fence waits for has ended (R96, R220). -/
def State.fenceReady (s : State) (v : Group) (f : FenceRec) : Bool :=
  v.pend.all (fun a => a.silk) && !(v.mxq.any fencedMx) &&
  (!f.silk || (v.pend.isEmpty && !s.groupReqs v.gid))

/-- FENCE_COMPLETE: the caches of Table 7-4 are invalidated and the group goes on; a FENCE of a group frozen since
completes as any issued instruction does (R52, R99), and the group stays where it is. -/
def execFenceComplete (g : GRef) (s : State) : Out1 :=
  if !gOk g then .fault .noSuchUnit
  else match s.group g with
    | none => .next s
    | some v =>
      match v.fence with
      | none => .next s
      | some f =>
        if s.fenceReady v f then
          let s := s.setGroup g { v with fence := none, pc := if v.st = .running then nextPc v.pc 1 else v.pc }
          let s := if f.scope = 0 then s else s.setCell g.cell { s.cell g.cell with lineCache := [] }
          let b := cellBlock g.cell
          .next (if f.scope.toNat < 2 then s else s.setBlock b { s.block b with cache := [] })
        else .next s

/-! ### WAIT -/

/-- Most reads that a WAIT makes: at 0, 256, … up to T × 1,024 ACLK (R95). -/
def waitReads (r : WaitRec) : Nat := r.timeout * 4 + 1

/-- A read of a WAIT at the coherence point (R95, R218). -/
def State.waitRead (s : State) (g : GRef) (v : Group) (r : WaitRec) : State :=
  let t := s.translate v.ctx r.addr.toNat .load
  match t.1 with
  | .ok pa _ =>
    let x := BitVec.ofNat 64 (t.2.word pa 8)
    let s := t.2.setGroup g { v with wait := some { r with made := r.made + 1, inFlight := r.inFlight ++ [(r.made, x)] } }
    s.readHits pa 8 (.group g) (some v.ctx) (s.groupTask g)
  | .xlate => (t.2.setGroup g { v with wait := none }).faultGroup g 0x010B 0 r.addr
  | .perm => (t.2.setGroup g { v with wait := none }).faultGroup g 0x010C 0 r.addr
  | .ecc pa => (t.2.setGroup g { v with wait := none }).tableFault pa (.group g) (some v.ctx)

/-- WAIT: its first read is made at issue, as the memory path's instruction of the group. -/
def execWait (g : GRef) (w : DWord) (s : State) : Out1 :=
  let sh := ((shPd (iDst w)).and ((shS (iA w) 2).and ((shS (iB w) 2).and (shZ (iC w))))).and
    ((Shape.when (decide (fld w 13 3 < 3) && decide (fld w 16 4 = 0) && !bit w 12)).and (shWhole w))
  issue s g .control 0xF8 w 0 sh noCheck anyRoom (fun s v =>
    let a := v.spair (iA w)
    if a.toNat % 8 ≠ 0 then s.faultGroup g 0x010A 0 a
    else (s.movePtr g .memory).waitRead g v {
      addr := a, value := v.spair (iB w), pd := iDst w, cond := BitVec.ofNat 3 (fld w 13 3), timeout := fld w 0 12,
      made := 0, inFlight := [] })

/-- WAIT_POLL_READ: the next read of a group's WAIT, which a group that debug has halted does not make (R41). -/
def execWaitPollRead (g : GRef) (s : State) : Out1 :=
  if !gOk g then .fault .noSuchUnit
  else match s.group g with
    | none => .next s
    | some v =>
      match v.wait with
      | none => .next s
      | some r =>
        if v.st = .running ∧ !v.halted ∧ r.made < waitReads r then .next ((s.movePtr g .memory).waitRead g v r) else .next s

/-- The condition of a WAIT. -/
def waitMet (r : WaitRec) (x : DWord) : Bool :=
  match r.cond.toNat with
  | 0 => decide (x = r.value)
  | 1 => decide (x ≠ r.value)
  | _ => decide (r.value.toNat ≤ x.toNat)

/-- A WAIT ends with its predicate: the group goes on, unless it has been frozen since (R52, R99). -/
def Group.endWait (v : Group) (r : WaitRec) (bits : DWord) : Group :=
  { v.setP r.pd allThreads bits with wait := none, pc := if v.st = .running then nextPc v.pc 1 else v.pc }

/-- WAIT_READ_RETURN: the oldest read returns: it ends the WAIT when it meets the condition, or when it was
the last (R95). -/
def execWaitReadReturn (g : GRef) (s : State) : Out1 :=
  if !gOk g then .fault .noSuchUnit
  else match s.group g with
    | none => .next s
    | some v =>
      match v.wait with
      | none => .next s
      | some r =>
        match r.inFlight with
        | [] => .next s
        | (k, x) :: rest =>
          if waitMet r x then .next (s.setGroup g (v.endWait r allThreads))
          else if k + 1 = waitReads r then .next (s.setGroup g (v.endWait r 0))
          else .next (s.setGroup g { v with wait := some { r with inFlight := rest } })

/-- TRAP: freezes the group; the code stands in the record's address field (R97). -/
def execTrap (g : GRef) (w : DWord) (s : State) : Out1 :=
  issue s g .control 0xF9 w 0 ((ctlShape w true).and (shGuard w)) noCheck anyRoom (fun s v =>
    if v.active w = 0 then s.setGroup g { v with pc := nextPc v.pc 1 }
    else s.faultGroup g 0x010F 0 (BitVec.ofNat 64 (iMod w)))

end Sys2Proof.Machine
end

