-- ==== Sys2Proof/Machine/FloatLane.lean ====
section
/-! DEFINITION. Float instructions (R73–R75, Table 3-9). -/

namespace Sys2Proof.Machine

/-- An operand with its sign flipped where NA or NB says so (R73). -/
def negIf (n : Bool) (a : Word) : Word := if n then fneg32 a else a

/-- |a| where FN[0] says so; with IMM = 1, FN reads as zero (R71, R73). -/
def absIf (w : DWord) (a : Word) : Word := if !mIMM w && bit w 0 then a &&& 0x7FFFFFFF else a

/-- A float instruction's sources for a thread: a and b after NA and NB, c. -/
def Group.fA (v : Group) (w : DWord) (t : Nat) : Word := negIf (mNA w) (v.srcA w t)
def Group.fB (v : Group) (w : DWord) (t : Nat) : Word := negIf (mNB w) (v.srcB w (fimm w) t)

/-- Source a of FADD, FMUL and FFMA: |a| before NA (R73). -/
def Group.fAbsA (v : Group) (w : DWord) (t : Nat) : Word := negIf (mNA w) (absIf w (v.srcA w t))

def fmFAB : LaneForm := { dst := .v 1, a := 1, b := 1, c := 0, fn := 1, imm := true }
def fmFABC : LaneForm := { dst := .v 1, a := 1, b := 1, c := 1, fn := 1, imm := true }

/-- FADD. -/
def execFadd (g : GRef) (w : DWord) (s : State) : Out1 :=
  laneOp 0x40 fmFAB (fun v t => fadd32 (rmOf (mRM w)) (v.fAbsA w t) (v.fB w t)) g w s

/-- FMUL. -/
def execFmul (g : GRef) (w : DWord) (s : State) : Out1 :=
  laneOp 0x41 fmFAB (fun v t => fmul32 (rmOf (mRM w)) (v.fAbsA w t) (v.fB w t)) g w s

/-- FFMA: one rounding. -/
def execFfma (g : GRef) (w : DWord) (s : State) : Out1 :=
  laneOp 0x42 fmFABC (fun v t => ffma32 (rmOf (mRM w)) (v.fAbsA w t) (v.fB w t) (v.srcC w t)) g w s

/-- FMIN: minimumNumber. -/
def execFmin (g : GRef) (w : DWord) (s : State) : Out1 :=
  laneOp 0x43 fmAB (fun v t => resW (minmaxBits fp32 false (v.fA w t).toNat (v.fB w t).toNat)) g w s

/-- FMAX: maximumNumber. -/
def execFmax (g : GRef) (w : DWord) (s : State) : Out1 :=
  laneOp 0x44 fmAB (fun v t => resW (minmaxBits fp32 true (v.fA w t).toNat (v.fB w t).toNat)) g w s

/-- The flags of FSETP (Table 3-9): INV for a signalling NaN, and for any NaN under the ordered codes. -/
def fsetpFl (code : Nat) (a b : Val) : Nat :=
  if sigFl a ≠ 0 ∨ sigFl b ≠ 0 then fINV
  else if 2 ≤ code ∧ code ≤ 5 ∧ (isNan a ∨ isNan b) then fINV else 0

/-- FSETP, with the compare code in FN[2:0]. -/
def execFsetp (g : GRef) (w : DWord) (s : State) : Out1 :=
  lanePred 0x45 { dst := .p, a := 1, b := 1, c := 0, fn := 7, imm := false }
    (fun v t => (fcmp (fld w 0 3) (f32 (v.fA w t)) (f32 (v.fB w t)), fsetpFl (fld w 0 3) (f32 (v.fA w t)) (f32 (v.fB w t))))
    (decide (fld w 0 3 < 7)) g w s

/-- FRCP. -/
def execFrcp (g : GRef) (w : DWord) (s : State) : Out1 := laneOp 0x48 fmA (fun v t => frcpVal (v.fA w t)) g w s

/-- FRSQ. -/
def execFrsq (g : GRef) (w : DWord) (s : State) : Out1 := laneOp 0x49 fmA (fun v t => frsqVal (v.fA w t)) g w s

/-- FSQRT: correctly rounded by RM. -/
def execFsqrt (g : GRef) (w : DWord) (s : State) : Out1 :=
  laneOp 0x4A fmA (fun v t => resW (sqrtVal fp32 (rmOf (mRM w)) (f32 (v.fA w t)))) g w s

/-- FEX2. -/
def execFex2 (g : GRef) (w : DWord) (s : State) : Out1 := laneOp 0x4B fmA (fun v t => fex2Val (v.fA w t)) g w s

/-- FLG2. -/
def execFlg2 (g : GRef) (w : DWord) (s : State) : Out1 := laneOp 0x4C fmA (fun v t => flg2Val (v.fA w t)) g w s

/-- FSIN. -/
def execFsin (g : GRef) (w : DWord) (s : State) : Out1 := laneOp 0x4D fmA (fun v t => fsinCosVal false (v.fA w t)) g w s

/-- FCOS. -/
def execFcos (g : GRef) (w : DWord) (s : State) : Out1 := laneOp 0x4E fmA (fun v t => fsinCosVal true (v.fA w t)) g w s

/-- One 16-bit half of a register. -/
def half (a : Word) (h : Nat) : Nat := fld a (16 * h) 16

/-- Both halves' signs flipped (R73). -/
def negHalves (n : Bool) (a : Word) : Word := if n then a ^^^ 0x80008000 else a

/-- HFMA2 of one thread: two fused multiply-adds in fp16, or bf16 with FN[1] = 1. -/
def hfma2Val (rm : Rm) (bf : Bool) (a b c : Word) : Word × Nat :=
  let f := if bf then bf16 else fp16
  let r (h : Nat) : Res := fmaVal f rm (decodeVal f (half a h)) (decodeVal f (half b h)) (decodeVal f (half c h))
  (BitVec.ofNat 32 ((r 0).bits + (r 1).bits * 65536), fOr (r 0).fl (r 1).fl)

/-- HFMA2. -/
def execHfma2 (g : GRef) (w : DWord) (s : State) : Out1 :=
  laneOp 0x50 { dst := .v 1, a := 1, b := 1, c := 1, fn := 2, imm := false }
    (fun v t => hfma2Val (rmOf (mRM w)) (bit w 1) (negHalves (mNA w) (v.srcA w t)) (negHalves (mNB w) (v.srcB w 0 t)) (v.srcC w t)) g w s

end Sys2Proof.Machine
end

