-- ==== Sys2Proof/Machine/IntLane.lean ====
section
/-! DEFINITION. Integer instructions (R72, Table 3-8). -/

namespace Sys2Proof.Machine

/-- IADD: a + b. -/
def execIadd (g : GRef) (w : DWord) (s : State) : Out1 := intOp 0x01 fmAB (fun _ a b _ => a + b) g w s

/-- ISUB: a − b. -/
def execIsub (g : GRef) (w : DWord) (s : State) : Out1 := intOp 0x02 fmAB (fun _ a b _ => a - b) g w s

/-- IMUL: low 32 bits of a × b. -/
def execImul (g : GRef) (w : DWord) (s : State) : Out1 := intOp 0x03 fmAB (fun _ a b _ => a * b) g w s

/-- IMULHI: high 32 bits of the product. -/
def execImulhi (g : GRef) (w : DWord) (s : State) : Out1 := intOp 0x04 fmAB (fun w a b _ => mulHi (mU w) a b) g w s

/-- IMAD: low 32 bits of a × b + c. -/
def execImad (g : GRef) (w : DWord) (s : State) : Out1 := intOp 0x05 fmABC (fun _ a b c => a * b + c) g w s

/-- IMIN: the smaller. -/
def execImin (g : GRef) (w : DWord) (s : State) : Out1 := intOp 0x06 fmAB (fun w a b _ => if ltW (mU w) b a then b else a) g w s

/-- IMAX: the larger. -/
def execImax (g : GRef) (w : DWord) (s : State) : Out1 := intOp 0x07 fmAB (fun w a b _ => if ltW (mU w) a b then b else a) g w s

/-- IABS: |a|; the result for 0x8000_0000 is itself. -/
def execIabs (g : GRef) (w : DWord) (s : State) : Out1 := intOp 0x08 fmA (fun _ a _ _ => if a.msb then -a else a) g w s

/-- AND. -/
def execIand (g : GRef) (w : DWord) (s : State) : Out1 := intOp 0x09 fmAB (fun _ a b _ => a &&& b) g w s

/-- OR. -/
def execIor (g : GRef) (w : DWord) (s : State) : Out1 := intOp 0x0A fmAB (fun _ a b _ => a ||| b) g w s

/-- XOR. -/
def execIxor (g : GRef) (w : DWord) (s : State) : Out1 := intOp 0x0B fmAB (fun _ a b _ => a ^^^ b) g w s

/-- ANDN: a AND NOT b. -/
def execAndn (g : GRef) (w : DWord) (s : State) : Out1 := intOp 0x0C fmAB (fun _ a b _ => a &&& ~~~b) g w s

/-- SHL. -/
def execShl (g : GRef) (w : DWord) (s : State) : Out1 := intOp 0x0D fmAB (fun _ a b _ => shlW a b) g w s

/-- SHR: logical with U = 1, else arithmetic. -/
def execShr (g : GRef) (w : DWord) (s : State) : Out1 := intOp 0x0E fmAB (fun w a b _ => shrW (mU w) a b) g w s

/-- POPC: number of 1 bits. -/
def execPopc (g : GRef) (w : DWord) (s : State) : Out1 :=
  intOp 0x0F fmA (fun _ a _ _ => BitVec.ofNat 32 (popN 32 a.toNat)) g w s

/-- CLZ: leading zeros, 32 for zero. -/
def execClz (g : GRef) (w : DWord) (s : State) : Out1 :=
  intOp 0x10 fmA (fun _ a _ _ => BitVec.ofNat 32 (clzN 32 a.toNat)) g w s

/-- BREV: bit order reversed. -/
def execBrev (g : GRef) (w : DWord) (s : State) : Out1 :=
  intOp 0x11 fmA (fun _ a _ _ => BitVec.ofNat 32 (revN 32 a.toNat)) g w s

/-- ISETP: bit t of pd for each active thread. -/
def execIsetp (g : GRef) (w : DWord) (s : State) : Out1 :=
  lanePred 0x12 { dst := .p, a := 1, b := 1, c := 0, imm := true }
    (fun v t => (icmp (mU w) (mCmp w) (v.srcA w t) (v.srcB w (imm12 w) t), 0)) (decide (mCmp w < 6)) g w s

/-- SEL: a where bit t of pc is 1, else b. -/
def execSel (g : GRef) (w : DWord) (s : State) : Out1 :=
  laneOp 0x13 { dst := .v 1, a := 1, b := 1, c := 1, cPred := true, imm := true }
    (fun v t => (if bit (v.pred (iC w)) t then v.srcA w t else v.srcB w (imm12 w) t, 0)) g w s

/-- The pair sum of IADD64 for thread `t`: IMM adds the sign-extended immediate. -/
def iadd64At (v : Group) (w : DWord) (t : Nat) : DWord :=
  v.srcPair (mAS w) (iA w) t +
    (if mIMM w then wrap 64 (sext 12 (fld w 0 12)) else v.srcPair (mBS w) (iB w) t)

/-- IADD64: pair sum. -/
def execIadd64 (g : GRef) (w : DWord) (s : State) : Out1 :=
  issue s g .lanes 0x14 w 0 (({ dst := .v 2, a := 2, b := 2, c := 0, imm := true } : LaneForm).shape w) noCheck anyRoom
    (fun s v =>
      let act := v.active w
      let u := (v.setV (iDst w) act (fun t => loWord (iadd64At v w t))).setV (iDst w + 1) act (fun t => hiWord (iadd64At v w t))
      s.setGroup g { u with pc := nextPc v.pc 1 })

/-- MOV: a copy, or the sign-extended immediate. -/
def execMov (g : GRef) (w : DWord) (s : State) : Out1 :=
  intOp 0x15 { dst := .v 1, a := 1, b := 0, c := 0, imm := true, mov := true }
    (fun w a _ _ => if mIMM w then imm12 w else a) g w s

/-- BSHUF: bytes picked by the selectors in FN. -/
def execBshuf (g : GRef) (w : DWord) (s : State) : Out1 :=
  intOp 0x16 { dst := .v 1, a := 1, b := 1, c := 0, fn := 0xFFF, imm := false } (fun w a b _ => bshufW (mFn w) a b) g w s

end Sys2Proof.Machine
end

