-- ==== Sys2Proof/Machine/LaneMove.lean ====
section
/-! DEFINITION. Conversions (R76–R79, R141–R145, Tables 3-10 to 3-12) and lane data movement and votes (R80,
Table 3-13). -/

namespace Sys2Proof.Machine

/-- The fields of Table 3-10. -/
def cFrom (w : DWord) : Nat := fld w 12 4
def cTo (w : DWord) : Nat := fld w 8 4
def cRM (w : DWord) : Nat := fld w 5 3
def cSat (w : DWord) : Bool := bit w 4
def cPos (w : DWord) : Nat := fld w 2 2

/-- Width in a register of a format code (Table 3-11); 6-bit and 4-bit elements sit in a byte. -/
def codeWidth (c : Nat) : Nat := if c = 0 ∨ c = 5 ∨ c = 6 then 32 else if c = 1 ∨ c = 2 then 16 else 8

/-- Whether a code is an integer format. -/
def isIntCode (c : Nat) : Bool := decide (5 ≤ c) && decide (c ≤ 8)

/-- MX element codes of CVT.MX. -/
def isMxCode (c : Nat) : Bool := decide (c = 3) || decide (c = 4) || decide (c = 9) || decide (c = 10) || decide (c = 11)

/-- The shape that CVT and CVT.MX share (R76–R78): `regs` registers in each vector operand. -/
def cvtShape (w : DWord) (regs : Nat) (ok : Bool) : Shape :=
  let vr (n : Nat) : Shape := let l := (List.range regs).map (n + ·); ⟨true, l, l⟩
  let d := vr (iDst w)
  let a := if mAS w then shS (iA w) else vr (iA w)
  let bc := if cRM w = 4 then (shS (iB w)).and (shV (iC w)) else (shZ (iB w)).and (shZ (iC w))
  let m := Shape.when (ok && !bit w 19 && !bit w 17 && !bit w 16 && decide (fld w 0 2 = 0) && decide (cFrom w ≤ 11) &&
    decide (cTo w ≤ 11) && decide (cRM w ≤ 4) && decide (cPos w < 32 / min (codeWidth (cFrom w)) (codeWidth (cTo w))))
  ((d.and a).and bc).and (m.and (shGuard w))

/-- The rounding of a thread's conversion (R78, Table 5-4). -/
def cvtRm (s : State) (v : Group) (w : DWord) (t : Nat) : Rm :=
  if cRM w = 4 then .stoch (randWord (s.seed v.ctx) 2 (v.sreg (iB w)).toNat (v.vreg (iC w) t).toNat 0)
  else rmOf (cRM w)

/-- A narrow source taken from position POS (R77). -/
def pickPos (width pos : Nat) (x : Word) : Nat :=
  if width = 32 then x.toNat else if width = 16 then fld x (16 * (pos % 2)) 16 else fld x (8 * pos) 8

/-- A narrow result put at position POS, other bits unchanged (R77). -/
def putPos (width pos : Nat) (old : Word) (r : Nat) : Word :=
  if width = 32 then BitVec.ofNat 32 r else if width = 16 then setFld old (16 * (pos % 2)) 16 r else setFld old (8 * pos) 8 r

/-- CVT of one thread: the new value of vd, and flags. -/
def cvtAt (s : State) (v : Group) (w : DWord) (t : Nat) : Word × Nat :=
  let x := pickPos (codeWidth (cFrom w)) (cPos w) (v.srcA w t)
  let r := cvtOne (cFrom w) (cTo w) (cvtRm s v w t) (cSat w) x
  (putPos (codeWidth (cTo w)) (cPos w) (v.vreg (iDst w) t) r.bits, r.fl)

/-- CVT. -/
def execCvt (g : GRef) (w : DWord) (s : State) : Out1 :=
  issue s g .lanes 0x80 w 0
    (cvtShape w 1 (decide (cFrom w < 9) && decide (cTo w < 9) && !(isIntCode (cFrom w) && isIntCode (cTo w))))
    noCheck anyRoom (fun s v => s.setGroup g (laneWrite v w (cvtAt s v w)))

/-- The block of a thread has an active thread (R79). -/
def mxBlockOn (v : Group) (w : DWord) (t : Nat) : Bool :=
  decide (fld (v.active w) (t / 32 * 32) 32 ≠ 0)

/-- CVT.MX of one block from fp32: scale, elements, flags; inactive threads contribute +0 (R79, R144). -/
def mxBlock (s : State) (v : Group) (w : DWord) (j : Nat) : Nat × List Nat × Nat :=
  let ts := (List.range 32).map (32 * j + ·)
  mxFromF32 (cTo w) (ts.map (fun t => if bit (v.active w) t then f32 (v.srcA w t) else .fin false 0 0))
    (ts.map (cvtRm s v w))

/-- CVT.MX with FROM = fp32: elements to byte POS of vd, scales to byte 0 of v(d + 1) of thread 32j. -/
def cvtMxFrom (s : State) (v : Group) (w : DWord) : Group :=
  let b0 := mxBlock s v w 0
  let b1 := mxBlock s v w 1
  let el (t : Nat) : Nat := (if t < 32 then b0.2.1 else b1.2.1).getD (t % 32) 0
  let u := v.setV (iDst w) (v.active w) (fun t => setFld (v.vreg (iDst w) t) (8 * cPos w) 8 (el t))
  let put (u : Group) (t sc : Nat) : Group :=
    if mxBlockOn v w t then u.setV (iDst w + 1) (1#64 <<< t) (fun t => setFld (v.vreg (iDst w + 1) t) 0 8 sc) else u
  let u := put (put u 0 b0.1) 32 b1.1
  u.raiseF (fOr (if mxBlockOn v w 0 then b0.2.2 else 0) (if mxBlockOn v w 32 then b1.2.2 else 0))

/-- CVT.MX with TO = fp32 of one thread. -/
def cvtMxTo (s : State) (v : Group) (w : DWord) (t : Nat) : Word × Nat :=
  resW (mxToF32 (cFrom w) (pickPos 8 (cPos w) (v.vreg (iA w) t)) (fld (v.vreg (iA w + 1) (t / 32 * 32)) 0 8) (cvtRm s v w t))

/-- The registers of CVT.MX: two where scales stand beside the elements (R79). -/
def cvtMxShape (w : DWord) : Shape :=
  let two (n : Nat) : Shape := ⟨true, [n, n + 1], [n, n + 1]⟩
  let one (n : Nat) : Shape := ⟨true, [n], [n]⟩
  (cvtShape w 1 (!mAS w && cSat w && ((decide (cFrom w = 0) && isMxCode (cTo w)) || (decide (cTo w = 0) && isMxCode (cFrom w))))).and
    (if cFrom w = 0 then (two (iDst w)).and (one (iA w)) else (one (iDst w)).and (two (iA w)))

/-- CVT.MX. -/
def execCvtMx (g : GRef) (w : DWord) (s : State) : Out1 :=
  issue s g .lanes 0x81 w 0 (cvtMxShape w) noCheck anyRoom (fun s v =>
    s.setGroup g (if cFrom w = 0 then { cvtMxFrom s v w with pc := nextPc v.pc 1 } else laneWrite v w (cvtMxTo s v w)))

/-- TID: the thread's number. -/
def execTid (g : GRef) (w : DWord) (s : State) : Out1 :=
  laneOp 0x90 { dst := .v 1, a := 0, b := 0, c := 0, imm := false } (fun _ t => (BitVec.ofNat 32 t, 0)) g w s

/-- The thread that SHFL reads for thread `t`: outside 0–63, thread t itself (Table 3-13). -/
def shflFrom (fn t b : Nat) : Nat :=
  match fn with
  | 0 => if b < 64 then b else t
  | 1 => if b ≤ t then t - b else t
  | 2 => if t + b < 64 then t + b else t
  | _ => if t ^^^ b < 64 then t ^^^ b else t

/-- SHFL: the source register as it stands, whether or not its thread is active (R80). -/
def execShfl (g : GRef) (w : DWord) (s : State) : Out1 :=
  laneOp 0x91 { dst := .v 1, a := 1, b := 1, c := 0, fn := 3, imm := false }
    (fun v t => (v.srcA w (shflFrom (fld w 0 2) t (v.srcB w 0 t).toNat), 0)) g w s

/-- The shape of VOTE. -/
def voteShape (w : DWord) : Shape :=
  ((if fld w 0 2 = 2 then shS (iDst w) 2 else shPd (iDst w)).and (shP (iA w))).and
    (((shZ (iB w)).and (shZ (iC w))).and
      ((Shape.when (decide (fld w 0 2 < 3) && decide (fld w 2 10 = 0) && decide (fld w 16 4 = 0))).and (shGuard w)))

/-- VOTE: it acts once, even with no active thread (R69, R80). -/
def execVote (g : GRef) (w : DWord) (s : State) : Out1 :=
  issue s g .lanes 0x92 w 0 (voteShape w) noCheck anyRoom (fun s v =>
    let act := v.active w
    let hit := v.pred (iA w) &&& act
    let u := match fld w 0 2 with
      | 0 => v.setP (iDst w) allThreads (if hit = 0 then 0 else allThreads)
      | 1 => v.setP (iDst w) allThreads (if hit = act then allThreads else 0)
      | _ => v.setS2 (iDst w) hit
    s.setGroup g { u with pc := nextPc v.pc 1 })

/-- READLANE: one thread's register to a scalar (R80); a once instruction (R69). -/
def execReadlane (g : GRef) (w : DWord) (s : State) : Out1 :=
  issue s g .lanes 0x93 w 0 (({ dst := .s, a := 1, b := 1, c := 0, bScal := true, imm := true } : LaneForm).shape w) noCheck anyRoom
    (fun s v =>
      let t := (v.srcB w (imm12 w) 0).toNat % 64
      let u := if v.active w = 0 then v else v.setS (iDst w) (v.srcA w t)
      s.setGroup g { u with pc := nextPc v.pc 1 })

end Sys2Proof.Machine
end

