-- ==== Sys2Proof/Machine/Mgmt.lean ====
section
/-! DEFINITION. Access from outside to registers and memory (R283, R284, R318): the management frames, and the accesses
that I3C and JTAG share with them, with the limits that cocoons place on them (Table 10-3). -/

namespace Sys2Proof.Machine

/-! ### Debug access to memory (Table 10-3) -/

/-- A range that lies in the HBM3E and Layer Store ranges, outside holes (R211, R284). -/
def State.debugRange (s : State) (pa n : Nat) : Bool := s.inDram pa 1 && s.inDram (pa + (n - 1)) 1

/-- A byte as Monarch reads it for the outside: a cocoon's HBM3E below the XTS engine, its other storage masked. -/
def State.debugByte (s : State) (pa : Nat) : Byte :=
  match s.cocoonAt pa with
  | none => s.byte pa
  | some _ => (match placeOf pa with | some (.hbm _) => s.cipherByte pa | _ => 0xC0)

/-- Whether any byte of a range is a cocoon's. -/
def State.touchesCocoon (s : State) (pa n : Nat) : Bool := (List.range n).any (fun i => (s.cocoonAt (pa + i)).isSome)

/-- A range reaches a cocoon's HBM3E, or a cocoon's other storage. -/
def State.cipherIn (s : State) (pa n : Nat) : Bool :=
  (List.range n).any (fun i => (s.cocoonAt (pa + i)).isSome && (match placeOf (pa + i) with | some (.hbm _) => true | _ => false))
def State.maskedIn (s : State) (pa n : Nat) : Bool :=
  (List.range n).any (fun i => (s.cocoonAt (pa + i)).isSome && (match placeOf (pa + i) with | some (.hbm _) => false | _ => true))

/-- A read of memory from the outside; SEC_DEBUG_STATUS counts each access once for each kind (log entry 53). -/
def State.debugRead (s : State) (pa n : Nat) : List Byte × State :=
  let s := s.readHits pa n .monarch none none
  let masked := if s.maskedIn pa n then satInc s.sec.masked else s.sec.masked
  let cipher := if s.cipherIn pa n then satInc s.sec.cipher else s.sec.cipher
  ((List.range n).map (fun i => s.debugByte (pa + i)), s.setSec { s.sec with masked := masked, cipher := cipher })

/-- A write of memory from the outside: at its coherence point, with the doorbells that it rings (R291). -/
def State.debugWrite (s : State) (pa : Nat) (bs : List Byte) : State := (s.write pa bs).ringBells [(pa, bs.length)]

/-- Registers read upward from an offset. -/
def State.readWords (s : State) : Nat → Nat → List Byte × State
  | _, 0 => ([], s)
  | off, n + 1 =>
    let v := s.readWord off
    let r := v.2.readWords (off + 4) n
    (leBytes 4 v.1.toNat ++ r.1, r.2)

/-- Registers written upward from an offset, one at a time. -/
def State.writeWords (s : State) : Nat → List Word → State
  | _, [] => s
  | off, v :: r => (s.writeWord off v).writeWords (off + 4) r

/-- The 32-bit words that bytes spell. -/
def bytesWords : Nat → List Byte → List Word
  | 0, _ => []
  | n + 1, b => BitVec.ofNat 32 (leAt b 0 4) :: bytesWords n (b.drop 4)

/-- `n` words from a physical address lie in the control space. -/
def inCsr (a n : Nat) : Bool := decide (csrBase ≤ a) && decide (a + 4 * n ≤ csrBase + 0x100000000)

/-! ### Management frames (R283, R284, Tables 9-2, 9-3) -/

/-- MGMT frames of this sender by this link are accepted (R283). -/
def State.mgmtFrom (s : State) (l : Nat) (src : BitVec 16) : Bool :=
  (List.range 32).any (fun e =>
    decide (s.csrF (oEp e) 0 2 = 3) && decide (s.csrF (oEp e) 16 16 = src.toNat)) &&
  (decide (24 ≤ l) || decide (s.csrF (oHost 0) 16 1 = 1))

/-- A MGMT header's fields lie in their limits, for each operation (Table 9-2; log entry 52). -/
def mgmtOk (b : List Byte) : Bool :=
  let mop := leAt b 0 1
  let n := leAt b 2 2
  let csr := decide (1 ≤ n) && decide (n ≤ 64)
  let mem := n % 4 == 0 && decide (4 ≤ n) && decide (n ≤ 4080)
  decide (16 ≤ b.length) && leAt b 1 1 == 0 && leAt b 4 4 == 0 &&
  (if mop = 1 then csr && b.length == 16 && leAt b 8 8 % 4 == 0
   else if mop = 2 then csr && b.length == 16 + 4 * n && leAt b 8 8 % 4 == 0
   else if mop = 3 then mem && b.length == 16 && leAt b 8 8 % 4 == 0
   else if mop = 4 then mem && b.length == 16 + n && leAt b 8 8 % 4 == 0
   else if mop = 5 then b.length == 16 && decide (leAt b 8 8 < 25)
   else false)

/-- A MGMT frame of one operation, or of none that Table 9-3 lists: received, judged, carried out. -/
def mgmtRow (mop l : Nat) (f : Frame) (s : State) (work : State → State) : Out1 :=
  let m := leAt f.payload 0 1
  if !(linkOk l || l == selfLink) then .fault .noSuchUnit
  else if f.tx.op ≠ opMgmt ∨ f.tx.rsp ∨ f.tx.dst ≠ s.node ∨ (m ≠ mop ∧ 1 ≤ m ∧ m ≤ 5) then .next s
  else match s.receive l f with
    | .error t => .next t
    | .ok t =>
      let t := t.returnCredit l f
      if reqBad f then .next ((t.answer (linkSlice l) f nakBadreq []).violateAt l 0x08)
      else if !t.mgmtFrom l f.tx.src then .next (t.answer (linkSlice l) f nakPerm [])
      else if f.tx.enc || !mgmtOk f.payload then .next (t.answer (linkSlice l) f nakBadreq [])
      else .next (work t)

/-- CSR_READ. -/
def execCsrRead (l : Nat) (f : Frame) (s : State) : Out1 :=
  mgmtRow 1 l f s (fun s =>
    let n := leAt f.payload 2 2
    let a := leAt f.payload 8 8
    if inCsr a n then
      let r := s.readWords (a - csrBase) n
      r.2.answer (linkSlice l) f 0 r.1
    else s.answer (linkSlice l) f nakBounds [])

/-- CSR_WRITE. -/
def execCsrWrite (l : Nat) (f : Frame) (s : State) : Out1 :=
  mgmtRow 2 l f s (fun s =>
    let n := leAt f.payload 2 2
    let a := leAt f.payload 8 8
    if inCsr a n then
      (s.writeWords (a - csrBase) (bytesWords n (f.payload.drop 16))).answer (linkSlice l) f 0 []
    else s.answer (linkSlice l) f nakBounds [])

/-- MEM_READ. -/
def execMemRead (l : Nat) (f : Frame) (s : State) : Out1 :=
  mgmtRow 3 l f s (fun s =>
    let n := leAt f.payload 2 2
    let a := leAt f.payload 8 8
    if s.debugRange a n then
      let r := s.debugRead a n
      r.2.answer (linkSlice l) f 0 r.1
    else s.answer (linkSlice l) f nakBounds [])

/-- MEM_WRITE: refused whole where it reaches a cocoon's memory (Table 10-3). -/
def execMemWrite (l : Nat) (f : Frame) (s : State) : Out1 :=
  mgmtRow 4 l f s (fun s =>
    let n := leAt f.payload 2 2
    let a := leAt f.payload 8 8
    if !s.debugRange a n then s.answer (linkSlice l) f nakBounds []
    else if s.touchesCocoon a n then s.answer (linkSlice l) f nakPerm []
    else (s.debugWrite a (f.payload.drop 16)).answer (linkSlice l) f 0 [])

/-- QUAR_CLEAR. -/
def execQuarClear (l : Nat) (f : Frame) (s : State) : Out1 :=
  mgmtRow 5 l f s (fun s => (s.endQuar (leAt f.payload 8 8 % 32)).answer (linkSlice l) f 0 [])

end Sys2Proof.Machine
end

