-- ==== Sys2Proof/Machine/Sideband.lean ====
section
/-! DEFINITION. The I3C target and the JTAG port (R391–R393, R402). What the standards that the manual names add is
not modelled beyond what the manual says (log entry 11). -/

namespace Sys2Proof.Machine

/-- The sideband acts: the package is not in reset. -/
def sideRow (s : State) (t : State) : Out1 := if s.boot.inReset then .next s else .next t

/-- The sideband state replaced. -/
def State.setSide (s : State) (k : Side) : State := { s with side := k }

/-! ### I3C common command codes (R391) -/

/-- ENEC: in-band interrupts enabled by bit 0 of the events (ENINT). -/
def execEnec (ev : Byte) (s : State) : Out1 := sideRow s (if bit ev 0 then s.setSide { s.side with i3cIbi := true } else s)

/-- DISEC. -/
def execDisec (ev : Byte) (s : State) : Out1 := sideRow s (if bit ev 0 then s.setSide { s.side with i3cIbi := false } else s)

/-- RSTDAA: the dynamic address is given up. -/
def execRstdaa (s : State) : Out1 := sideRow s (s.setSide { s.side with i3cDyn := none })

/-- ENTDAA: a target without a dynamic address takes one. -/
def execEntdaa (a : BitVec 7) (s : State) : Out1 :=
  sideRow s (if s.side.i3cDyn.isNone then s.setSide { s.side with i3cDyn := some a } else s)

/-- SETDASA: the target at static address 0x5C takes a dynamic address. -/
def execSetdasa (a : BitVec 7) (s : State) : Out1 :=
  sideRow s (if s.side.i3cDyn.isNone then s.setSide { s.side with i3cDyn := some a } else s)

/-- GETPID: manufacturer id in [47:33], package serial bits [31:0] in [31:0]. -/
def execGetpid (s : State) : Out1 :=
  sideRow s (s.emit (.i3c (beBytes 6 (Config.mipiId.toNat * two32 + s.fuses.serial.toNat % two32))))

/-- GETBCR. -/
def execGetbcr (s : State) : Out1 := sideRow s (s.emit (.i3c [Config.i3cBcr]))

/-- GETDCR. -/
def execGetdcr (s : State) : Out1 := sideRow s (s.emit (.i3c [Config.i3cDcr]))

/-- GETSTATUS: its word is open. -/
def execGetstatus (s : State) : Out1 :=
  sideRow s ({ s with freeCtr := s.freeCtr + 1 }.emit (.i3c (beBytes 2 (Config.i3cStatus s.freeCtr).toNat)))

/-- GETMWL. -/
def execGetmwl (s : State) : Out1 := sideRow s (s.emit (.i3c (beBytes 2 Config.i3cMwl.toNat)))

/-- GETMRL. -/
def execGetmrl (s : State) : Out1 := sideRow s (s.emit (.i3c (beBytes 3 Config.i3cMrl.toNat)))

/-- RSTACT: supported; the manual gives it no effect on the state that the manual describes. -/
def execRstact (_ : Byte) (s : State) : Out1 := sideRow s s

/-! ### Requests (R392) -/

/-- Status bytes of a private read. -/
def i3cOk : Byte := 0x00
def i3cBounds : Byte := 0x01
def i3cPerm : Byte := 0x02

/-- A CSR read: status and data. -/
def State.sideCsrRead (s : State) (a n : Nat) : Byte × List Byte × State :=
  if 1 ≤ n ∧ n ≤ 16 ∧ a % 4 = 0 ∧ inCsr a n = true then
    let r := s.readWords (a - csrBase) n
    (i3cOk, r.1, r.2)
  else (i3cBounds, [], s)

/-- A CSR write. -/
def State.sideCsrWrite (s : State) (a : Nat) (ws : List Word) : Byte × State :=
  if a % 4 = 0 ∧ inCsr a ws.length = true then (i3cOk, s.writeWords (a - csrBase) ws) else (i3cBounds, s)

/-- A memory read of `n` 4-byte units. -/
def State.sideMemRead (s : State) (a n : Nat) : Byte × List Byte × State :=
  if 1 ≤ n ∧ n ≤ 64 ∧ a % 4 = 0 ∧ s.debugRange a (4 * n) = true then
    let r := s.debugRead a (4 * n)
    (i3cOk, r.1, r.2)
  else (i3cBounds, [], s)

/-- A memory write. -/
def State.sideMemWrite (s : State) (a : Nat) (bs : List Byte) : Byte × State :=
  if bs.length % 4 ≠ 0 ∨ a % 4 ≠ 0 ∨ s.debugRange a bs.length = false then (i3cBounds, s)
  else if s.touchesCocoon a bs.length then (i3cPerm, s)
  else (i3cOk, s.debugWrite a bs)

/-- The answer that the next private read returns. -/
def State.i3cAnswer (s : State) (b : List Byte) : State := s.setSide { s.side with i3cResp := b }

/-- I3C_CSR_READ. -/
def execI3cCsrRead (a : BitVec 48) (n : Nat) (s : State) : Out1 :=
  let r := s.sideCsrRead a.toNat n
  sideRow s (r.2.2.i3cAnswer (r.1 :: r.2.1))

/-- I3C_CSR_WRITE. -/
def execI3cCsrWrite (a : BitVec 48) (ws : List Word) (s : State) : Out1 :=
  let r := s.sideCsrWrite a.toNat ws
  sideRow s (r.2.i3cAnswer [r.1])

/-- I3C_MEMORY_READ. -/
def execI3cMemoryRead (a : BitVec 48) (n : Nat) (s : State) : Out1 :=
  let r := s.sideMemRead a.toNat n
  sideRow s (r.2.2.i3cAnswer (r.1 :: r.2.1))

/-- I3C_MEMORY_WRITE. -/
def execI3cMemoryWrite (a : BitVec 48) (bs : List Byte) (s : State) : Out1 :=
  let r := s.sideMemWrite a.toNat bs
  sideRow s (r.2.i3cAnswer [r.1])

/-- I3C_PRIVATE_READ: the answer of the last request. -/
def execI3cPrivateRead (s : State) : Out1 := sideRow s (s.emit (.i3c s.side.i3cResp))

/-! ### JTAG (R393) -/

/-- The instructions of the TAP; their codes are the model's own, for the manual gives none. -/
def irBypass : Nat := 0
def irIdcode : Nat := 1
def irSample : Nat := 2
def irExtest : Nat := 3
def irClamp : Nat := 4
def irHighz : Nat := 5
def irDebug : Nat := 6

/-- An instruction loaded: not while TRST_N holds the TAP in Test-Logic-Reset. `out` tells that the boundary cells
drive the pads, `hz` that the pads are released. -/
def jtagRow (s : State) (ir : Nat) (out hz : Bool) (work : State → State) : Out1 :=
  if s.side.tapReset then .next s
  else .next (work (s.setSide { s.side with jtagIr := ir, bsrOut := out, highz := hz }))

/-- BYPASS: the one-bit register captures 0. -/
def execBypass (s : State) : Out1 := jtagRow s irBypass false false (fun t => t.emit (.jtag 1 0))

/-- IDCODE's value. -/
def idcodeValue : Nat := 0x1 * 2 ^ 28 + 0x6A70 * 2 ^ 12 + Config.jedecCode.toNat * 2 + 1

/-- IDCODE. -/
def execIdcode (s : State) : Out1 := jtagRow s irIdcode false false (fun t => t.emit (.jtag 32 idcodeValue))

/-- SAMPLE/PRELOAD: the boundary cells hold what is shifted in. -/
def execSamplePreload (pads : List Bool) (s : State) : Out1 :=
  jtagRow s irSample false false (fun t => t.setSide { t.side with pads := pads })

/-- EXTEST: the boundary cells drive the pads. -/
def execExtest (pads : List Bool) (s : State) : Out1 :=
  jtagRow s irExtest true false (fun t => t.setSide { t.side with pads := pads })

/-- CLAMP: the boundary cells drive the pads, and the bypass register is selected. -/
def execClamp (s : State) : Out1 := jtagRow s irClamp true false (fun t => t.emit (.jtag 1 0))

/-- HIGHZ: the pads are released, and the bypass register is selected. -/
def execHighz (s : State) : Out1 := jtagRow s irHighz false true (fun t => t.emit (.jtag 1 0))

/-- A debug access through the 96-bit register: byte 0 opcode of R392, bytes 1–6 address, 7–10 data (log entry 57);
the answer is the status byte and a word of data. A write to cocoon storage is dropped (Table 10-3). -/
def State.debugAccess (s : State) (op a : Nat) (data : List Byte) : List Byte × State :=
  match op with
  | 1 => let r := s.sideCsrRead a 1; (r.1 :: r.2.1, r.2.2)
  | 2 => let r := s.sideCsrWrite a (bytesWords 1 data); ([r.1], r.2)
  | 3 => let r := s.sideMemRead a 1; (r.1 :: r.2.1, r.2.2)
  | 4 => let r := s.sideMemWrite a data; ([r.1], r.2)
  | _ => ([], s)

/-- DEBUG: the access of the data register; its answer is captured. Monarch cannot act while the package is in reset. -/
def execDebug (dr : BitVec 96) (s : State) : Out1 :=
  jtagRow s irDebug false false (fun t =>
    if t.boot.inReset then t
    else
      let b := leBytes 12 dr.toNat
      let r := t.debugAccess (leAt b 0 1) (leAt b 1 6) (slice b 7 4)
      (r.2.setSide { r.2.side with debugDr := r.1 }).emit (.jtag 96 (leNat r.1)))

/-- JTAG_TRST: TRST_N low holds the TAP in Test-Logic-Reset. -/
def execJtagTrst (low : Bool) (s : State) : Out1 :=
  .next (s.setSide (if low then { s.side with tapReset := true, jtagIr := irIdcode, bsrOut := false, highz := false }
    else { s.side with tapReset := false }))

end Sys2Proof.Machine
end

