-- ==== Sys2Proof/Machine/Wcast.lean ====
section
/-! DEFINITION. The weight broadcast engine (R108, R112–R117, R134): beats read, granted and added, and the
stall of a channel. -/

namespace Sys2Proof.Machine

/-- The group slot and place of the STREAM that a cell executes on a channel and that needs a further beat. -/
def State.taker (s : State) (cell c ctx : Nat) : Option (Nat × Nat × MxEntry) :=
  (s.cell cell).groups.findSome? (fun x =>
    if x.2.ctx ≠ ctx then none
    else match x.2.mxq.findIdx? (fun e => e.started && decide (e.opc = 0xC5) && decide (e.chan = some c) && decide (e.kdone < e.need)) with
      | some k => (x.2.mxq[k]?).map (fun e => (x.1, k, e))
      | none => none)

/-- Whether a cell takes a beat now: it executes a STREAM that needs one, and ARRAY_HOLD is clear (Table 4-17). -/
def State.takes (s : State) (cell c ctx : Nat) : Bool :=
  (s.taker cell c ctx).isSome && decide (s.csrF (oCell cell 0x084) 0 1 = 0)

/-- The rows that a beat of a WCAST reads, one per k, or one per column and k for TR = 1 (R112, R128). -/
def beatRows (w : Wcast) : List (Nat × Nat) :=
  let bw := elemBits w.fmt
  let n := kPerBeat w.fmt
  let ks := (List.range n).filterMap (fun i => if w.granted * n + i < w.kw then some (w.granted * n + i) else none)
  if w.tr then
    ks.flatMap (fun k => (List.range 16).map (fun j => (w.addr.toNat + j * w.stride + k * (bw / 8), bw / 8)))
  else ks.map (fun k => (w.addr.toNat + k * w.stride, 2 * bw))

/-- The scale sideband of a beat: with the first beat of every 32 k (R112). -/
def beatScales (w : Wcast) : List (Nat × Nat) :=
  let k := w.granted * kPerBeat w.fmt
  if isMx w.fmt ∧ k % 32 = 0 then [(w.saddr.toNat + k / 32 * w.sstride, 16)] else []

/-- The alignments of Table 4-7 and R224. -/
def wcastAlign (w : Wcast) : List Align :=
  descAlign w.addr.toNat w.stride (if w.tr then 32 else 8) w.saddr.toNat w.sstride 16 (isMx w.fmt)

/-- Element (column j, position i within the beat) of the bytes read for a beat, positions beyond K_W zero. -/
def beatElem (w : Wcast) (bs : List Byte) (j i : Nat) : Nat :=
  let bw := elemBits w.fmt
  if bw = 4 then leAt bs (i * 8 + j / 2) 1 / 2 ^ (4 * (j % 2)) % 16 else leAt bs ((i * 16 + j) * (bw / 8)) (bw / 8)

/-- The two bytes that a beat carries for a column: its elements, lower k lowest (R112; log entry 26). -/
def beatCol (w : Wcast) (bs : List Byte) (j : Nat) : Nat :=
  (List.range (kPerBeat w.fmt)).foldl (fun a i => a + beatElem w bs j i * 2 ^ (elemBits w.fmt * i)) 0

/-- Element k of the input operand in a row buffer (R104, R107). -/
def bufElem (c : Cell) (b row : Nat) (t : Tag) (f k : Nat) : Nat :=
  let bw := elemBits f
  let o := row * 2048 + partByte b t + k * bw / 8
  if bw = 16 then (lookupD 0 c.rowBuf o).toNat + 256 * (lookupD 0 c.rowBuf (o + 1)).toNat
  else if bw = 8 then (lookupD 0 c.rowBuf o).toNat
  else (lookupD 0 c.rowBuf o).toNat / 2 ^ (4 * (k % 2)) % 16

/-- The block scale of an input element. -/
def bufScale (c : Cell) (b row : Nat) (t : Tag) (k : Nat) : Nat :=
  (lookupD 0 c.scaleBuf (row * 128 + partScale b t + k / 32)).toNat

/-- One addition of a STREAM into element (i, j) of the problem on base `b`: position `kk`, the beat's column
bytes `cols`, the place `i'` of the position in the beat, and the weight scales (R108, R129). -/
def streamAdd (c : Cell) (sd : Seed) (b : Nat) (t : Tag) (x : DWord) (kpos kk place : Nat) (cols sc : List Nat) (i j : Nat) : Cell :=
  let bi := if t.xr then j else i
  let bj := if t.xr then i else j
  let xf := xFmt x
  let wf := xWfmt x
  let xe := bufElem c b (slotRow b + bi) t xf (xKoff x + kk)
  let we := nfld (cols.getD (slotCol b + bj) 0) (elemBits wf * place) (elemBits wf)
  let key := elemKey b i j
  let a := lookupD {} c.accs key
  let a := if t.int then accAddI a (intOf xf xe * intOf wf we)
    else
      let sx := if isMx xf then some (bufScale c b (slotRow b + bi) t (xKoff x + kk)) else none
      let sw := if isMx wf then some (sc.getD (slotCol b + bj) 0) else none
      accAddF a (arrayProduct (valOf xf xe) (valOf wf we) sx sw) (mxRm (decide (xRmode x = 1)) sd 0 t i j (kpos + kk))
  { c with accs := insertD {} c.accs key a }

/-- All additions of one reduction position over the STREAM's problems, in the order of R108. -/
def streamK (c : Cell) (sd : Seed) (e : MxEntry) (before kk place : Nat) (cols sc : List Nat) : Cell :=
  (wSlots e.w).foldl (fun c b =>
    let t := lookupD {} c.tags b
    ((List.range t.rows).flatMap (fun i => (List.range t.cols).map (fun j => (i, j)))).foldl (fun c ij =>
      streamAdd c sd b t e.x (t.kpos.toNat + before) kk place cols sc ij.1 ij.2) c) c

/-- Reduction positions of the STREAMs before place `k` of a queue that have not completed (R122). -/
def streamsBefore (q : List MxEntry) (k : Nat) : Nat :=
  (q.take k).foldl (fun a e => if e.started ∧ e.opc = 0xC5 then a + e.kdone else a) 0

/-- A beat given to one cell: its STREAM's additions, and the sideband it keeps. -/
def State.giveBeat (s : State) (cell c ctx : Nat) (cols : List Nat) (sb : Option (List Byte)) : State :=
  match s.taker cell c ctx with
  | none => s
  | some (slot, k, e) =>
    let g : GRef := { cell := cell, slot := slot }
    let v := s.group g
    let q := match v with | some u => u.mxq | none => []
    -- a STREAM in an MX format whose channel brought no sideband has open scales
    let fr := s.free
    let keep := match sb with
      | some l => l
      | none => if e.scales.isEmpty ∧ isMx (xWfmt e.x) then leBytes 8 fr.1.toNat ++ leBytes 8 fr.1.toNat else e.scales
    let s := if sb.isNone ∧ e.scales.isEmpty ∧ isMx (xWfmt e.x) then fr.2 else s
    let n := min (kPerBeat (xWfmt e.x)) (e.need - e.kdone)
    let sd := s.seed ctx
    let cell' := (List.range n).foldl (fun z i =>
      streamK z sd e (streamsBefore q k) (e.kdone + i) i cols (keep.map (·.toNat))) (s.cell cell)
    (s.setCell cell cell').setEntry g k { e with kdone := e.kdone + n, scales := keep }

/-- The head WCAST after a grant: the next one comes up when it has no beat left. -/
def popBeat (q : List Wcast) : List Wcast :=
  match q with
  | [] => []
  | w :: r => if w.granted + 1 < w.beats then { w with granted := w.granted + 1 } :: r else r

/-- A channel frozen with its event by the BEU (R134). -/
def State.chanFault (s : State) (b c ctx : Nat) (code : BitVec 16) (addr : Nat) : State :=
  (s.freezeChannel b c).raise {
    unit := .beu b, sev := sevF, code := code, master := .chan b c, ctx := some ctx, addr := BitVec.ofNat 64 addr }

/-- Whether a beat of a channel can be granted (R114). -/
def State.grantable (s : State) (b c : Nat) (w : Wcast) : Bool :=
  !(s.chan b c).frozen && (s.subscribers b w).all (fun x => s.takes (b * 16 + x) c w.ctx)

/-- The channel that a block's engine grants next: round-robin from its pointer among those with a grantable beat
(R114). -/
def State.grantTurn (s : State) (b : Nat) : Option Nat :=
  ((List.range 4).map (fun i => ((s.block b).grantPtr + 1 + i) % 4)).find? (fun c =>
    match (s.chan b c).q with
    | [] => false
    | w :: _ => s.grantable b c w)

/-- WCAST_BEAT_GRANT: the head WCAST's next beat is read and reaches every subscriber, or its fault freezes
the channel (R114, R132). -/
def execWcastBeatGrant (b c : Nat) (s : State) : Out1 :=
  if ¬(b < nBlocks ∧ c < 4) then .fault .noSuchUnit
  else match (s.chan b c).q with
    | [] => .next s
    | w :: _ =>
      if s.grantTurn b = some c then
        let k := s.block b
        let s := s.setBlock b { k with grantPtr := c }
        let task := s.groupTask { cell := b * 16 + w.cell, slot := w.slot }
        let vas := beatRows w
        let r := s.checkRows w.ctx .load (wcastAlign w) w.addr.toNat (vas ++ beatScales w) (w.tr && isMx w.fmt) 0
        match r.1 with
        | .fault _ a => .next (r.2.chanFault b c w.ctx 0x0112 a)
        | .table pa => .next (r.2.tableFault pa (.chan b c) (some w.ctx))
        | .ok rows =>
          match if w.tr then outsideLs vas (rows.take vas.length) else none with
          | some a => .next (r.2.chanFault b c w.ctx 0x0112 a)
          | none =>
            let s := r.2.pieceHits rows.flatten (.chan b c) (some w.ctx) task
            let bs := (rows.take vas.length).flatMap (fun p => s.pieces p)
            let sb := if (beatScales w).isEmpty then none else some ((rows.drop vas.length).flatMap (fun p => s.pieces p))
            let cols := (List.range 16).map (fun j => beatCol w bs j)
            let subs := s.subscribers b w
            let s := subs.foldl (fun z x => z.giveBeat (b * 16 + x) c w.ctx cols sb) s
            .next (s.setChan b c { s.chan b c with q := popBeat (s.chan b c).q })
      else .next s

/-- WCAST_STALL: a beat is ready and some subscriber executes a STREAM on the channel, but no grant can come
(R117). -/
def execWcastStall (b c : Nat) (s : State) : Out1 :=
  if ¬(b < nBlocks ∧ c < 4) then .fault .noSuchUnit
  else match (s.chan b c).q with
    | [] => .next s
    | w :: _ =>
      if s.csrF (oBlk b 0x200) 0 8 ≠ 0 ∧ !(s.chan b c).frozen ∧ !s.grantable b c w ∧
          (s.subscribers b w).any (fun x => (s.taker (b * 16 + x) c w.ctx).isSome) then
        .next (s.chanFault b c w.ctx 0x0113 c)
      else .next s

end Sys2Proof.Machine
end

