-- ==== Sys2Proof/Machine/Dispatch.lean ====
section
/-! DEFINITION. The meaning of every command: one arm for every row of the table. -/

namespace Sys2Proof.Machine

def exec (i : Instr) (s : State) : Host.Outcome State Fault Refusal :=
  match i with
  | .iadd g w => Sys2Proof.Machine.execIadd g w s
  | .isub g w => Sys2Proof.Machine.execIsub g w s
  | .imul g w => Sys2Proof.Machine.execImul g w s
  | .imulhi g w => Sys2Proof.Machine.execImulhi g w s
  | .imad g w => Sys2Proof.Machine.execImad g w s
  | .imin g w => Sys2Proof.Machine.execImin g w s
  | .imax g w => Sys2Proof.Machine.execImax g w s
  | .iabs g w => Sys2Proof.Machine.execIabs g w s
  | .iand g w => Sys2Proof.Machine.execIand g w s
  | .ior g w => Sys2Proof.Machine.execIor g w s
  | .ixor g w => Sys2Proof.Machine.execIxor g w s
  | .andn g w => Sys2Proof.Machine.execAndn g w s
  | .shl g w => Sys2Proof.Machine.execShl g w s
  | .shr g w => Sys2Proof.Machine.execShr g w s
  | .popc g w => Sys2Proof.Machine.execPopc g w s
  | .clz g w => Sys2Proof.Machine.execClz g w s
  | .brev g w => Sys2Proof.Machine.execBrev g w s
  | .isetp g w => Sys2Proof.Machine.execIsetp g w s
  | .sel g w => Sys2Proof.Machine.execSel g w s
  | .iadd64 g w => Sys2Proof.Machine.execIadd64 g w s
  | .mov g w => Sys2Proof.Machine.execMov g w s
  | .bshuf g w => Sys2Proof.Machine.execBshuf g w s
  | .fadd g w => Sys2Proof.Machine.execFadd g w s
  | .fmul g w => Sys2Proof.Machine.execFmul g w s
  | .ffma g w => Sys2Proof.Machine.execFfma g w s
  | .fmin g w => Sys2Proof.Machine.execFmin g w s
  | .fmax g w => Sys2Proof.Machine.execFmax g w s
  | .fsetp g w => Sys2Proof.Machine.execFsetp g w s
  | .frcp g w => Sys2Proof.Machine.execFrcp g w s
  | .frsq g w => Sys2Proof.Machine.execFrsq g w s
  | .fsqrt g w => Sys2Proof.Machine.execFsqrt g w s
  | .fex2 g w => Sys2Proof.Machine.execFex2 g w s
  | .flg2 g w => Sys2Proof.Machine.execFlg2 g w s
  | .fsin g w => Sys2Proof.Machine.execFsin g w s
  | .fcos g w => Sys2Proof.Machine.execFcos g w s
  | .hfma2 g w => Sys2Proof.Machine.execHfma2 g w s
  | .cvt g w => Sys2Proof.Machine.execCvt g w s
  | .cvtMx g w => Sys2Proof.Machine.execCvtMx g w s
  | .tid g w => Sys2Proof.Machine.execTid g w s
  | .shfl g w => Sys2Proof.Machine.execShfl g w s
  | .vote g w => Sys2Proof.Machine.execVote g w s
  | .readlane g w => Sys2Proof.Machine.execReadlane g w s
  | .lds g w => Sys2Proof.Machine.execLds g w s
  | .sts g w => Sys2Proof.Machine.execSts g w s
  | .ld g w => Sys2Proof.Machine.execLd g w s
  | .st g w u => Sys2Proof.Machine.execSt g w u s
  | .atomAdd g w => Sys2Proof.Machine.execAtomAdd g w s
  | .atomMin g w => Sys2Proof.Machine.execAtomMin g w s
  | .atomMax g w => Sys2Proof.Machine.execAtomMax g w s
  | .atomSwap g w => Sys2Proof.Machine.execAtomSwap g w s
  | .atomCas g w => Sys2Proof.Machine.execAtomCas g w s
  | .silkLd g w x => Sys2Proof.Machine.execSilkLd g w x s
  | .silkSt g w x => Sys2Proof.Machine.execSilkSt g w x s
  | .silkAtom g w x => Sys2Proof.Machine.execSilkAtom g w x s
  | .silkInv g w x => Sys2Proof.Machine.execSilkInv g w x s
  | .silkPut g w x => Sys2Proof.Machine.execSilkPut g w x s
  | .silkGet g w x => Sys2Proof.Machine.execSilkGet g w x s
  | .rtrig g w x => Sys2Proof.Machine.execRtrig g w x s
  | .mxTag g w x => Sys2Proof.Machine.execMxTag g w x s
  | .mxZero g w x => Sys2Proof.Machine.execMxZero g w x s
  | .mxLoadc g w x => Sys2Proof.Machine.execMxLoadc g w x s
  | .mxLoad g w x => Sys2Proof.Machine.execMxLoad g w x s
  | .mxWcast g w x => Sys2Proof.Machine.execMxWcast g w x s
  | .mxStream g w x => Sys2Proof.Machine.execMxStream g w x s
  | .mxDrain g w x => Sys2Proof.Machine.execMxDrain g w x s
  | .actFwd g w x => Sys2Proof.Machine.execActFwd g w x s
  | .actBwd g w x => Sys2Proof.Machine.execActBwd g w x s
  | .sAdd g w => Sys2Proof.Machine.execSAdd g w s
  | .sSub g w => Sys2Proof.Machine.execSSub g w s
  | .sMul g w => Sys2Proof.Machine.execSMul g w s
  | .sAnd g w => Sys2Proof.Machine.execSAnd g w s
  | .sOr g w => Sys2Proof.Machine.execSOr g w s
  | .sXor g w => Sys2Proof.Machine.execSXor g w s
  | .sShl g w => Sys2Proof.Machine.execSShl g w s
  | .sShr g w => Sys2Proof.Machine.execSShr g w s
  | .sMov g w => Sys2Proof.Machine.execSMov g w s
  | .sSetp g w => Sys2Proof.Machine.execSSetp g w s
  | .sAdd64 g w => Sys2Proof.Machine.execSAdd64 g w s
  | .sRdspr g w => Sys2Proof.Machine.execSRdspr g w s
  | .sWrspr g w => Sys2Proof.Machine.execSWrspr g w s
  | .nop g w => Sys2Proof.Machine.execNop g w s
  | .bra g w => Sys2Proof.Machine.execBra g w s
  | .jmpr g w => Sys2Proof.Machine.execJmpr g w s
  | .call g w => Sys2Proof.Machine.execCall g w s
  | .ret g w => Sys2Proof.Machine.execRet g w s
  | .exit g w => Sys2Proof.Machine.execExit g w s
  | .bar g w => Sys2Proof.Machine.execBar g w s
  | .fence g w => Sys2Proof.Machine.execFence g w s
  | .wait g w => Sys2Proof.Machine.execWait g w s
  | .trap g w => Sys2Proof.Machine.execTrap g w s
  | .loadDataReturn g k u => Sys2Proof.Machine.execLoadDataReturn g k u s
  | .memoryPathFault g k => Sys2Proof.Machine.execMemoryPathFault g k s
  | .waitPollRead g => Sys2Proof.Machine.execWaitPollRead g s
  | .waitReadReturn g => Sys2Proof.Machine.execWaitReadReturn g s
  | .fenceComplete g => Sys2Proof.Machine.execFenceComplete g s
  | .groupSetAdmit b => Sys2Proof.Machine.execGroupSetAdmit b s
  | .mxEntryStart g => Sys2Proof.Machine.execMxEntryStart g s
  | .mxEntryComplete g k => Sys2Proof.Machine.execMxEntryComplete g k s
  | .wcastBeatGrant b c => Sys2Proof.Machine.execWcastBeatGrant b c s
  | .wcastStall b c => Sys2Proof.Machine.execWcastStall b c s
  | .accFoldGroup r u => Sys2Proof.Machine.execAccFoldGroup r u s
  | .scrubRead r hbm o u => Sys2Proof.Machine.execScrubRead r hbm o u s
  | .tlbInvRange v => Sys2Proof.Machine.execTlbInvRange v s
  | .tlbInvAll v => Sys2Proof.Machine.execTlbInvAll v s
  | .tlbInvDone => Sys2Proof.Machine.execTlbInvDone s
  | .genWrite n v => Sys2Proof.Machine.execGenWrite n v s
  | .icacheInvalidate b v => Sys2Proof.Machine.execIcacheInvalidate b v s
  | .memEccClear r v => Sys2Proof.Machine.execMemEccClear r v s
  | .antClearAll r v => Sys2Proof.Machine.execAntClearAll r v s
  | .antClearOne r v => Sys2Proof.Machine.execAntClearOne r v s
  | .antEntryWord0Read r n => Sys2Proof.Machine.execAntEntryWord0Read r n s
  | .stepStart r => Sys2Proof.Machine.execStepStart r s
  | .fwdTask r => Sys2Proof.Machine.execFwdTask r s
  | .recompTask r => Sys2Proof.Machine.execRecompTask r s
  | .bwdTask r => Sys2Proof.Machine.execBwdTask r s
  | .wprepTask r => Sys2Proof.Machine.execWprepTask r s
  | .foldTask r => Sys2Proof.Machine.execFoldTask r s
  | .foldApply r => Sys2Proof.Machine.execFoldApply r s
  | .foldTimeout r => Sys2Proof.Machine.execFoldTimeout r s
  | .collTask r => Sys2Proof.Machine.execCollTask r s
  | .ringTask r => Sys2Proof.Machine.execRingTask r s
  | .ringHopSend r c => Sys2Proof.Machine.execRingHopSend r c s
  | .sendTask r => Sys2Proof.Machine.execSendTask r s
  | .endTask r => Sys2Proof.Machine.execEndTask r s
  | .skipperTaskComplete r q t m => Sys2Proof.Machine.execSkipperTaskComplete r q t m s
  | .stepBoundary n => Sys2Proof.Machine.execStepBoundary n s
  | .chrysalisShardSend r k => Sys2Proof.Machine.execChrysalisShardSend r k s
  | .restore v => Sys2Proof.Machine.execRestore v s
  | .refetchGo r v => Sys2Proof.Machine.execRefetchGo r v s
  | .refetchTimeout r x => Sys2Proof.Machine.execRefetchTimeout r x s
  | .hello l h => Sys2Proof.Machine.execHello l h s
  | .resumeFrame l h lseq => Sys2Proof.Machine.execResumeFrame l h lseq s
  | .retryFrame l h lseq => Sys2Proof.Machine.execRetryFrame l h lseq s
  | .credit l h => Sys2Proof.Machine.execCredit l h s
  | .locked l h node => Sys2Proof.Machine.execLocked l h node s
  | .lockedRepeat => Sys2Proof.Machine.execLockedRepeat s
  | .replayTimeout l => Sys2Proof.Machine.execReplayTimeout l s
  | .blockLockLost l => Sys2Proof.Machine.execBlockLockLost l s
  | .linkReturn l => Sys2Proof.Machine.execLinkReturn l s
  | .linkDown l => Sys2Proof.Machine.execLinkDown l s
  | .pfcReceive l prios pause => Sys2Proof.Machine.execPfcReceive l prios pause s
  | .frameForward l f => Sys2Proof.Machine.execFrameForward l f s
  | .foldEntryClose sl k => Sys2Proof.Machine.execFoldEntryClose sl k s
  | .routeHoldExpire sl k => Sys2Proof.Machine.execRouteHoldExpire sl k s
  | .load l f => Sys2Proof.Machine.execLoad l f s
  | .store l f => Sys2Proof.Machine.execStore l f s
  | .atomic l f => Sys2Proof.Machine.execAtomic l f s
  | .inv l f => Sys2Proof.Machine.execInv l f s
  | .rtrigRequest l f => Sys2Proof.Machine.execRtrigRequest l f s
  | .put l f => Sys2Proof.Machine.execPut l f s
  | .get l f => Sys2Proof.Machine.execGet l f s
  | .coll l f => Sys2Proof.Machine.execColl l f s
  | .permute l f => Sys2Proof.Machine.execPermute l f s
  | .resp l f => Sys2Proof.Machine.execResp l f s
  | .inval l f => Sys2Proof.Machine.execInval l f s
  | .invalAck l f => Sys2Proof.Machine.execInvalAck l f s
  | .epochDone l f => Sys2Proof.Machine.execEpochDone l f s
  | .e2eTimeout tag => Sys2Proof.Machine.execE2eTimeout tag s
  | .completionCacheExpire r k => Sys2Proof.Machine.execCompletionCacheExpire r k s
  | .ceFrameSend r c => Sys2Proof.Machine.execCeFrameSend r c s
  | .reduceScatter r c => Sys2Proof.Machine.execReduceScatter r c s
  | .allGather r c => Sys2Proof.Machine.execAllGather r c s
  | .allReduce r c => Sys2Proof.Machine.execAllReduce r c s
  | .allToAll r c => Sys2Proof.Machine.execAllToAll r c s
  | .permuteCollective r c => Sys2Proof.Machine.execPermuteCollective r c s
  | .silkPortQuarClear p => Sys2Proof.Machine.execSilkPortQuarClear p s
  | .quarForce p => Sys2Proof.Machine.execQuarForce p s
  | .portEnableWrite p v => Sys2Proof.Machine.execPortEnableWrite p v s
  | .jwinWrite n k v => Sys2Proof.Machine.execJwinWrite n k v s
  | .csrRead l f => Sys2Proof.Machine.execCsrRead l f s
  | .csrWrite l f => Sys2Proof.Machine.execCsrWrite l f s
  | .memRead l f => Sys2Proof.Machine.execMemRead l f s
  | .memWrite l f => Sys2Proof.Machine.execMemWrite l f s
  | .quarClear l f => Sys2Proof.Machine.execQuarClear l f s
  | .commandStart => Sys2Proof.Machine.execCommandStart s
  | .nopCommand q k => Sys2Proof.Machine.execNopCommand q k s
  | .launch q k => Sys2Proof.Machine.execLaunch q k s
  | .fenceWait q k => Sys2Proof.Machine.execFenceWait q k s
  | .copy q k => Sys2Proof.Machine.execCopy q k s
  | .fill q k => Sys2Proof.Machine.execFill q k s
  | .collective q k => Sys2Proof.Machine.execCollective q k s
  | .stepLoad q k => Sys2Proof.Machine.execStepLoad q k s
  | .stepGo q k => Sys2Proof.Machine.execStepGo q k s
  | .stepUnload q k => Sys2Proof.Machine.execStepUnload q k s
  | .measureOpen q k => Sys2Proof.Machine.execMeasureOpen q k s
  | .measureClose q k => Sys2Proof.Machine.execMeasureClose q k s
  | .commandComplete q k => Sys2Proof.Machine.execCommandComplete q k s
  | .activate n => Sys2Proof.Machine.execActivate n s
  | .freeze n => Sys2Proof.Machine.execFreeze n s
  | .discard n => Sys2Proof.Machine.execDiscard n s
  | .drain n => Sys2Proof.Machine.execDrain n s
  | .drainComplete n => Sys2Proof.Machine.execDrainComplete n s
  | .abandon n => Sys2Proof.Machine.execAbandon n s
  | .free n => Sys2Proof.Machine.execFree n s
  | .suspend n => Sys2Proof.Machine.execSuspend n s
  | .suspendComplete n => Sys2Proof.Machine.execSuspendComplete n s
  | .evict n => Sys2Proof.Machine.execEvict n s
  | .resume n => Sys2Proof.Machine.execResume n s
  | .purge n => Sys2Proof.Machine.execPurge n s
  | .fenceAlloc f cid => Sys2Proof.Machine.execFenceAlloc f cid s
  | .fenceSignal f cid => Sys2Proof.Machine.execFenceSignal f cid s
  | .fenceFree f cid => Sys2Proof.Machine.execFenceFree f cid s
  | .queueResume q v => Sys2Proof.Machine.execQueueResume q v s
  | .queueEnable q v => Sys2Proof.Machine.execQueueEnable q v s
  | .create => Sys2Proof.Machine.execCreate s
  | .bind => Sys2Proof.Machine.execBind s
  | .map => Sys2Proof.Machine.execMap s
  | .unmap => Sys2Proof.Machine.execUnmap s
  | .secUnseal => Sys2Proof.Machine.execSecUnseal s
  | .unsealSectionsDone => Sys2Proof.Machine.execUnsealSectionsDone s
  | .attest => Sys2Proof.Machine.execAttest s
  | .remove => Sys2Proof.Machine.execRemove s
  | .removeDrainDone c => Sys2Proof.Machine.execRemoveDrainDone c s
  | .cocRemoved c => Sys2Proof.Machine.execCocRemoved c s
  | .errorUnitFree u => Sys2Proof.Machine.execErrorUnitFree u s
  | .errClr u v => Sys2Proof.Machine.execErrClr u v s
  | .cellFence c ext => Sys2Proof.Machine.execCellFence c ext s
  | .blockFence b => Sys2Proof.Machine.execBlockFence b s
  | .regionRetire r ext => Sys2Proof.Machine.execRegionRetire r ext s
  | .sharedFail unit => Sys2Proof.Machine.execSharedFail unit s
  | .rootUnlock => Sys2Proof.Machine.execRootUnlock s
  | .railFault rail => Sys2Proof.Machine.execRailFault rail s
  | .inputSample vin iin => Sys2Proof.Machine.execInputSample vin iin s
  | .powerCapTick watts => Sys2Proof.Machine.execPowerCapTick watts s
  | .thermalCapTick temps => Sys2Proof.Machine.execThermalCapTick temps s
  | .clockStepPrepare => Sys2Proof.Machine.execClockStepPrepare s
  | .clockStepSwitch => Sys2Proof.Machine.execClockStepSwitch s
  | .resetAssert pwrGood rstN => Sys2Proof.Machine.execResetAssert pwrGood rstN s
  | .resetRelease straps => Sys2Proof.Machine.execResetRelease straps s
  | .bootPhaseEnd b => Sys2Proof.Machine.execBootPhaseEnd b s
  | .hostBootDatagram ip d => Sys2Proof.Machine.execHostBootDatagram ip d s
  | .enec ev => Sys2Proof.Machine.execEnec ev s
  | .disec ev => Sys2Proof.Machine.execDisec ev s
  | .rstdaa => Sys2Proof.Machine.execRstdaa s
  | .entdaa a => Sys2Proof.Machine.execEntdaa a s
  | .setdasa a => Sys2Proof.Machine.execSetdasa a s
  | .getpid => Sys2Proof.Machine.execGetpid s
  | .getbcr => Sys2Proof.Machine.execGetbcr s
  | .getdcr => Sys2Proof.Machine.execGetdcr s
  | .getstatus => Sys2Proof.Machine.execGetstatus s
  | .getmwl => Sys2Proof.Machine.execGetmwl s
  | .getmrl => Sys2Proof.Machine.execGetmrl s
  | .rstact a => Sys2Proof.Machine.execRstact a s
  | .i3cCsrRead a n => Sys2Proof.Machine.execI3cCsrRead a n s
  | .i3cCsrWrite a ws => Sys2Proof.Machine.execI3cCsrWrite a ws s
  | .i3cMemoryRead a n => Sys2Proof.Machine.execI3cMemoryRead a n s
  | .i3cMemoryWrite a bs => Sys2Proof.Machine.execI3cMemoryWrite a bs s
  | .i3cPrivateRead => Sys2Proof.Machine.execI3cPrivateRead s
  | .bypass => Sys2Proof.Machine.execBypass s
  | .idcode => Sys2Proof.Machine.execIdcode s
  | .samplePreload pads => Sys2Proof.Machine.execSamplePreload pads s
  | .extest pads => Sys2Proof.Machine.execExtest pads s
  | .clamp => Sys2Proof.Machine.execClamp s
  | .highz => Sys2Proof.Machine.execHighz s
  | .debug dr => Sys2Proof.Machine.execDebug dr s
  | .jtagTrst low => Sys2Proof.Machine.execJtagTrst low s
  | .dbgHalt c v => Sys2Proof.Machine.execDbgHalt c v s
  | .dbgStep c v => Sys2Proof.Machine.execDbgStep c v s
  | .registerWrite off v => Sys2Proof.Machine.execRegisterWrite off v s
  | .corruptedFrame l c => Sys2Proof.Machine.execCorruptedFrame l c s
  | .protocolViolation l f v => Sys2Proof.Machine.execProtocolViolation l f v s

end Sys2Proof.Machine
end

