-- ==== Sys2Proof/Safety.lean ====
section
/-! DEFINITION. The terms that claims are stated in: the canonical form of memory, when a group's next
instruction can issue, and what a command leaves alone. -/

namespace Sys2Proof.Machine

/-- The memory list is in its canonical form: addresses rise strictly and no byte equals what an unlisted
address reads as (zero, R411). -/
def memWf (m : List Host.Cell) : Bool := canonical 0 m

/-- The group in a slot as it stands at its next instruction: reconvergence is done (R46). -/
def State.readyGroup (s : State) (g : GRef) : Option Group :=
  (s.group g).map (fun v => reconverge (2 * v.stack.length + 1) v)

/-- The fetch of the words of a group's instruction at its program counter (R101). -/
def State.fetchAt (s : State) (g : GRef) (v : Group) (_opc : Nat) (w x : DWord) : Option FetchStop × State :=
  (s.setGroup g v).fetchWords (cellBlock g.cell) v.ctx v.pc.toNat (twoFetch w) w x

/-- Whether the instruction of base word `w` (and extended word `x`) issues from slot `g` and has its own
effect. The group is there and running, not at a fence or WAIT, not halted unless it steps, its context is not
being suspended (R41, R307, R394); no breakpoint stands at its program counter; the fetch translates and delivers
these words (R101);
the opcode is the row's and the encoding legal (R59, R67); its vector registers are among the group's (R64);
the issue check finds nothing (R98); no register it names has an outstanding write, and its port has room
(R41). -/
def canIssue (s : State) (g : GRef) (opc : Nat) (w x : DWord) (sh : Shape)
    (chk : State → Group → Option (BitVec 16)) (room : State → Group → Bool) : Bool :=
  gOk g && match s.group g with
  | none => false
  | some v0 =>
    let v := reconverge (2 * v0.stack.length + 1) v0
    let f := s.fetchAt g v opc w x
    v0.mayIssue && !decide (s.host.ctxBusy = some (v0.ctx, 7)) &&
    (v.halted || v.bpPass || !(s.setGroup g v).breakAt g.cell v.pc) && f.1.isNone &&
    decide (iOpc w = opc) && sh.ok && (!twoWords opc || decide (fld x 56 8 = 255 - opc)) &&
    !sh.vs.any (fun r => decide (v.regs ≤ r)) && (chk f.2 v).isNone &&
    !sh.uses.any (fun r => (f.2.busyRegs v).contains r) && room f.2 v

/-- The state in which an issued instruction has its effect: its words are fetched, its port's pointer has moved,
its group stands at the instruction (`v` is what `readyGroup` finds). -/
def State.issuedAt (s : State) (g : GRef) (p : Port) (v : Group) (opc : Nat) (w x : DWord) : State :=
  ((s.fetchAt g v opc w x).2.movePtr g p).setGroup g { v with stepOne := false, bpPass := false }

/-- Nothing outside the device's cells, blocks and held translations differs: memory with its errors, registers,
regions, links, host objects, security engine, power, boot, sideband, fuses, frames sent, waiting commands. -/
structure SameOutside (s t : State) : Prop where
  memory   : t.mem = s.mem ∧ t.ecc = s.ecc ∧ t.scratchEcc = s.scratchEcc
  bytes    : ∀ a, t.byte a = s.byte a
  csr      : t.csr = s.csr ∧ t.csrPend = s.csrPend
  regions  : t.regions = s.regions
  silk     : t.silk = s.silk
  host     : t.host = s.host
  sec      : t.sec = s.sec
  errors   : t.chip.err = s.chip.err ∧ t.chip.errs = s.chip.errs ∧ t.chip.chry = s.chip.chry
  service  : t.chip.inService = s.chip.inService ∧ t.chip.retired = s.chip.retired
  mon      : t.mon = s.mon
  boot     : t.boot = s.boot
  side     : t.side = s.side
  fuses    : t.fuses = s.fuses
  out      : t.out = s.out
  pending  : t.pending = s.pending

/-- Nothing outside the device's memory, cells, blocks, held translations and cocoon sector lists differs: what a
store of a group leaves alone. -/
structure SameButMemory (s t : State) : Prop where
  csr      : t.csr = s.csr ∧ t.csrPend = s.csrPend
  regions  : t.regions = s.regions
  silk     : t.silk = s.silk
  host     : t.host = s.host
  errors   : t.chip.err = s.chip.err ∧ t.chip.errs = s.chip.errs ∧ t.chip.chry = s.chip.chry
  mon      : t.mon = s.mon
  boot     : t.boot = s.boot
  side     : t.side = s.side
  fuses    : t.fuses = s.fuses
  out      : t.out = s.out
  pending  : t.pending = s.pending

/-- A cell is as it was, but for its groups and its issue pointers. -/
structure SameCell (c d : Cell) : Prop where
  accs      : d.accs = c.accs
  tags      : d.tags = c.tags ∧ d.itags = c.itags
  buffers   : d.rowBuf = c.rowBuf ∧ d.scaleBuf = c.scaleBuf
  lineCache : d.lineCache = c.lineCache
  gone      : d.gone = c.gone
  err       : d.err = c.err
  fenced    : d.fenced = c.fenced

/-- A block is as it was, but for its instruction cache. -/
structure SameBlock (b d : Block) : Prop where
  queue : d.launchQ = b.launchQ ∧ d.arriving = b.arriving
  sets  : d.sets = b.sets
  bars  : d.bars = b.bars
  chans : d.chans = b.chans ∧ d.grantPtr = b.grantPtr
  dma   : d.dmaFrozen = b.dmaFrozen ∧ d.dmaCtx = b.dmaCtx
  cache : d.cache = b.cache
  win   : d.win = b.win
  err   : d.err = b.err
  fenced : d.fenced = b.fenced

/-- Only the group in slot `g` differs, beside what every fetch and issue may touch: held translations, the
block's instruction cache, the cell's issue pointers. -/
structure OnlyGroup (s t : State) (g : GRef) : Prop where
  outside : SameOutside s t
  cells   : ∀ c, c ≠ g.cell → t.cell c = s.cell c
  groups  : ∀ h, h ≠ g → t.group h = s.group h
  cell    : SameCell (s.cell g.cell) (t.cell g.cell)
  blocks  : ∀ b, b ≠ cellBlock g.cell → t.block b = s.block b
  block   : SameBlock (s.block (cellBlock g.cell)) (t.block (cellBlock g.cell))

/-- What of a group stays when an instruction writes registers, flags and the program counter only. -/
structure SameGroup (v u : Group) : Prop where
  identity : u.gid = v.gid ∧ u.setId = v.setId ∧ u.ctx = v.ctx ∧ u.cid = v.cid ∧ u.index = v.index ∧ u.count = v.count
  holdings : u.regs = v.regs ∧ u.scratchUnits = v.scratchUnits ∧ u.slots = v.slots ∧ u.bars = v.bars
  state    : u.st = v.st ∧ u.code = v.code ∧ u.halted = v.halted
  masks    : u.live = v.live ∧ u.mask = v.mask ∧ u.stack = v.stack
  mcountHi : u.mcountHi = v.mcountHi
  scratch  : u.scratch = v.scratch
  waits    : u.pend = v.pend ∧ u.fence = v.fence ∧ u.wait = v.wait ∧ u.mxq = v.mxq

/-- Every vector register but those in `rs` is as it was. -/
def SameV (v u : Group) (rs : List Nat) : Prop := ∀ r t, t < 64 → r ∉ rs → u.vreg r t = v.vreg r t

/-- Every scalar register but those in `ns`, and every predicate but those in `ps`, is as it was. -/
def SameS (v u : Group) (ns : List Nat) : Prop := ∀ n, n ∉ ns → u.sreg n = v.sreg n
def SameP (v u : Group) (ps : List Nat) : Prop := ∀ p, p ∉ ps → u.pred p = v.pred p

/-- The command takes the state to one that `P` describes. -/
def Reaches (i : Instr) (s : State) (P : State → Prop) : Prop := ∃ t, exec i s = .next t ∧ P t

/-- The instruction of slot `g` issues, leaves everything but its group alone, and takes the group from `v`,
as it stands at the instruction, to a `u` with `P v u`. -/
def Issues (i : Instr) (g : GRef) (s : State) (P : Group → Group → Prop) : Prop :=
  Reaches i s (fun t => OnlyGroup s t g ∧ ∃ v u, s.readyGroup g = some v ∧ t.group g = some u ∧ P v u)

end Sys2Proof.Machine
end

