-- ==== Sys2Proof/WellFormed.lean ====
section
/-! DEFINITION. Which commands are well formed: their operands name units that the device has (R10, R11,
R32, R242, Table 9-1) and data of the shape that their source delivers. -/

namespace Sys2Proof

/-- A group slot of a cell that exists (R11, R32). -/
def GRef.wf (g : GRef) : Bool := decide (g.cell < 10240) && decide (g.slot < 16)

/-- A link that exists: a fabric port, a host association, or the device itself (R22, R282). -/
def linkWf (l : Nat) : Bool := decide (l < 24) || (decide (32 ≤ l) && decide (l < 64)) || decide (l = 64)

/-- A link that leads out of the device. -/
def wireWf (l : Nat) : Bool := decide (l < 24) || (decide (32 ≤ l) && decide (l < 64))

/-- A link, or the whole host port, whose block lock and pauses count for all its associations (R242). -/
def lockWf (l : Nat) : Bool := wireWf l || decide (l = 24)

/-- A unit of a protected memory that the scrubber reads: 32 bytes of HBM3E, 8 of the Layer Store (R231, R233). -/
def scrubWf (r : Nat) (hbm : Bool) (o : Nat) : Bool :=
  decide (r < 8) && decide (o < (if hbm then 0x001200000000 else 0x40000000)) && decide (o % (if hbm then 32 else 8) = 0)

/-- An error unit that exists (Table 11-1). -/
def UnitRef.wf : UnitRef → Bool
  | .ceu c => decide (c < 10240)
  | .beu b => decide (b < 640)
  | .geu r => decide (r < 8)
  | .chip => true

/-- A rail that exists (Table 12-3). -/
def Rail.wf : Rail → Bool
  | .region r => decide (r < 8)
  | .shared => true

/-- Whether the command's operands name what the device has. -/
def Instr.wf : Instr → Bool
  | .iadd g _ => g.wf
  | .isub g _ => g.wf
  | .imul g _ => g.wf
  | .imulhi g _ => g.wf
  | .imad g _ => g.wf
  | .imin g _ => g.wf
  | .imax g _ => g.wf
  | .iabs g _ => g.wf
  | .iand g _ => g.wf
  | .ior g _ => g.wf
  | .ixor g _ => g.wf
  | .andn g _ => g.wf
  | .shl g _ => g.wf
  | .shr g _ => g.wf
  | .popc g _ => g.wf
  | .clz g _ => g.wf
  | .brev g _ => g.wf
  | .isetp g _ => g.wf
  | .sel g _ => g.wf
  | .iadd64 g _ => g.wf
  | .mov g _ => g.wf
  | .bshuf g _ => g.wf
  | .fadd g _ => g.wf
  | .fmul g _ => g.wf
  | .ffma g _ => g.wf
  | .fmin g _ => g.wf
  | .fmax g _ => g.wf
  | .fsetp g _ => g.wf
  | .frcp g _ => g.wf
  | .frsq g _ => g.wf
  | .fsqrt g _ => g.wf
  | .fex2 g _ => g.wf
  | .flg2 g _ => g.wf
  | .fsin g _ => g.wf
  | .fcos g _ => g.wf
  | .hfma2 g _ => g.wf
  | .cvt g _ => g.wf
  | .cvtMx g _ => g.wf
  | .tid g _ => g.wf
  | .shfl g _ => g.wf
  | .vote g _ => g.wf
  | .readlane g _ => g.wf
  | .lds g _ => g.wf
  | .sts g _ => g.wf
  | .ld g _ => g.wf
  | .st g _ _ => g.wf
  | .atomAdd g _ => g.wf
  | .atomMin g _ => g.wf
  | .atomMax g _ => g.wf
  | .atomSwap g _ => g.wf
  | .atomCas g _ => g.wf
  | .silkLd g _ _ => g.wf
  | .silkSt g _ _ => g.wf
  | .silkAtom g _ _ => g.wf
  | .silkInv g _ _ => g.wf
  | .silkPut g _ _ => g.wf
  | .silkGet g _ _ => g.wf
  | .rtrig g _ _ => g.wf
  | .mxTag g _ _ => g.wf
  | .mxZero g _ _ => g.wf
  | .mxLoadc g _ _ => g.wf
  | .mxLoad g _ _ => g.wf
  | .mxWcast g _ _ => g.wf
  | .mxStream g _ _ => g.wf
  | .mxDrain g _ _ => g.wf
  | .actFwd g _ _ => g.wf
  | .actBwd g _ _ => g.wf
  | .sAdd g _ => g.wf
  | .sSub g _ => g.wf
  | .sMul g _ => g.wf
  | .sAnd g _ => g.wf
  | .sOr g _ => g.wf
  | .sXor g _ => g.wf
  | .sShl g _ => g.wf
  | .sShr g _ => g.wf
  | .sMov g _ => g.wf
  | .sSetp g _ => g.wf
  | .sAdd64 g _ => g.wf
  | .sRdspr g _ => g.wf
  | .sWrspr g _ => g.wf
  | .nop g _ => g.wf
  | .bra g _ => g.wf
  | .jmpr g _ => g.wf
  | .call g _ => g.wf
  | .ret g _ => g.wf
  | .exit g _ => g.wf
  | .bar g _ => g.wf
  | .fence g _ => g.wf
  | .wait g _ => g.wf
  | .trap g _ => g.wf
  | .loadDataReturn g _ _ => g.wf
  | .memoryPathFault g _ => g.wf
  | .waitPollRead g => g.wf
  | .waitReadReturn g => g.wf
  | .fenceComplete g => g.wf
  | .groupSetAdmit b => decide (b < 640)
  | .mxEntryStart g => g.wf
  | .mxEntryComplete g _ => g.wf
  | .wcastBeatGrant b c => decide (b < 640) && decide (c < 4)
  | .wcastStall b c => decide (b < 640) && decide (c < 4)
  | .accFoldGroup r _ => decide (r < 8)
  | .scrubRead r hbm o _ => scrubWf r hbm o
  | .tlbInvRange _ => true
  | .tlbInvAll _ => true
  | .tlbInvDone => true
  | .genWrite n _ => decide (n < 64)
  | .icacheInvalidate b _ => decide (b < 640)
  | .memEccClear r _ => decide (r < 8)
  | .antClearAll r _ => decide (r < 8)
  | .antClearOne r _ => decide (r < 8)
  | .antEntryWord0Read r n => decide (r < 8) && decide (n < 4096)
  | .stepStart r => decide (r < 8)
  | .fwdTask r => decide (r < 8)
  | .recompTask r => decide (r < 8)
  | .bwdTask r => decide (r < 8)
  | .wprepTask r => decide (r < 8)
  | .foldTask r => decide (r < 8)
  | .foldApply r => decide (r < 8)
  | .foldTimeout r => decide (r < 8)
  | .collTask r => decide (r < 8)
  | .ringTask r => decide (r < 8)
  | .ringHopSend r c => decide (r < 8) && decide (c < 16)
  | .sendTask r => decide (r < 8)
  | .endTask r => decide (r < 8)
  | .skipperTaskComplete r q _ _ => decide (r < 8) && decide (q < 4)
  | .stepBoundary n => decide (n < 64)
  | .chrysalisShardSend r k => decide (r < 8) && decide (k < 1024)
  | .restore _ => true
  | .refetchGo r _ => decide (r < 8)
  | .refetchTimeout r _ => decide (r < 8)
  | .hello l _ => wireWf l
  | .resumeFrame l _ _ => wireWf l
  | .retryFrame l _ _ => wireWf l
  | .credit l _ => wireWf l
  | .locked l _ _ => wireWf l
  | .lockedRepeat => true
  | .replayTimeout l => wireWf l
  | .blockLockLost l => lockWf l
  | .linkReturn l => lockWf l
  | .linkDown l => lockWf l
  | .pfcReceive l _ _ => lockWf l
  | .frameForward l _ => wireWf l
  | .foldEntryClose sl _ => decide (sl < 8)
  | .routeHoldExpire sl _ => decide (sl < 8)
  | .load l _ => linkWf l
  | .store l _ => linkWf l
  | .atomic l _ => linkWf l
  | .inv l _ => linkWf l
  | .rtrigRequest l _ => linkWf l
  | .put l _ => linkWf l
  | .get l _ => linkWf l
  | .coll l _ => linkWf l
  | .permute l _ => linkWf l
  | .resp l _ => linkWf l
  | .inval l _ => linkWf l
  | .invalAck l _ => linkWf l
  | .epochDone l _ => linkWf l
  | .e2eTimeout _ => true
  | .completionCacheExpire r k => decide (r < 8) && decide (k < 16384)
  | .ceFrameSend r c => decide (r < 8) && decide (c < 16)
  | .reduceScatter r c => decide (r < 8) && decide (c < 16)
  | .allGather r c => decide (r < 8) && decide (c < 16)
  | .allReduce r c => decide (r < 8) && decide (c < 16)
  | .allToAll r c => decide (r < 8) && decide (c < 16)
  | .permuteCollective r c => decide (r < 8) && decide (c < 16)
  | .silkPortQuarClear p => decide (p < 25)
  | .quarForce p => decide (p < 25)
  | .portEnableWrite p _ => decide (p < 25)
  | .jwinWrite n k _ => decide (n < 256) && decide (k < 4)
  | .csrRead l _ => linkWf l
  | .csrWrite l _ => linkWf l
  | .memRead l _ => linkWf l
  | .memWrite l _ => linkWf l
  | .quarClear l _ => linkWf l
  | .commandStart => true
  | .nopCommand q _ => decide (q < 1024)
  | .launch q _ => decide (q < 1024)
  | .fenceWait q _ => decide (q < 1024)
  | .copy q _ => decide (q < 1024)
  | .fill q _ => decide (q < 1024)
  | .collective q _ => decide (q < 1024)
  | .stepLoad q _ => decide (q < 1024)
  | .stepGo q _ => decide (q < 1024)
  | .stepUnload q _ => decide (q < 1024)
  | .measureOpen q _ => decide (q < 1024)
  | .measureClose q _ => decide (q < 1024)
  | .commandComplete q _ => decide (q < 1024)
  | .activate n => decide (n < 64)
  | .freeze n => decide (n < 64)
  | .discard n => decide (n < 64)
  | .drain n => decide (n < 64)
  | .drainComplete n => decide (n < 64)
  | .abandon n => decide (n < 64)
  | .free n => decide (n < 64)
  | .suspend n => decide (n < 64)
  | .suspendComplete n => decide (n < 64)
  | .evict n => decide (n < 64)
  | .resume n => decide (n < 64)
  | .purge n => decide (n < 64)
  | .fenceAlloc f _ => decide (f < 16384)
  | .fenceSignal f _ => decide (f < 16384)
  | .fenceFree f _ => decide (f < 16384)
  | .queueResume q _ => decide (q < 1024)
  | .queueEnable q _ => decide (q < 1024)
  | .create => true
  | .bind => true
  | .map => true
  | .unmap => true
  | .secUnseal => true
  | .unsealSectionsDone => true
  | .attest => true
  | .remove => true
  | .removeDrainDone c => decide (c < 8)
  | .cocRemoved c => decide (c < 8)
  | .errorUnitFree u => u.wf
  | .errClr u _ => u.wf
  | .cellFence c _ => decide (c < 10240)
  | .blockFence b => decide (b < 640)
  | .regionRetire r _ => decide (r < 8)
  | .sharedFail _ => true
  | .rootUnlock => true
  | .railFault rail => rail.wf
  | .inputSample _ _ => true
  | .powerCapTick _ => true
  | .thermalCapTick temps => decide (temps.length = 17)
  | .clockStepPrepare => true
  | .clockStepSwitch => true
  | .resetAssert _ _ => true
  | .resetRelease _ => true
  | .bootPhaseEnd _ => true
  | .hostBootDatagram _ _ => true
  | .enec _ => true
  | .disec _ => true
  | .rstdaa => true
  | .entdaa _ => true
  | .setdasa _ => true
  | .getpid => true
  | .getbcr => true
  | .getdcr => true
  | .getstatus => true
  | .getmwl => true
  | .getmrl => true
  | .rstact _ => true
  | .i3cCsrRead _ _ => true
  | .i3cCsrWrite _ _ => true
  | .i3cMemoryRead _ _ => true
  | .i3cMemoryWrite _ _ => true
  | .i3cPrivateRead => true
  | .bypass => true
  | .idcode => true
  | .samplePreload _ => true
  | .extest _ => true
  | .clamp => true
  | .highz => true
  | .debug _ => true
  | .jtagTrst _ => true
  | .dbgHalt c _ => decide (c < 10240)
  | .dbgStep c _ => decide (c < 10240)
  | .registerWrite _ _ => true
  | .corruptedFrame l c => wireWf l && c.corr.all (fun i => decide (i < 8)) && c.uncorr.all (fun i => decide (i < 8))
  | .protocolViolation l _ _ => wireWf l

end Sys2Proof
end

