-- ==== Sys2Proof/Certificates/Slice0/Obligations.lean ====
section
/-! DEFINITION. The statements for the provers: what each command does when it takes effect, what it leaves
alone, and the rules that hold of the whole block. -/

namespace Sys2Proof.Machine

/-! ### The terms of the statements about instructions -/

/-- A lane result: every active thread's destination holds its value, every other register, predicate and
part of the group is as it was, the flags of the active threads stick, the program counter moves on one word
(R70, R74). -/
def LaneResult (w : DWord) (f : Group → Nat → Word × Nat) (v u : Group) : Prop :=
  (∀ t, t < 64 → u.vreg (iDst w) t = if bit (v.active w) t then (f v t).1 else v.vreg (iDst w) t) ∧
  SameV v u [iDst w] ∧ u.sregs = v.sregs ∧ u.preds = v.preds ∧
  (∀ i, i < 5 → bit u.flags i = (bit v.flags i || (v.activeList w).any (fun t => (f v t).2.testBit i))) ∧
  u.pc = v.pc + 8 ∧ SameGroup v u

/-- An instruction that writes one word per active thread. -/
def LaneClaim (i : GRef → DWord → Instr) (opc : Nat) (k : LaneForm) (f : DWord → Group → Nat → Word × Nat) : Prop :=
  ∀ g w s, canIssue s g opc w 0 (k.shape w) noCheck anyRoom = true → Issues (i g w) g s (LaneResult w (f w))

/-- An integer instruction: a function of the values of a, b and c, no flag raised (R72). -/
def IntClaim (i : GRef → DWord → Instr) (opc : Nat) (k : LaneForm) (f : DWord → Word → Word → Word → Word) : Prop :=
  LaneClaim i opc k (fun w v t => (f w (v.srcA w t) (v.srcB w (imm12 w) t) (v.srcC w t), 0))

/-- A predicate result: bit t of pd for each active thread (R70). -/
def PredResult (w : DWord) (f : Group → Nat → Bool × Nat) (v u : Group) : Prop :=
  (∀ t, t < 64 → bit (u.pred (iDst w)) t = if bit (v.active w) t then (f v t).1 else bit (v.pred (iDst w)) t) ∧
  SameP v u [iDst w] ∧ u.vregs = v.vregs ∧ u.sregs = v.sregs ∧
  (∀ i, i < 5 → bit u.flags i = (bit v.flags i || (v.activeList w).any (fun t => (f v t).2.testBit i))) ∧
  u.pc = v.pc + 8 ∧ SameGroup v u

/-- An instruction that writes one predicate bit per active thread. -/
def PredClaim (i : GRef → DWord → Instr) (opc : Nat) (sh : DWord → Shape) (f : DWord → Group → Nat → Bool × Nat) : Prop :=
  ∀ g w s, canIssue s g opc w 0 (sh w) noCheck anyRoom = true → Issues (i g w) g s (PredResult w (f w))

/-- Only scalar registers `ns`, predicates `ps` and the program counter, one word on, may differ. -/
def ScalarFrame (ns ps : List Nat) (v u : Group) : Prop :=
  SameS v u ns ∧ SameP v u ps ∧ u.vregs = v.vregs ∧ u.flags = v.flags ∧ u.pc = v.pc + 8 ∧ SameGroup v u

/-- A scalar instruction: it acts once where some thread is active, and does nothing else (R69, R90). -/
def ScalarClaim (i : GRef → DWord → Instr) (opc : Nat) (sh : DWord → Shape) (f : DWord → Group → Word) : Prop :=
  ∀ g w s, canIssue s g opc w 0 (sh w) noCheck anyRoom = true →
    Issues (i g w) g s (fun v u =>
      u.sreg (iDst w) = (if v.active w = 0 then v.sreg (iDst w) else f w v) ∧ ScalarFrame [iDst w] [] v u)

/-- Scalar pairs read as the two registers' words together (R66). -/
def pairIs (u : Group) (n : Nat) (x : DWord) : Prop := u.spair n = x

end Sys2Proof.Machine

open Sys2Proof Sys2Proof.Machine

/-- Integer instructions (R72, Table 3-8): when one issues, every active thread's destination holds the
function of its sources that the table gives, and nothing else of the device differs. -/
def IntegerLanes : Prop :=
  IntClaim .iadd 0x01 fmAB (fun _ a b _ => a + b) ∧
  IntClaim .isub 0x02 fmAB (fun _ a b _ => a - b) ∧
  IntClaim .imul 0x03 fmAB (fun _ a b _ => a * b) ∧
  IntClaim .imulhi 0x04 fmAB (fun w a b _ =>
    if mU w then (a.setWidth 64 * b.setWidth 64 : DWord).extractLsb' 32 32
    else (a.signExtend 64 * b.signExtend 64 : DWord).extractLsb' 32 32) ∧
  IntClaim .imad 0x05 fmABC (fun _ a b c => a * b + c) ∧
  IntClaim .imin 0x06 fmAB (fun w a b _ => if (if mU w then decide (a.toNat ≤ b.toNat) else decide (a.toInt ≤ b.toInt)) then a else b) ∧
  IntClaim .imax 0x07 fmAB (fun w a b _ => if (if mU w then decide (a.toNat ≤ b.toNat) else decide (a.toInt ≤ b.toInt)) then b else a) ∧
  IntClaim .iabs 0x08 fmA (fun _ a _ _ => BitVec.ofNat 32 a.toInt.natAbs) ∧
  IntClaim .iand 0x09 fmAB (fun _ a b _ => a &&& b) ∧
  IntClaim .ior 0x0A fmAB (fun _ a b _ => a ||| b) ∧
  IntClaim .ixor 0x0B fmAB (fun _ a b _ => a ^^^ b) ∧
  IntClaim .andn 0x0C fmAB (fun _ a b _ => a &&& ~~~b) ∧
  IntClaim .shl 0x0D fmAB (fun _ a b _ => if 32 ≤ b.toNat then 0 else a <<< b.toNat) ∧
  IntClaim .shr 0x0E fmAB (fun w a b _ =>
    if mU w then (if 32 ≤ b.toNat then 0 else a >>> b.toNat)
    else BitVec.ofInt 32 (a.toInt / 2 ^ min b.toNat 31)) ∧
  IntClaim .popc 0x0F fmA (fun _ a _ _ => BitVec.ofNat 32 ((List.range 32).countP (fun i => bit a i))) ∧
  IntClaim .clz 0x10 fmA (fun _ a _ _ => BitVec.ofNat 32 (if a = 0 then 32 else 31 - a.toNat.log2)) ∧
  IntClaim .brev 0x11 fmA (fun _ a _ _ => BitVec.ofNat 32
    ((List.range 32).map (fun i => if bit a i then 2 ^ (31 - i) else 0)).sum)

/-- IMM copies, byte shuffles and selections (Table 3-8): MOV, BSHUF, SEL, and the moves of Table 3-13 that
write a vector register, TID and SHFL (R80). -/
def LaneMoves : Prop :=
  IntClaim .mov 0x15 { dst := .v 1, a := 1, b := 0, c := 0, imm := true, mov := true }
    (fun w a _ _ => if mIMM w then imm12 w else a) ∧
  IntClaim .bshuf 0x16 { dst := .v 1, a := 1, b := 1, c := 0, fn := 0xFFF, imm := false } (fun w a b _ => bshufW (mFn w) a b) ∧
  LaneClaim .sel 0x13 { dst := .v 1, a := 1, b := 1, c := 1, cPred := true, imm := true }
    (fun w v t => (if bit (v.pred (iC w)) t then v.srcA w t else v.srcB w (imm12 w) t, 0)) ∧
  LaneClaim .tid 0x90 { dst := .v 1, a := 0, b := 0, c := 0, imm := false } (fun _ _ t => (BitVec.ofNat 32 t, 0)) ∧
  LaneClaim .shfl 0x91 { dst := .v 1, a := 1, b := 1, c := 0, fn := 3, imm := false }
    (fun w v t => (v.srcA w (shflFrom (fld w 0 2) t (v.srcB w 0 t).toNat), 0))

/-- Compares (Tables 3-7 to 3-9): ISETP and FSETP write bit t of pd for each active thread and leave the other
bits and predicates; FSETP raises INV as Table 3-9 says. -/
def LaneCompares : Prop :=
  PredClaim .isetp 0x12
    (fun w => (({ dst := .p, a := 1, b := 1, c := 0, imm := true } : LaneForm).shape w).and (Shape.when (decide (mCmp w < 6))))
    (fun w v t =>
      let a := v.srcA w t
      let b := v.srcB w (imm12 w) t
      let lt := if mU w then decide (a.toNat < b.toNat) else decide (a.toInt < b.toInt)
      (match mCmp w with
        | 0 => decide (a = b)
        | 1 => decide (a ≠ b)
        | 2 => lt
        | 3 => lt || decide (a = b)
        | 4 => !lt && decide (a ≠ b)
        | _ => !lt, 0)) ∧
  PredClaim .fsetp 0x45
    (fun w => (({ dst := .p, a := 1, b := 1, c := 0, fn := 7, imm := false } : LaneForm).shape w).and
      (Shape.when (decide (fld w 0 3 < 7))))
    (fun w v t => (fcmp (fld w 0 3) (f32 (v.fA w t)) (f32 (v.fB w t)),
      fsetpFl (fld w 0 3) (f32 (v.fA w t)) (f32 (v.fB w t))))

/-- Pair sums (R66): IADD64 for each active thread, S.ADD64 once where some thread is active. -/
def PairSums : Prop :=
  (∀ g w s, canIssue s g 0x14 w 0 (({ dst := .v 2, a := 2, b := 2, c := 0, imm := true } : LaneForm).shape w) noCheck anyRoom = true →
    Issues (.iadd64 g w) g s (fun v u =>
      (∀ t, t < 64 → u.vpair (iDst w) t =
        if bit (v.active w) t then
          v.srcPair (mAS w) (iA w) t +
            (if mIMM w then BitVec.signExtend 64 (BitVec.ofNat 12 w.toNat) else v.srcPair (mBS w) (iB w) t)
        else v.vpair (iDst w) t) ∧
      SameV v u [iDst w, iDst w + 1] ∧ u.sregs = v.sregs ∧ u.preds = v.preds ∧ u.flags = v.flags ∧
      u.pc = v.pc + 8 ∧ SameGroup v u)) ∧
  (∀ g w s, canIssue s g 0xEA w 0 (scalShape w (shS (iDst w) 2) 2 false false) noCheck anyRoom = true →
    Issues (.sAdd64 g w) g s (fun v u =>
      u.spair (iDst w) = (if v.active w = 0 then v.spair (iDst w)
        else v.spair (iA w) + (if mIMM w then BitVec.signExtend 64 (BitVec.ofNat 12 w.toNat) else v.spair (iB w))) ∧
      ScalarFrame [iDst w, iDst w + 1] [] v u))

/-- Integer results (R66, R72): both the 32-bit lanes and the 64-bit sums. -/
def Obligations.IntegerResults : Prop := IntegerLanes ∧ PairSums

/-- Float instructions (R73, Table 3-9): when one issues, every active thread's destination holds the rounded
function of its sources after FN's |a| and the negations NA and NB, the exceptions of the active threads
stick in FLAGS, and nothing else of the device differs. -/
def Obligations.FloatLanes : Prop :=
  LaneClaim .fadd 0x40 fmFAB (fun w v t => fadd32 (rmOf (mRM w)) (v.fAbsA w t) (v.fB w t)) ∧
  LaneClaim .fmul 0x41 fmFAB (fun w v t => fmul32 (rmOf (mRM w)) (v.fAbsA w t) (v.fB w t)) ∧
  LaneClaim .ffma 0x42 fmFABC (fun w v t => ffma32 (rmOf (mRM w)) (v.fAbsA w t) (v.fB w t) (v.srcC w t)) ∧
  LaneClaim .fmin 0x43 fmAB (fun w v t => resW (minmaxBits fp32 false (v.fA w t).toNat (v.fB w t).toNat)) ∧
  LaneClaim .fmax 0x44 fmAB (fun w v t => resW (minmaxBits fp32 true (v.fA w t).toNat (v.fB w t).toNat)) ∧
  LaneClaim .frcp 0x48 fmA (fun w v t => frcpVal (v.fA w t)) ∧
  LaneClaim .frsq 0x49 fmA (fun w v t => frsqVal (v.fA w t)) ∧
  LaneClaim .fsqrt 0x4A fmA (fun w v t => resW (sqrtVal fp32 (rmOf (mRM w)) (f32 (v.fA w t)))) ∧
  LaneClaim .fex2 0x4B fmA (fun w v t => fex2Val (v.fA w t)) ∧
  LaneClaim .flg2 0x4C fmA (fun w v t => flg2Val (v.fA w t)) ∧
  LaneClaim .fsin 0x4D fmA (fun w v t => fsinCosVal false (v.fA w t)) ∧
  LaneClaim .fcos 0x4E fmA (fun w v t => fsinCosVal true (v.fA w t)) ∧
  LaneClaim .hfma2 0x50 { dst := .v 1, a := 1, b := 1, c := 1, fn := 2, imm := false }
    (fun w v t =>
      let f := if bit w 1 then bf16 else fp16
      let a := negHalves (mNA w) (v.srcA w t)
      let b := negHalves (mNB w) (v.srcB w 0 t)
      let h (i : Nat) : Res := fmaVal f (rmOf (mRM w)) (decodeVal f (half a i)) (decodeVal f (half b i))
        (decodeVal f (half (v.srcC w t) i))
      (BitVec.ofNat 32 ((h 0).bits + (h 1).bits * 65536), (h 0).fl ||| (h 1).fl))

/-- Conversions (R76–R79): CVT writes position POS of vd of every active thread; CVT.MX to fp32 writes vd, and
from fp32 writes byte POS of vd of every active thread and byte 0 of v(d+1) of threads 0 and 32 whose block has
an active thread. Stochastic rounding takes its Reference Vector from the context's seed (R78). -/
def Obligations.Conversions : Prop :=
  (∀ g w s, canIssue s g 0x80 w 0
      (cvtShape w 1 (decide (cFrom w < 9) && decide (cTo w < 9) && !(isIntCode (cFrom w) && isIntCode (cTo w)))) noCheck anyRoom = true →
    Issues (.cvt g w) g s (LaneResult w (fun v t =>
      let r := cvtOne (cFrom w) (cTo w)
        (if cRM w = 4 then .stoch (randWord (s.seed v.ctx) 2 (v.sreg (iB w)).toNat (v.vreg (iC w) t).toNat 0) else rmOf (cRM w))
        (cSat w) (pickPos (codeWidth (cFrom w)) (cPos w) (v.srcA w t))
      (putPos (codeWidth (cTo w)) (cPos w) (v.vreg (iDst w) t) r.bits, r.fl)))) ∧
  (∀ g w s, canIssue s g 0x81 w 0 (cvtMxShape w) noCheck anyRoom = true → cFrom w ≠ 0 →
    Issues (.cvtMx g w) g s (LaneResult w (fun v t => cvtMxTo s v w t))) ∧
  (∀ g w s, canIssue s g 0x81 w 0 (cvtMxShape w) noCheck anyRoom = true → cFrom w = 0 →
    Issues (.cvtMx g w) g s (fun v u =>
      (∀ t, t < 64 → u.vreg (iDst w) t =
        if bit (v.active w) t then setFld (v.vreg (iDst w) t) (8 * cPos w) 8 ((mxBlock s v w (t / 32)).2.1.getD (t % 32) 0)
        else v.vreg (iDst w) t) ∧
      (∀ t, t < 64 → u.vreg (iDst w + 1) t =
        if t % 32 = 0 ∧ mxBlockOn v w t = true then setFld (v.vreg (iDst w + 1) t) 0 8 (mxBlock s v w (t / 32)).1
        else v.vreg (iDst w + 1) t) ∧
      u.flags = v.flags ||| BitVec.ofNat 5 ((if mxBlockOn v w 0 then (mxBlock s v w 0).2.2 else 0) |||
        (if mxBlockOn v w 32 then (mxBlock s v w 1).2.2 else 0)) ∧
      SameV v u [iDst w, iDst w + 1] ∧ u.sregs = v.sregs ∧ u.preds = v.preds ∧ u.pc = v.pc + 8 ∧ SameGroup v u))

/-- VOTE and READLANE (R69, R80): VOTE writes its destination even when no thread is active; READLANE reads
the source thread's register as it stands, and acts only where some thread is active. -/
def VotesAndReadlane : Prop :=
  (∀ g w s, canIssue s g 0x92 w 0 (voteShape w) noCheck anyRoom = true →
    Issues (.vote g w) g s (fun v u =>
      (fld w 0 2 = 0 → (∀ t, t < 64 → bit (u.pred (iDst w)) t = decide (v.pred (iA w) &&& v.active w ≠ 0)) ∧
        ScalarFrame [] [iDst w] v u) ∧
      (fld w 0 2 = 1 → (∀ t, t < 64 → bit (u.pred (iDst w)) t = decide (v.pred (iA w) &&& v.active w = v.active w)) ∧
        ScalarFrame [] [iDst w] v u) ∧
      (fld w 0 2 = 2 → u.spair (iDst w) = v.pred (iA w) &&& v.active w ∧ ScalarFrame [iDst w, iDst w + 1] [] v u))) ∧
  ScalarClaim .readlane 0x93 (fun w => ({ dst := .s, a := 1, b := 1, c := 0, bScal := true, imm := true } : LaneForm).shape w)
    (fun w v => v.srcA w ((if mIMM w then imm12 w else v.sreg (iB w)).toNat % 64))

/-- Lane moves, compares, votes and READLANE. -/
def Obligations.MovesComparesAndVotes : Prop := LaneMoves ∧ LaneCompares ∧ VotesAndReadlane

/-- Scalar instructions (R90, Table 3-19): each acts once where some thread is active, and writes one scalar
register, or one whole predicate (S.SETP). -/
def ScalarInstructions : Prop :=
  ScalarClaim .sAdd 0xE0 (fun w => scalShape w (shS (iDst w)) 1 false false) (fun w v => v.scA w + v.scB w) ∧
  ScalarClaim .sSub 0xE1 (fun w => scalShape w (shS (iDst w)) 1 false false) (fun w v => v.scA w - v.scB w) ∧
  ScalarClaim .sMul 0xE2 (fun w => scalShape w (shS (iDst w)) 1 false false) (fun w v => v.scA w * v.scB w) ∧
  ScalarClaim .sAnd 0xE3 (fun w => scalShape w (shS (iDst w)) 1 false false) (fun w v => v.scA w &&& v.scB w) ∧
  ScalarClaim .sOr 0xE4 (fun w => scalShape w (shS (iDst w)) 1 false false) (fun w v => v.scA w ||| v.scB w) ∧
  ScalarClaim .sXor 0xE5 (fun w => scalShape w (shS (iDst w)) 1 false false) (fun w v => v.scA w ^^^ v.scB w) ∧
  ScalarClaim .sShl 0xE6 (fun w => scalShape w (shS (iDst w)) 1 false false)
    (fun w v => if 32 ≤ (v.scB w).toNat then 0 else v.scA w <<< (v.scB w).toNat) ∧
  ScalarClaim .sShr 0xE7 (fun w => scalShape w (shS (iDst w)) 1 false false)
    (fun w v => if mU w then (if 32 ≤ (v.scB w).toNat then 0 else v.scA w >>> (v.scB w).toNat)
      else BitVec.ofInt 32 ((v.scA w).toInt / 2 ^ min (v.scB w).toNat 31)) ∧
  ScalarClaim .sMov 0xE8 (fun w => scalShape w (shS (iDst w)) 1 true false)
    (fun w v => if mIMM w then imm12 w else v.scA w) ∧
  (∀ g w s, canIssue s g 0xE9 w 0 (scalShape w (shPd (iDst w)) 1 false true) noCheck anyRoom = true →
    Issues (.sSetp g w) g s (fun v u =>
      (∀ t, t < 64 → bit (u.pred (iDst w)) t =
        if v.active w = 0 then bit (v.pred (iDst w)) t else icmp (mU w) (mCmp w) (v.scA w) (v.scB w)) ∧
      ScalarFrame [] [iDst w] v u))

/-- Special registers (R91, Table 3-20): S.RDSPR writes the value of SPR 0 to 6, 8 and 9 to sd, and for SPR 7
the low half of the block's measurement counter, whose high half SPR 8 then returns; S.WRSPR writes FLAGS. -/
def SpecialRegisters : Prop :=
  (∀ g w s, canIssue s g 0xEB w 0 (sprShape w (shS (iDst w)) (fun n => decide (n ≤ 9)) (fun _ => true) (iA w)) noCheck anyRoom = true →
    fld w 0 8 ≠ 7 →
    Issues (.sRdspr g w) g s (fun v u =>
      u.sreg (iDst w) = (if v.active w = 0 then v.sreg (iDst w) else
        match fld w 0 8 with
        | 0 => BitVec.ofNat 32 v.index
        | 1 => BitVec.ofNat 32 v.count
        | 2 => BitVec.ofNat 32 (g.cell / 16)
        | 3 => BitVec.ofNat 32 (g.cell % 16)
        | 4 => BitVec.ofNat 32 g.slot
        | 5 => BitVec.ofNat 32 v.ctx
        | 6 => v.flags.setWidth 32
        | 8 => v.mcountHi
        | _ => s.node.setWidth 32) ∧
      ScalarFrame [iDst w] [] v u)) ∧
  (∀ g w s, canIssue s g 0xEB w 0 (sprShape w (shS (iDst w)) (fun n => decide (n ≤ 9)) (fun _ => true) (iA w)) noCheck anyRoom = true →
    fld w 0 8 = 7 →
    Reaches (.sRdspr g w) s (fun t => ∃ v u, s.readyGroup g = some v ∧ t.group g = some u ∧ u.pc = v.pc + 8 ∧
      (v.active w ≠ 0 → pairOf (u.sreg (iDst w)) u.mcountHi = (t.block (cellBlock g.cell)).win.counter) ∧
      (v.active w = 0 → u.sregs = v.sregs ∧ u.mcountHi = v.mcountHi) ∧
      SameV v u [] ∧ u.preds = v.preds ∧ u.flags = v.flags ∧ SameOutside s t)) ∧
  (∀ g w s, canIssue s g 0xEC w 0 (sprShape w (shS (iA w)) (fun n => decide (n ≤ 9)) (fun n => decide (n = 6)) (iDst w)) noCheck anyRoom = true →
    Issues (.sWrspr g w) g s (fun v u =>
      u.flags = (if v.active w = 0 then v.flags else (v.sreg (iA w)).setWidth 5) ∧
      u.vregs = v.vregs ∧ u.sregs = v.sregs ∧ u.preds = v.preds ∧ u.pc = v.pc + 8 ∧ SameGroup v u))

/-- Scalar instructions, and the special registers that S.RDSPR and S.WRSPR reach. -/
def Obligations.ScalarRegisters : Prop := ScalarInstructions ∧ SpecialRegisters

/-- Control flow (R46, R92–R94): NOP moves on; BRA goes to its target, moves on, or splits the group, pushing the
taken threads; JMPR and RET go to a register pair's address, a multiple of 8; CALL leaves the next address in
its pair. -/
def Obligations.ControlFlow : Prop :=
  (∀ g w s, canIssue s g 0xF0 w 0 ((ctlShape w (iMod w == 0)).and (shWhole w)) noCheck anyRoom = true →
    Issues (.nop g w) g s (fun v u => ScalarFrame [] [] v u)) ∧
  (∀ g w s, canIssue s g 0xF1 w 0 (((shZ (iA w)).and (shZ (iB w))).and
      ((Shape.when (if iPred w == 7 && !iPneg w then roff w == 0 else decide (1 ≤ roff w))).and (shGuard w))) noCheck anyRoom = true →
    (∀ v, s.readyGroup g = some v → v.stack.length < 32) →
    Issues (.bra g w) g s (fun v u =>
      let taken := v.mask &&& v.guardBits w
      let fall := v.mask &&& ~~~(v.guardBits w)
      let target : DWord := v.pc + 8 * BitVec.signExtend 64 (BitVec.ofNat 20 (iMod w))
      (taken = 0 → u.pc = v.pc + 8 ∧ u.mask = v.mask ∧ u.stack = v.stack) ∧
      (taken ≠ 0 → fall = 0 → u.pc = target ∧ u.mask = v.mask ∧ u.stack = v.stack) ∧
      (taken ≠ 0 → fall ≠ 0 → u.pc = v.pc + 8 ∧ u.mask = fall ∧
        u.stack = { rpc := v.pc + 8 * BitVec.ofNat 64 (roff w), pendPc := target, pendMask := taken, saved := v.mask,
                    pendDone := false } :: v.stack) ∧
      u.live = v.live ∧ u.vregs = v.vregs ∧ u.sregs = v.sregs ∧ u.preds = v.preds ∧ u.flags = v.flags)) ∧
  (∀ i : GRef → DWord → Instr, ∀ opc, (i = .jmpr ∧ opc = 0xF2 ∨ i = .ret ∧ opc = 0xF4) →
    ∀ g w s, canIssue s g opc w 0 (jumpShape w) noCheck anyRoom = true →
    (∀ v, s.readyGroup g = some v → (v.spair (iA w)).toNat % 8 = 0) →
    Issues (i g w) g s (fun v u =>
      u.pc = v.spair (iA w) ∧ u.vregs = v.vregs ∧ u.sregs = v.sregs ∧ u.preds = v.preds ∧ u.flags = v.flags ∧ SameGroup v u)) ∧
  (∀ g w s, canIssue s g 0xF3 w 0
      (((shS (iDst w) 2).and ((shZ (iA w)).and ((shZ (iB w)).and (shZ (iC w))))).and (shWhole w)) noCheck anyRoom = true →
    Issues (.call g w) g s (fun v u =>
      u.spair (iDst w) = v.pc + 8 ∧ u.pc = v.pc + 8 * BitVec.signExtend 64 (BitVec.ofNat 20 (iMod w)) ∧
      SameS v u [iDst w, iDst w + 1] ∧ u.vregs = v.vregs ∧ u.preds = v.preds ∧ u.flags = v.flags ∧ SameGroup v u))

/-- EXIT (R45, R54): the executing threads leave the live mask, the current mask and every mask of the stack; with
the last of them the group exits, its registers and scratch released. -/
def ThreadsExit : Prop :=
  ∀ g w s, canIssue s g 0xF5 w 0 ((ctlShape w (iMod w == 0)).and (shGuard w)) noCheck anyRoom = true →
    ((∀ v, s.readyGroup g = some v → v.live &&& ~~~(v.active w) ≠ 0) →
      Issues (.exit g w) g s (fun v u =>
        u.live = v.live &&& ~~~(v.active w) ∧ u.mask = v.mask &&& ~~~(v.active w) ∧
        u.stack = v.stack.map (fun e =>
          { e with saved := e.saved &&& ~~~(v.active w), pendMask := e.pendMask &&& ~~~(v.active w) }) ∧
        u.pc = v.pc + 8 ∧ u.st = v.st ∧ u.vregs = v.vregs ∧ u.sregs = v.sregs ∧ u.preds = v.preds ∧ u.flags = v.flags)) ∧
    ((∀ v, s.readyGroup g = some v → v.live &&& ~~~(v.active w) = 0) →
      Reaches (.exit g w) s (fun t => ∀ u, t.group g = some u →
        (u.st = .exiting ∨ u.st = .frozen ∧ t.chip.errs.halted = true) ∧ u.live = 0 ∧ u.vregs = [] ∧ u.sregs = [] ∧ u.preds = [] ∧ u.scratch = [] ∧ u.scratchUnits = []))

/-- BAR (R49): an arrival that is not the last counts and the group waits (or its set is found in deadlock,
R51); while detection is off, or some other group of the set runs on, it waits, and nothing but its own group and its
block's count differs; the last arrival toggles the phase, starts the next count with the exited groups, and the group
goes on past its BAR. -/
def Obligations.BarrierArrivals : Prop :=
  ∀ g w s v x n, canIssue s g 0xF6 w 0 ((ctlShape w (iMod w < 16)).and (shWhole w)) (barCheckIssue g w) anyRoom = true →
    s.readyGroup g = some v → s.setOf (cellBlock g.cell) v.setId = some x → x.barIds[fld w 0 4]? = some n →
    let k := lookupD {} (s.block (cellBlock g.cell)).bars n
    (k.done + 1 < k.expected →
      Reaches (.bar g w) s (fun t => lookupD {} (t.block (cellBlock g.cell)).bars n = { k with done := k.done + 1 } ∧
        ∃ u, t.group g = some u ∧ (u.st = .atBarrier (fld w 0 4) ∨ u.st = .frozen ∧ u.code = 0x0105) ∧ u.pc = v.pc)) ∧
    (k.done + 1 < k.expected →
      (s.csrF (oBlk (cellBlock g.cell) 0xF0) 0 1 = 0 ∨
        ∃ h u, h ∈ x.refs (cellBlock g.cell) ∧ h ≠ g ∧ s.group h = some u ∧ u.setId = v.setId ∧ u.st = .running) →
      Reaches (.bar g w) s (fun t => lookupD {} (t.block (cellBlock g.cell)).bars n = { k with done := k.done + 1 } ∧
        t.group g = some { v with st := .atBarrier (fld w 0 4), stepOne := false, bpPass := false } ∧
        (∀ h, h ≠ g → t.group h = s.group h) ∧ SameOutside s t)) ∧
    (k.expected ≤ k.done + 1 → g ∈ x.refs (cellBlock g.cell) →
      Reaches (.bar g w) s (fun t =>
        lookupD {} (t.block (cellBlock g.cell)).bars n = { k with done := x.exited.length, phase := !k.phase } ∧
        ∃ u, t.group g = some u ∧ u.st = .running ∧ u.pc = v.pc + 8))

/-- FENCE and FENCE_COMPLETE (R96, R220): a FENCE makes its group wait with the scope and the Silk bit it names;
when what it waits for has ended, the caches of its scope are emptied and the group goes on. -/
def FencesWaitAndComplete : Prop :=
  (∀ g w s, canIssue s g 0xF7 w 0 ((ctlShape w (decide (iMod w % 16 < 4) && decide (iMod w < 32))).and (shWhole w)) noCheck anyRoom = true →
    Issues (.fence g w) g s (fun v u =>
      u.fence = some { scope := BitVec.ofNat 2 (fld w 0 2), silk := bit w 4 } ∧ u.pc = v.pc ∧ u.st = v.st ∧
      u.vregs = v.vregs ∧ u.sregs = v.sregs ∧ u.preds = v.preds ∧ u.flags = v.flags ∧ u.pend = v.pend ∧ u.mxq = v.mxq)) ∧
  (∀ g s v f, gOk g = true → s.group g = some v → v.fence = some f → v.st = .running → s.fenceReady v f = true →
    Reaches (.fenceComplete g) s (fun t => t.group g = some { v with fence := none, pc := v.pc + 8 } ∧
      SameOutside s t ∧ (t.cell g.cell).accs = (s.cell g.cell).accs ∧
      (t.cell g.cell).lineCache = (if f.scope = 0 then (s.cell g.cell).lineCache else []) ∧
      (t.block (cellBlock g.cell)).cache = (if f.scope.toNat < 2 then (s.block (cellBlock g.cell)).cache else [])))

/-- TRAP (R97): with no active thread it moves on; else it freezes its group with code 0x010F at the TRAP, and the
cell's error unit raises an event. -/
def TrapFreezes : Prop :=
  ∀ g w s, canIssue s g 0xF9 w 0 ((ctlShape w true).and (shGuard w)) noCheck anyRoom = true →
    ((∀ v, s.readyGroup g = some v → v.active w = 0) → Issues (.trap g w) g s (fun v u => ScalarFrame [] [] v u)) ∧
    ((∀ v, s.readyGroup g = some v → v.active w ≠ 0) →
      Reaches (.trap g w) s (fun t => (∃ v u, s.readyGroup g = some v ∧ t.group g = some u ∧ u.st = .frozen ∧ u.code = 0x010F ∧
        u.pc = v.pc ∧ u.vregs = v.vregs ∧ u.sregs = v.sregs ∧ u.preds = v.preds) ∧
        (t.cell g.cell).err.seq = (s.cell g.cell).err.seq + 1))

/-- Threads end by EXIT, and TRAP freezes their group. -/
def Obligations.ThreadsEndOrTrap : Prop := ThreadsExit ∧ TrapFreezes

/-- WAIT and its reads (R95): the first read is made at issue and each poll read adds one, at the coherence
point; a returned read that meets the condition ends the WAIT with pd all ones, the last one that does not with
pd all zeros, any other is dropped and the group waits on. -/
def WaitsPoll : Prop :=
  (∀ g w s v pa nc, canIssue s g 0xF8 w 0 (((shPd (iDst w)).and ((shS (iA w) 2).and ((shS (iB w) 2).and (shZ (iC w))))).and
      ((Shape.when (decide (fld w 13 3 < 3) && decide (fld w 16 4 = 0) && !bit w 12)).and (shWhole w))) noCheck anyRoom = true →
    s.readyGroup g = some v → (v.spair (iA w)).toNat % 8 = 0 →
    (((s.issuedAt g .control v 0xF8 w 0).movePtr g .memory).translate v.ctx (v.spair (iA w)).toNat .load).1 = .ok pa nc → s.eccHits pa 8 = [] →
    Issues (.wait g w) g s (fun v u =>
      u.wait = some {
        addr := v.spair (iA w), value := v.spair (iB w), pd := iDst w, cond := BitVec.ofNat 3 (fld w 13 3),
        timeout := fld w 0 12, made := 1, inFlight := [(0, BitVec.ofNat 64 (s.word pa 8))] } ∧
      u.pc = v.pc ∧ u.st = v.st ∧ u.vregs = v.vregs ∧ u.sregs = v.sregs ∧ u.preds = v.preds ∧ u.flags = v.flags)) ∧
  (∀ g s v r pa nc, gOk g = true → s.group g = some v → v.wait = some r → v.st = .running → v.halted = false → r.made < r.timeout * 4 + 1 →
    ((s.movePtr g .memory).translate v.ctx r.addr.toNat .load).1 = .ok pa nc → s.eccHits pa 8 = [] →
    Reaches (.waitPollRead g) s (fun t => OnlyGroup s t g ∧
      (let q : WaitRec := { r with made := r.made + 1, inFlight := r.inFlight ++ [(r.made, BitVec.ofNat 64 (s.word pa 8))] }
       t.group g = some { v with wait := some q }))) ∧
  (∀ g s v r k x rest, gOk g = true → s.group g = some v → v.wait = some r → r.inFlight = (k, x) :: rest → v.st = .running →
    Reaches (.waitReadReturn g) s (fun t => OnlyGroup s t g ∧ ∃ u, t.group g = some u ∧ u.vregs = v.vregs ∧ u.sregs = v.sregs ∧
      (if waitMet r x = true then u.wait = none ∧ u.pc = v.pc + 8 ∧ (r.pd ≠ 7 → u.pred r.pd = 0xFFFFFFFFFFFFFFFF) ∧ SameP v u [r.pd]
       else if k = r.timeout * 4 then u.wait = none ∧ u.pc = v.pc + 8 ∧ (r.pd ≠ 7 → u.pred r.pd = 0) ∧ SameP v u [r.pd]
       else u.wait = some { r with inFlight := rest } ∧ u.pc = v.pc ∧ u.preds = v.preds)))

/-- FENCE and WAIT hold their group until what they wait for. -/
def Obligations.FencesAndWaits : Prop := FencesWaitAndComplete ∧ WaitsPoll

/-- LDS and STS (R81–R83): a load reads scratch at issue and leaves its registers outstanding; a store writes
each active thread's bytes, the highest-numbered thread's where two meet; every other scratch byte stays. -/
def Obligations.ScratchAccesses : Prop :=
  (∀ g w s v, canIssue s g 0xA0 w 0 (memShape w 1 true false (loadOk w)) noCheck anyRoom = true → s.readyGroup g = some v →
    (∀ t, t < 64 → bit (v.active w) t = true →
      scratchAddr v w t % lBytes w = 0 ∧ scratchAddr v w t + lBytes w ≤ v.scratchUnits.length * 1024) →
    Issues (.lds g w) g s (fun v u => u.pc = v.pc + 8 ∧ u.vregs = v.vregs ∧ u.sregs = v.sregs ∧ u.preds = v.preds ∧
      u.scratch = v.scratch ∧ ∃ a, u.pend = v.pend ++ [a] ∧ a.pc = v.pc ∧ a.fault = none ∧
        a.regs = (List.range (lRegs w)).map (iDst w + ·) ∧
        a.writes = (v.activeList w).flatMap (fun t =>
          (loadWords (lBytes w) (lSx w) (scratchBytes v (scratchAddr v w t) (lBytes w))).mapIdx
            (fun i x => ((iDst w + i) * 64 + t, x))))) ∧
  (∀ g w s v, canIssue s g 0xA1 w 0 (memShape w 1 false true (storeOk w)) noCheck anyRoom = true → s.readyGroup g = some v →
    (∀ t, t < 64 → bit (v.active w) t = true →
      scratchAddr v w t % lBytes w = 0 ∧ scratchAddr v w t + lBytes w ≤ v.scratchUnits.length * 1024) →
    s.scratchEcc = [] →
    Issues (.sts g w) g s (fun v u => u.pc = v.pc + 8 ∧ u.vregs = v.vregs ∧ u.sregs = v.sregs ∧ u.preds = v.preds ∧
      u.pend = v.pend ∧
      (∀ o, (∀ t, t < 64 → bit (v.active w) t = true → o < scratchAddr v w t ∨ scratchAddr v w t + lBytes w ≤ o) →
        lookupD 0 u.scratch o = lookupD 0 v.scratch o) ∧
      (∀ t i, t < 64 → bit (v.active w) t = true → i < lBytes w →
        (∀ k, t < k → k < 64 → bit (v.active w) k = true →
          scratchAddr v w t + i < scratchAddr v w k ∨ scratchAddr v w k + lBytes w ≤ scratchAddr v w t + i) →
        lookupD 0 u.scratch (scratchAddr v w t + i) = (storeBytes v w t).getD i 0)))

/-- The threads' accesses of a local memory instruction that passes its checks (R84). -/
def checkedAs (s : State) (g : GRef) (v : Group) (opc : Nat) (w : DWord) (m : Mode) (l : List (Nat × Nat × Nat × Bool)) : Prop :=
  ((s.issuedAt g .memory v opc w 0).checkAccess v.ctx m (lBytes w) ((v.activeList w).map (fun t => (t, virtAddr v w t)))).1 = .ok l

/-- No cache of a cell holds the sector of an access: it is read at its coherence point (R217, R218). -/
def coldAt (s : State) (g : GRef) (pa : Nat) (nc : Bool) : Bool :=
  nc || !cacheable (pa / 32 * 32) ||
  ((find (s.cell g.cell).lineCache (pa / 32 * 32)).isNone &&
    (decide (s.cacheBytes (cellBlock g.cell) = 0) || (find (s.block (cellBlock g.cell)).cache (pa / 32 * 32)).isNone))

/-- LD and ST (R81–R84, R217): a load whose sectors no cache holds reads memory at issue and leaves its
registers outstanding; a store writes each active thread's bytes, the highest-numbered thread's where two meet, and
every other byte of memory reads as before. An upset that a store's merge meets in memory is corrected with its event,
or leaves the unit spoilt, before the same bytes are stored (R231); one beyond what R230 describes stops the model. -/
def Obligations.MemoryAccesses : Prop :=
  (∀ g w s v l, canIssue s g 0xA2 w 0 (memShape w 2 true false (loadOk w)) noCheck anyRoom = true → s.readyGroup g = some v →
    checkedAs s g v 0xA2 w .load l → (∀ y ∈ l, coldAt s g y.2.2.1 y.2.2.2 = true) →
    Reaches (.ld g w) s (fun t => SameOutside s t ∧ (∀ h, h ≠ g → t.group h = s.group h) ∧
      ∃ u a, t.group g = some u ∧ u.pc = v.pc + 8 ∧ u.vregs = v.vregs ∧ u.sregs = v.sregs ∧ u.preds = v.preds ∧
        u.pend = v.pend ++ [a] ∧ a.pc = v.pc ∧ a.fault = none ∧ a.regs = (List.range (lRegs w)).map (iDst w + ·) ∧
        a.writes = l.flatMap (fun y => (loadWords (lBytes w) (lSx w) (s.bytes y.2.2.1 (lBytes w))).mapIdx
          (fun i x => ((iDst w + i) * 64 + y.1, x))))) ∧
  (∀ g w s v l, canIssue s g 0xA3 w 0 (memShape w 2 false true (storeOk w)) noCheck anyRoom = true → s.readyGroup g = some v →
    checkedAs s g v 0xA3 w .store l → s.ecc = [] →
    Reaches (.st g w .none) s (fun t => SameButMemory s t ∧ (∀ h, h ≠ g → t.group h = s.group h) ∧
      (∃ u, t.group g = some u ∧ u.pc = v.pc + 8 ∧ u.vregs = v.vregs ∧ u.sregs = v.sregs ∧ u.preds = v.preds ∧ u.pend = v.pend) ∧
      (∀ a, (∀ y ∈ l, a < y.2.2.1 ∨ y.2.2.1 + lBytes w ≤ a) → t.byte a = s.byte a) ∧
      (∀ y i, y ∈ l → i < lBytes w →
        (∀ z ∈ l, y.1 < z.1 → y.2.2.1 + i < z.2.2.1 ∨ z.2.2.1 + lBytes w ≤ y.2.2.1 + i) →
        t.byte (y.2.2.1 + i) = (storeBytes v w y.1).getD i 0))) ∧
  (∀ g w s v l z i m word, canIssue s g 0xA3 w 0 (memShape w 2 false true (storeOk w)) noCheck anyRoom = true → s.readyGroup g = some v →
    (s.issuedAt g .memory v 0xA3 w 0).checkAccess v.ctx .store (lBytes w) ((v.activeList w).map (fun t => (t, virtAddr v w t))) = (.ok l, z) →
    let runs := l.map (fun y => (y.2.2.1, storeBytes v w y.1))
    let unit := (eccUnit word).1
    let kind := upsetKind (match placeOf unit with | some (.hbm _) => true | _ => false) m
    (mergeWords runs)[i]? = some word →
    (kind = .corrected → Reaches (.st g w (.flip i m)) s (fun t =>
      t = (z.eccCorrected word (.group g) (some v.ctx)).storeRuns g (v.pc + 8) runs)) ∧
    (kind = .uncorrected → Reaches (.st g w (.flip i m)) s (fun t =>
      t = { z.flipMem word m with ecc := addMem (z.flipMem word m).ecc unit }.storeRuns g (v.pc + 8) runs)) ∧
    (kind = .beyond → exec (.st g w (.flip i m)) s = .fault .undescribedUpset))

/-- One thread's atomic on a value (Table 3-15). -/
def atomStep (o : AOp) (v : Group) (w : DWord) (old : Nat) (y : Nat × Nat × Nat × Bool) : Nat :=
  o.apply old (regValue v (iDst w) (lBytes w) y.1) (regValue v (iC w) (lBytes w) y.1) % 2 ^ (8 * lBytes w)

/-- The atomics of an instruction on one word, in ascending thread order. -/
def atomFold (o : AOp) (v : Group) (w : DWord) (pa old : Nat) (l : List (Nat × Nat × Nat × Bool)) : Nat :=
  (l.filter (fun y => decide (y.2.2.1 = pa))).foldl (atomStep o v w) old

/-- An atomic instruction (R83, R84): atomics on the same address are applied in ascending thread order, each
thread's old value is left outstanding for vd, every byte that no thread addresses reads as before. -/
def AtomClaim (i : GRef → DWord → Instr) (opc : Nat) (op : DWord → Option AOp) : Prop :=
  ∀ g w s v l o, op w = some o → canIssue s g opc w 0 (memShape w 2 true true true) noCheck anyRoom = true →
    s.readyGroup g = some v → checkedAs s g v opc w .atomic l → s.ecc = [] →
    Reaches (i g w) s (fun t => SameButMemory s t ∧ (∀ h, h ≠ g → t.group h = s.group h) ∧
      (∃ u a, t.group g = some u ∧ u.pc = v.pc + 8 ∧ u.vregs = v.vregs ∧ u.sregs = v.sregs ∧ u.preds = v.preds ∧
        u.pend = v.pend ++ [a] ∧ a.fault = none ∧ a.regs = (List.range (lRegs w)).map (iDst w + ·) ∧
        ∀ pre y post j, l = pre ++ y :: post → j < lRegs w →
          ((iDst w + j) * 64 + y.1,
            (loadWords (lBytes w) false (leBytes (lBytes w) (atomFold o v w y.2.2.1 (s.word y.2.2.1 (lBytes w)) pre))).getD j 0)
              ∈ a.writes) ∧
      (∀ a, (∀ y ∈ l, a < y.2.2.1 ∨ y.2.2.1 + lBytes w ≤ a) → t.byte a = s.byte a) ∧
      (∀ y ∈ l, t.word y.2.2.1 (lBytes w) = atomFold o v w y.2.2.1 (s.word y.2.2.1 (lBytes w)) l))

/-- The local atomics (Table 3-15): ADD of integers of 4 and 8 bytes, of fp32 and of bf16; MIN and MAX, signed with
SX = 1; SWAP and CAS of 4 and 8 bytes. -/
def Obligations.LocalAtomics : Prop :=
  AtomClaim .atomAdd 0xA4 (fun w => match lSx w, lSize w with
    | false, 2 => some (.addI 4)
    | false, 3 => some (.addI 8)
    | true, 2 => some .addF32
    | true, 1 => some .addBf16
    | _, _ => none) ∧
  AtomClaim .atomMin 0xA5 (fun w => if lSize w = 2 then some (.minI (lSx w)) else none) ∧
  AtomClaim .atomMax 0xA6 (fun w => if lSize w = 2 then some (.maxI (lSx w)) else none) ∧
  AtomClaim .atomSwap 0xA7 (fun w => if lSx w = false ∧ (lSize w = 2 ∨ lSize w = 3) then some (.swap (lBytes w)) else none) ∧
  AtomClaim .atomCas 0xA8 (fun w => if lSx w = false ∧ (lSize w = 2 ∨ lSize w = 3) then some (.cas (lBytes w)) else none)

/-- LOAD_DATA_RETURN (R41, R231): data that returns without an uncorrectable error writes its registers and ends
its access; a flip that the protection corrects is reported and leaves the data right; one beyond what R230 describes
stops the model. MEMORY_PATH_FAULT (R99): the group freezes with the fault at the faulting instruction. -/
def Obligations.MemoryPathEvents : Prop :=
  (∀ g k s v a, gOk g = true → s.group g = some v → v.pend[k]? = some a → a.fault = none → a.hits = [] →
    v.exited = false →
    Reaches (.loadDataReturn g k .none) s (fun t => OnlyGroup s t g ∧ ∃ u, t.group g = some u ∧
      u.pend = v.pend.eraseIdx k ∧ u.pc = v.pc ∧ u.sregs = v.sregs ∧ u.preds = v.preds ∧
      (∀ r n, (∀ e ∈ a.writes, e.1 ≠ r * 64 + n) → u.vreg r n = v.vreg r n) ∧
      (∀ r n x, (r * 64 + n, x) ∈ a.writes → (∀ e ∈ a.writes, e.1 = r * 64 + n → e.2 = x) → u.vreg r n = x))) ∧
  (∀ g k s v a i m word, gOk g = true → s.group g = some v → v.pend[k]? = some a → a.fault = none → a.hits = [] →
    a.upsetWord i = some word →
    upsetKind (!a.scratch && !a.cached.contains word && (match placeOf word with | some (.hbm _) => true | _ => false)) m = .beyond →
    exec (.loadDataReturn g k (.flip i m)) s = .fault .undescribedUpset) ∧
  (∀ g k s v a i m word, gOk g = true → s.group g = some v → v.pend[k]? = some a → a.fault = none → a.hits = [] →
    a.upsetWord i = some word → a.cached.contains (a.unitOf word) = a.cached.contains word →
    upsetKind (!a.scratch && !a.cached.contains word && (match placeOf (eccUnit word).1 with | some (.hbm _) => true | _ => false)) m = .corrected →
    Reaches (.loadDataReturn g k (.flip i m)) s (fun t => ∃ z,
      t = (z.modGroup g (fun x => { x with vregs := if x.exited then x.vregs else writeRegs x.vregs a.writes })).endAccess g k
        { v := v, here := true, a := a } ∧
      (z = s.eccCorrected word (.group g) (some v.ctx) ∨
        ∃ u r, (u = s ∨ u = s.free.2) ∧ r.code = 0x0501 ∧ r.sev = sevC ∧ r.master = .group g ∧ z = u.raise r))) ∧
  (∀ g k s v a code addr, gOk g = true → s.group g = some v → v.pend[k]? = some a → a.fault = some (code, addr) →
    v.st ≠ .exiting → v.st ≠ .frozen →
    Reaches (.memoryPathFault g k) s (fun t => (∃ u, t.group g = some u ∧ u.st = .frozen ∧ u.code = code ∧ u.pc = a.pc ∧
      u.vregs = v.vregs ∧ u.sregs = v.sregs ∧ u.preds = v.preds) ∧
      (code ≠ 0x0502 → (t.cell g.cell).err.seq = (s.cell g.cell).err.seq + 1)))

/-- A new outstanding request of state `t`: its tag was free in `s`. -/
def NewReq (s t : State) (P : Req → Prop) : Prop :=
  ∃ k r, find s.silk.reqs k = none ∧ find t.silk.reqs k = some r ∧ P r

/-- What sending requests leaves alone: memory, the other groups, and the requests that are outstanding already. -/
def SendFrame (s t : State) (g : GRef) : Prop :=
  t.mem = s.mem ∧ (∀ h, h ≠ g → t.group h = s.group h) ∧
  (∀ k r, find s.silk.reqs k = some r → find t.silk.reqs k = some r) ∧ t.fuses = s.fuses ∧ t.pending = s.pending

/-- A request's frame names an operation, a Silk address, a length and the context's job (R81, R86, R246). -/
def asksFor (s : State) (ctx : Nat) (op : BitVec 6) (addr len : Nat) (f : Frame) : Prop :=
  f.tx.op = op ∧ f.tx.dst = BitVec.ofNat 16 (addr / 2 ^ 48) ∧ f.tx.window = BitVec.ofNat 8 (addr / 2 ^ 40) ∧
  f.tx.offset = BitVec.ofNat 40 addr ∧ f.tx.len = BitVec.ofNat 12 (len - 1) ∧ f.tx.src = s.node ∧ f.tx.job = s.job ctx

/-- The group goes on past a two-word instruction with its registers as they were. -/
def goesOn (v u : Group) : Prop :=
  u.pc = v.pc + 16 ∧ u.st = v.st ∧ u.vregs = v.vregs ∧ u.sregs = v.sregs ∧ u.preds = v.preds ∧ u.flags = v.flags

/-- SILK.LD, SILK.ST, SILK.ATOM and SILK.INV (R85–R87): each sends its requests, one per run of touched words, per
active thread or per 4 KiB region, each under a tag of its own, and its group goes on; loads and atomics name the
registers that their responses fill. A SILK.LD sends them where the remote line cache lacks one of its lines. -/
def Obligations.SilkRequests : Prop :=
  (∀ g w x s v, canIssue s g 0xB0 w x (silkShape w x true false (decide (xSize x ≤ 2) && decide (xAop x = 0))) noCheck
      (fun s v => s.tagsFree (cellRegion g.cell) (silkRuns (silkAddrs v w x) (silkBytes x)).length) = true →
    s.readyGroup g = some v → (∀ y ∈ silkAddrs v w x, y.2 % silkBytes x = 0) →
    (∃ y ∈ silkAddrs v w x, find (s.region (cellRegion g.cell)).lineCache (remoteKey v.ctx (y.2 / 64 * 64)) = none) →
    Reaches (.silkLd g w x) s (fun t => SendFrame s t g ∧ (∃ u, t.group g = some u ∧ goesOn v u ∧ u.pend = v.pend) ∧
      ∀ q ∈ silkRuns (silkAddrs v w x) (silkBytes x), NewReq s t (fun r => asksFor s v.ctx opLoad q.1 q.2 r.frame ∧
        ∃ dst, r.waiter = .load g v.gid v.pc dst true ∧
          ∀ y ∈ silkAddrs v w x, q.1 ≤ y.2 → y.2 < q.1 + q.2 → ∀ i, i < silkRegs x →
            ((iDst w + i) * 64 + y.1, y.2 + 4 * i - q.1) ∈ dst))) ∧
  (∀ g w x s v, canIssue s g 0xB1 w x (silkShape w x false true (decide (xSize x ≤ 2) && decide (xAop x = 0))) noCheck
      (fun s v => s.tagsFree (cellRegion g.cell) (silkRuns (silkAddrs v w x) (silkBytes x)).length) = true →
    s.readyGroup g = some v → (∀ y ∈ silkAddrs v w x, y.2 % silkBytes x = 0) →
    Reaches (.silkSt g w x) s (fun t => SendFrame s t g ∧ (∃ u, t.group g = some u ∧ goesOn v u) ∧
      ∀ q ∈ silkRuns (silkAddrs v w x) (silkBytes x), NewReq s t (fun r => asksFor s v.ctx opStore q.1 q.2 r.frame ∧
        r.waiter = .group g v.gid v.pc ∧ r.frame.payload.length = q.2 ∧
        ∀ y ∈ silkAddrs v w x, q.1 ≤ y.2 → y.2 < q.1 + q.2 →
          (∀ z ∈ silkAddrs v w x, y.1 < z.1 → y.2 ≠ z.2) → ∀ i, i < silkBytes x →
          r.frame.payload.getD (y.2 - q.1 + i) 0 =
            ((List.range (silkRegs x)).flatMap (fun j => leBytes 4 (v.vreg (iC w + j) y.1).toNat)).getD i 0))) ∧
  (∀ g w x s v op, aopOf (xAop x) = some op →
    canIssue s g 0xB2 w x (silkShape w x true true (decide (xSize x ≤ 1) && decide (silkBytes x = op.frameBytes))) noCheck
      (fun s v => s.tagsFree (cellRegion g.cell) (v.activeList w).length) = true →
    s.readyGroup g = some v → (∀ y ∈ silkAddrs v w x, y.2 % silkBytes x = 0) →
    Reaches (.silkAtom g w x) s (fun t => SendFrame s t g ∧ (∃ u, t.group g = some u ∧ goesOn v u) ∧
      ∀ y ∈ silkAddrs v w x,
        let arg := leBytes (silkBytes x) (regValue v (iC w) (silkBytes x) y.1)
        let bs := if xAop x = 0xC ∨ xAop x = 0xD then leBytes (silkBytes x) (regValue v (iDst w) (silkBytes x) y.1) ++ arg else arg
        NewReq s t (fun r => asksFor s v.ctx opAtomic y.2 bs.length r.frame ∧ r.frame.tx.aop = BitVec.ofNat 4 (xAop x) ∧
          r.frame.payload = bs ∧
          r.waiter = .load g v.gid v.pc ((List.range (silkRegs x)).map (fun i => ((iDst w + i) * 64 + y.1, 4 * i))) false))) ∧
  (∀ g w x s v, canIssue s g 0xB3 w x (silkShape w x false false (decide (xSize x = 0) && decide (xAop x = 0))) noCheck
      (fun s v => s.tagsFree (cellRegion g.cell) (silkRegions (silkAddrs v w x)).length) = true →
    s.readyGroup g = some v →
    Reaches (.silkInv g w x) s (fun t => SendFrame s t g ∧ (∃ u, t.group g = some u ∧ goesOn v u) ∧
      ∀ y ∈ silkAddrs v w x, NewReq s t (fun r => asksFor s v.ctx opInv (y.2 / 4096 * 4096) 1 r.frame ∧
        r.waiter = .group g v.gid v.pc)))

/-- The shape of SILK.PUT and SILK.GET (Table 3-16). -/
def bulkShape (w x : DWord) : Shape :=
  ((shS (iA w) 2).and ((shS (iB w) 2).and ((shS (iC w)).and (shZ (iDst w))))).and
    ((Shape.when (iMod w == 0 && fld x 52 4 == 0)).and (shGuard w))

/-- When the port takes a SILK.PUT or SILK.GET (R41, R88): an idle channel, or an instruction that needs none. -/
def bulkRoom (g : GRef) (w x : DWord) (s : State) (v : Group) : Bool :=
  v.active w == 0 || (bulkBad v w).isSome || !s.ceBound (cellRegion g.cell) (fld x 48 4) v.ctx ||
    !((s.ceChan (cellRegion g.cell) (fld x 48 4)).busy || (s.ceChan (cellRegion g.cell) (fld x 48 4)).frozen)

/-- A bulk transfer (R88, R272): its idle bound channel takes it with the local address, the Silk address and the
length from the scalar registers, and the group goes on. -/
def BulkClaim (i : GRef → DWord → DWord → Instr) (opc op : Nat) : Prop :=
  ∀ g w x s v, canIssue s g opc w x (bulkShape w x) noCheck (bulkRoom g w x) = true → s.readyGroup g = some v →
    v.active w ≠ 0 → bulkBad v w = none → s.ceBound (cellRegion g.cell) (fld x 48 4) v.ctx = true →
    Reaches (i g w x) s (fun t => SendFrame s t g ∧ t.mem = s.mem ∧ (∃ u, t.group g = some u ∧ goesOn v u) ∧
      (t.ceChan (cellRegion g.cell) (fld x 48 4)).busy = true ∧
      ∃ f, (t.ceChan (cellRegion g.cell) (fld x 48 4)).xfer = some f ∧ f.op = op ∧ f.ctx = v.ctx ∧ f.job = s.job v.ctx ∧
        f.src = v.spair (iA w) ∧ f.dst = v.spair (iA w) ∧ f.len = (v.sreg (iC w)).toNat ∧
        f.members = [(BitVec.ofNat 16 (fld (v.spair (iB w)) 48 16), BitVec.ofNat 8 (fld (v.spair (iB w)) 40 8))] ∧
        f.roff = BitVec.ofNat 64 (fld (v.spair (iB w)) 0 40) ∧ f.group = some g ∧ f.sent = 0 ∧ f.started = true)

/-- SILK.PUT, SILK.GET (R88) and RTRIG (R89), which sends the 64 bytes of its sixteen scalar registers to the node,
window and handler entry that it names. -/
def Obligations.BulkTransfersAndTriggers : Prop :=
  BulkClaim .silkPut 0xB4 xfPut ∧ BulkClaim .silkGet 0xB5 xfGet ∧
  (∀ g w x s v, canIssue s g 0xB8 w x (((shS (iA w)).and ((shS (iB w) 16).and ((shZ (iC w)).and (shZ (iDst w))))).and
      ((Shape.when (iMod w == 0 && fld x 16 40 == 0)).and (shGuard w))) noCheck
      (fun s v => v.active w == 0 || s.tagsFree (cellRegion g.cell) 1) = true →
    s.readyGroup g = some v → v.active w ≠ 0 →
    Reaches (.rtrig g w x) s (fun t => SendFrame s t g ∧ (∃ u, t.group g = some u ∧ goesOn v u) ∧
      NewReq s t (fun r => r.frame.tx.op = opRtrig ∧ r.frame.tx.dst = BitVec.ofNat 16 (fld (v.sreg (iA w)) 0 16) ∧
        r.frame.tx.window = BitVec.ofNat 8 (fld x 8 8) ∧ r.frame.tx.offset = BitVec.ofNat 40 (fld x 0 8) ∧
        r.waiter = .group g v.gid v.pc ∧
        r.frame.payload = (List.range 16).flatMap (fun i => leBytes 4 (v.sreg (iB w + i)).toNat))))

/-- A matrix or activation instruction enters its group's array queue with its words and the scalar registers it
captures, and the group goes on (R118, R121). -/
def MxClaim (i : GRef → DWord → DWord → Instr) (opc : Nat) (sh : DWord → DWord → Shape)
    (chk : GRef → DWord → DWord → State → Group → Option (BitVec 16)) (caps : DWord → DWord → List (Nat × Nat)) : Prop :=
  ∀ g w x s, canIssue s g opc w x (sh w x) (chk g w x) (fun _ v => decide (v.mxq.length < 4)) = true →
    Issues (i g w x) g s (fun v u => goesOn v u ∧ u.pend = v.pend ∧ u.slots = v.slots ∧
      ∃ e, u.mxq = v.mxq ++ [e] ∧ e.pc = v.pc ∧ e.w = w ∧ e.x = x ∧ e.started = false ∧ e.kdone = 0 ∧
        e.args = (caps w x).flatMap (fun c => (List.range c.2).map (fun j => v.sreg (c.1 + j))))

/-- The matrix and activation instructions but for MX.TAG (R118, R119, R130, R132, Tables 4-3 to 4-6). -/
def ArrayInstructionsQueue : Prop :=
  MxClaim .mxZero 0xC1 (fun w x => mxShape w x 0 0 0 (some false) [] true)
    (fun g w _ => mxCheck g (wSlots w) (basesMeet w (fun _ => true))) (fun _ _ => []) ∧
  MxClaim .mxLoadc 0xC2 (fun w x => mxShape w x 2 1 0 (some true) [(48, 4)] ([0, 2, 5].contains (xFmt x)))
    (fun g w x => mxCheck g (wSlots w) (basesMeet w (fun t => t.int == decide (xFmt x = 5)))) (fun w _ => [(iA w, 2), (iB w, 1)]) ∧
  MxClaim .mxLoad 0xC3 (fun w x => mxShape w x 8 0 0 (some true) [(48, 4), (40, 1), (16, 13)] (!(wfmtsOf (xFmt x)).isEmpty))
    (fun g w x => whenRead [256 + iA w + 3] (fun s v =>
      if fld (v.sreg (iA w + 3)) 13 19 ≠ 0 then some 0x0109
      else mxCheck g (wSlots w) (basesMeet w (passOk (xFmt x) (fld (v.sreg (iA w + 3)) 0 13) (xKoff x))) s v))
    (fun w _ => [(iA w, 8)]) ∧
  MxClaim .mxWcast 0xC4 (fun w x => mxShape w x 8 0 0 none [(48, 4), (44, 2), (40, 1)] (!(wfmtsOf (xFmt x)).isEmpty))
    (fun g w _ => whenRead [256 + iA w + 3] (mxCheck g [] (fun _ v => decide (fld (v.sreg (iA w + 3)) 0 16 ≠ 0)))) (fun w _ => [(iA w, 8)]) ∧
  MxClaim .mxStream 0xC5
    (fun w x => mxShape w x 0 0 0 (some false) [(48, 4), (44, 4), (42, 2), (40, 2), (16, 13), (0, 13)]
      ((wfmtsOf (xFmt x)).contains (xWfmt x) && decide (xRmode x < 2) && !(isInt8 (xFmt x) && decide (xRmode x = 1)) &&
        decide (xK x ≤ 4096)))
    (fun g w x => mxCheck g (wSlots w) (basesMeet w (passOk (xFmt x) (xK x) (xKoff x)))) (fun _ _ => []) ∧
  MxClaim .mxDrain 0xC6
    (fun w x => mxShape w x 2 1 0 (some true) [(48, 4), (40, 2), (37, 3)]
      ([0, 1, 2, 3, 4, 5, 7].contains (xFmt x) && decide (xRmode x < 2) &&
        !(decide (xFmt x = 5 ∨ xFmt x = 7) && decide (xRmode x = 1)) && (!xAcc x || decide (xFmt x = 0 ∨ xFmt x = 2))))
    (fun g w x => mxCheck g (wSlots w) (basesMeet w (fun t => t.int == decide (xFmt x = 5 ∨ xFmt x = 7))))
    (fun w _ => [(iA w, 2), (iB w, 1)]) ∧
  MxClaim .actFwd 0xD0 (fun w x => mxShape w x 0 (if xFmt x = 1 then 1 else 0) 0 (some false) [(48, 4)] (decide (xFmt x ≤ 6)))
    (fun g w _ => mxCheck g (wSlots w) (basesMeet w (fun t => !t.int))) (fun w x => [(iB w, if xFmt x = 1 then 1 else 0)]) ∧
  MxClaim .actBwd 0xD1
    (fun w x => mxShape w x 2 1 (if xFmt x = 1 then 1 else 0) (some true) [(48, 4), (44, 4)]
      (decide (xFmt x ≤ 4) && decide (xWfmt x ≤ 4)))
    (fun g w _ => mxCheck g (wSlots w) (basesMeet w (fun t => !t.int)))
    (fun w x => [(iA w, 2), (iB w, 1), (iC w, if xFmt x = 1 then 1 else 0)])

/-- MX.TAG (R105, R106, R119, R120): it is queued, and from its issue on the covered slots belong to the new problem,
and slots of a problem it overlaps that it does not cover are their own default problem; tags of other slots, the
tags that the array itself holds and the accumulators are as they were. -/
def TagsCountFromIssue : Prop :=
  ∀ g w x s v b, canIssue s g 0xC0 w x (mxShape w x 4 0 0 (some true) [(47, 5), (40, 4), (32, 4)] (tagOk w x))
      (mxCheck g ((wSlots w).flatMap (fun b => (tagOf x []).cover b)) (basesMeet w (fun _ => true))) (fun _ v => decide (v.mxq.length < 4)) = true →
    s.readyGroup g = some v → wSlots w = [b] →
    let new := tagOf x ((List.range 4).map (fun j => v.sreg (iA w + j)))
    let old := (s.cell g.cell).itags
    let gone := (basesOf old g.slot).filter (fun y => ((lookupD {} old y).cover y).any (new.cover b).contains)
    Reaches (.mxTag g w x) s (fun t => SameOutside s t ∧ (∀ h, h ≠ g → t.group h = s.group h) ∧
      (∃ u e, t.group g = some u ∧ goesOn v u ∧ u.mxq = v.mxq ++ [e] ∧ e.w = w ∧ e.x = x ∧ e.started = false ∧
        e.args = (List.range 4).map (fun j => v.sreg (iA w + j))) ∧
      (t.cell g.cell).tags = (s.cell g.cell).tags ∧ (t.cell g.cell).accs = (s.cell g.cell).accs ∧
      (∀ m, m ∈ new.cover b → lookupD {} (t.cell g.cell).itags m =
        { new with owned := true, owner := g.slot, base := decide (m = b), baseSlot := b }) ∧
      (∀ m, m ∉ new.cover b → (∃ y ∈ gone, m ∈ (lookupD {} old y).cover y) →
        lookupD {} (t.cell g.cell).itags m = defaultTag g.slot m) ∧
      (∀ m, m ∉ new.cover b → (∀ y ∈ gone, m ∉ (lookupD {} old y).cover y) →
        lookupD {} (t.cell g.cell).itags m = lookupD {} old m))

/-- What an array instruction does when it issues. -/
def Obligations.ArrayIssue : Prop := ArrayInstructionsQueue ∧ TagsCountFromIssue

/-- MX_ENTRY_START (R112, R121, R132): the group's oldest entry that has not started starts where its engine, its slots
and its channel let it and its engine's round-robin turn has come to it. An entry that reads memory and passes its checks holds the bytes it read; an MX.WCAST
stands last on its channel; nothing else than the entry, held translations, the engine's pointer and the channel
differs. (Reads of units without an uncorrectable error.) -/
def Obligations.ArrayEntriesStart : Prop :=
  (∀ g s v k e, gOk g = true → s.group g = some v → nextEntry v.mxq = some (k, e) → s.mayStart g v e = true → s.startTurn g e.eng = true →
    (e.opc = 0xC0 ∨ e.opc = 0xC1 ∨ e.opc = 0xC5 ∨ e.opc = 0xD0) →
    Reaches (.mxEntryStart g) s (fun t => OnlyGroup s t g ∧
      t.group g = some { v with mxq := v.mxq.set k { e with started := true } })) ∧
  (∀ g s v k e, gOk g = true → s.group g = some v → nextEntry v.mxq = some (k, e) → s.mayStart g v e = true → s.startTurn g e.eng = true → e.opc = 0xC4 →
    Reaches (.mxEntryStart g) s (fun t => SameOutside s t ∧
      t.group g = some { v with mxq := v.mxq.set k { e with started := true } } ∧ (∀ h, h ≠ g → t.group h = s.group h) ∧
      (∀ c, c ≠ fld e.x 44 2 → t.chan (cellBlock g.cell) c = s.chan (cellBlock g.cell) c) ∧
      ∃ w, (t.chan (cellBlock g.cell) (fld e.x 44 2)).q = (s.chan (cellBlock g.cell) (fld e.x 44 2)).q ++ [w] ∧
        w.ctx = v.ctx ∧ w.cell = g.cell % 16 ∧ w.slot = g.slot ∧ w.fmt = fld e.x 48 4 ∧ w.tr = bit e.x 40 ∧ w.granted = 0 ∧
        w.addr.toNat = argPair e 0 ∧ w.stride = (e.args.getD 2 0).toNat ∧ w.kw = fld (e.args.getD 3 0) 0 16 ∧
        w.subs = BitVec.ofNat 16 (fld (e.args.getD 3 0) 16 16) ∧ w.saddr.toNat = argPair e 4)) ∧
  (∀ g s v k e rows b, gOk g = true → s.group g = some v → nextEntry v.mxq = some (k, e) → s.mayStart g v e = true → s.startTurn g e.eng = true →
    (e.opc = 0xC2 ∨ e.opc = 0xC3 ∨ e.opc = 0xD1 ∨ (e.opc = 0xC6 ∧ xAcc e.x = false)) → wSlots e.w = [b] → s.ecc = [] →
    ((s.moveEng g e.eng).entryChecks v (lookupD {} (s.cell g.cell).tags b) e).1 = .ok rows →
    Reaches (.mxEntryStart g) s (fun t => SameOutside s t ∧ (∀ h, h ≠ g → t.group h = s.group h) ∧
      (t.cell g.cell).accs = (s.cell g.cell).accs ∧ (t.cell g.cell).rowBuf = (s.cell g.cell).rowBuf ∧
      ∃ u f, t.group g = some u ∧ u.mxq = v.mxq.set k f ∧ f.started = true ∧ f.pieces = rows ∧ f.w = e.w ∧ f.x = e.x ∧
        u.pc = v.pc ∧ u.st = v.st ∧ u.vregs = v.vregs ∧
        (e.opc = 0xC2 ∨ e.opc = 0xD1 → f.data = rows.flatMap (fun p => s.pieces p)) ∧
        (e.opc = 0xC3 → f.data = (rows.take (loadRows (lookupD {} (s.cell g.cell).tags b) e).length).flatMap (fun p => s.pieces p) ∧
          f.scales = (rows.drop (loadRows (lookupD {} (s.cell g.cell).tags b) e).length).flatMap (fun p => s.pieces p))))

/-- A problem lies within the array (Table 4-2). -/
def fitsArray (b : Nat) (t : Tag) : Bool :=
  decide (b < 8) && decide (slotRow b + (if t.xr then t.cols else t.rows) ≤ 16) &&
  decide (slotCol b + (if t.xr then t.rows else t.cols) ≤ 16)

/-- The accumulator of an output position of a problem (R129). -/
def accAt (c : Cell) (b : Nat) (t : Tag) (i j : Nat) : Acc :=
  lookupD {} c.accs (if t.xr then elemKey b j i else elemKey b i j)

/-- MX_ENTRY_COMPLETE of the entries that move no data to memory (Table 4-4, R104, R109, R120, R129): MX.TAG sets its
problem's tags and zeroes the slots that change hands; MX.ZERO zeroes its problems; MX.LOADC sets every element of
C; MX.LOAD fills the problem's part of the row buffer; MX.STREAM advances KPOS; the entry leaves the queue. -/
def Obligations.ArrayEntriesComplete : Prop :=
  ∀ g k s v e, gOk g = true → s.group g = some v → v.st ≠ .exiting → v.mxq[k]? = some e → s.entryDone v e = true →
    let c := s.cell g.cell
    (e.opc = 0xC0 → ∀ b, wSlots e.w = [b] →
      let r := tagProblem c.tags g.slot b (tagOf e.x e.args)
      Reaches (.mxEntryComplete g k) s (fun t => t.group g = some { v with mxq := v.mxq.eraseIdx k } ∧ t.mem = s.mem ∧
        (t.cell g.cell).tags = r.1 ∧ ∀ i j, i < 16 → j < 16 → lookupD {} (t.cell g.cell).accs (i * 16 + j) =
          if i / 8 * 4 + j / 4 ∈ r.2 then {} else lookupD {} c.accs (i * 16 + j))) ∧
    (e.opc = 0xC1 →
      Reaches (.mxEntryComplete g k) s (fun t => t.group g = some { v with mxq := v.mxq.eraseIdx k } ∧ t.mem = s.mem ∧
        (∀ i j, i < 16 → j < 16 → lookupD {} (t.cell g.cell).accs (i * 16 + j) =
          if (wSlots e.w).any (fun b => ((lookupD {} c.tags b).cover b).contains (i / 8 * 4 + j / 4)) then {} else lookupD {} c.accs (i * 16 + j)) ∧
        (∀ b, lookupD {} (t.cell g.cell).tags b =
          if b ∈ wSlots e.w then { lookupD {} c.tags b with kpos := 0 } else lookupD {} c.tags b))) ∧
    (e.opc = 0xC2 → ∀ b, wSlots e.w = [b] → fitsArray b (lookupD {} c.tags b) = true →
      let p := lookupD {} c.tags b
      let n := outBytes (xFmt e.x)
      Reaches (.mxEntryComplete g k) s (fun t => t.group g = some { v with mxq := v.mxq.eraseIdx k } ∧ t.mem = s.mem ∧
        (∀ i j, i < p.rows → j < p.cols →
          accAt (t.cell g.cell) b p i j = { value := widenC (xFmt e.x) (leAt e.data ((i * p.cols + j) * n) n) }) ∧
        lookupD {} (t.cell g.cell).tags b = { p with kpos := 0 })) ∧
    (e.opc = 0xC3 → ∀ b, wSlots e.w = [b] → xTr e.x = false →
      let p := lookupD {} c.tags b
      let bw := elemBits (xFmt e.x)
      let o := partByte b p + xKoff e.x * bw / 8
      o + loadK e * bw / 8 ≤ 2048 →
      Reaches (.mxEntryComplete g k) s (fun t => t.group g = some { v with mxq := v.mxq.eraseIdx k } ∧ t.mem = s.mem ∧
        (t.cell g.cell).accs = c.accs ∧
        (∀ r i, r < p.rows → i < loadK e * bw / 8 →
          lookupD 0 (t.cell g.cell).rowBuf ((slotRow b + r) * 2048 + o + i) = e.data.getD (r * (loadK e * bw / 8) + i) 0) ∧
        (∀ a, (∀ r, r < p.rows → a < (slotRow b + r) * 2048 + o ∨ (slotRow b + r) * 2048 + o + loadK e * bw / 8 ≤ a) →
          lookupD 0 (t.cell g.cell).rowBuf a = lookupD 0 c.rowBuf a))) ∧
    (e.opc = 0xC5 →
      Reaches (.mxEntryComplete g k) s (fun t => t.group g = some { v with mxq := v.mxq.eraseIdx k } ∧ t.mem = s.mem ∧
        (t.cell g.cell).accs = c.accs ∧
        ∀ b, lookupD {} (t.cell g.cell).tags b =
          if b ∈ wSlots e.w then { lookupD {} c.tags b with kpos := (lookupD {} c.tags b).kpos + BitVec.ofNat 32 e.kdone }
          else lookupD {} c.tags b))

/-- MX_ENTRY_COMPLETE of MX.DRAIN, ACT.FWD and ACT.BWD (R124, R130, R149, R173, R314): a drain without ACC writes its
elements and no other byte, and with CLR its accumulators become zero; a row that meets memory which became another
cocoon's since its check is stored unencrypted; an activation replaces every element of its problem. -/
def Obligations.DrainsAndActivationsComplete : Prop :=
  ∀ g k s v e b, gOk g = true → s.group g = some v → v.st ≠ .exiting → v.mxq[k]? = some e → s.entryDone v e = true →
    b ∈ wSlots e.w → (∀ b' ∈ wSlots e.w, fitsArray b' (lookupD {} (s.cell g.cell).tags b') = true) →
    let c := s.cell g.cell
    let p := lookupD {} c.tags b
    (e.opc = 0xC6 → wSlots e.w = [b] → s.ecc = [] → xAcc e.x = false → p.rows = 1 →
      ∀ pa, e.pieces = [[(pa, p.cols * outBytes (xFmt e.x))]] → s.inMem pa (p.cols * outBytes (xFmt e.x)) = true → s.foreign v.ctx pa = true →
      Reaches (.mxEntryComplete g k) s (fun t => rawBytes t.mem pa (p.cols * outBytes (xFmt e.x)) =
        ((s.drainElems g v.ctx b p e.x).take p.cols).flatMap (fun d => leBytes (outBytes (xFmt e.x)) d.bits))) ∧
    (e.opc = 0xC6 → wSlots e.w = [b] → s.ecc = [] → (∀ q ∈ e.pieces.flatten, s.inMem q.1 q.2 = true ∧ s.foreign v.ctx q.1 = false) →
      let els := s.drainElems g v.ctx b p e.x
      Reaches (.mxEntryComplete g k) s (fun t =>
        (∃ u, t.group g = some u ∧ u.mxq = v.mxq.eraseIdx k ∧ u.pc = v.pc ∧ u.st = v.st ∧ u.vregs = v.vregs ∧
          ∀ i, i < 5 → bit u.flags i = (bit v.flags i || els.any (fun d => d.fl.testBit i))) ∧
        (∀ a, (xAcc e.x = true ∨ ∀ q ∈ e.pieces.flatten, a < q.1 ∨ q.1 + q.2 ≤ a) → t.byte a = s.byte a) ∧
        (∀ r pa n, xAcc e.x = false → r < p.rows → e.pieces[r]? = some [(pa, n)] → n = p.cols * outBytes (xFmt e.x) →
          (∀ r' ps, r' ≠ r → e.pieces[r']? = some ps → ∀ q ∈ ps, q.1 + q.2 ≤ pa ∨ pa + n ≤ q.1) →
          t.bytes pa n = ((els.drop (r * p.cols)).take p.cols).flatMap (fun d => leBytes (outBytes (xFmt e.x)) d.bits)) ∧
        (xClr e.x = false → (t.cell g.cell).accs = c.accs) ∧
        (xClr e.x = true → (∀ i j, i < p.rows → j < p.cols → accAt (t.cell g.cell) b p i j = {}) ∧
          (lookupD {} (t.cell g.cell).tags b).kpos = 0))) ∧
    (e.opc = 0xD0 →
      (∀ b' ∈ wSlots e.w, b' ≠ b → ∀ m ∈ p.cover b, m ∉ (lookupD {} c.tags b').cover b') →
      (∀ b' ∈ wSlots e.w, ∀ o ∈ outputs (lookupD {} c.tags b'),
        (slotRow b' + o.2.2.1) / 8 * 4 + (slotCol b' + o.2.2.2) / 4 ∈ (lookupD {} c.tags b').cover b') →
      Reaches (.mxEntryComplete g k) s (fun t => t.mem = s.mem ∧ (∃ u, t.group g = some u ∧ u.mxq = v.mxq.eraseIdx k ∧ u.pc = v.pc) ∧
        ∀ i j, i < p.rows → j < p.cols → accAt (t.cell g.cell) b p i j =
          { accAt c b p i j with value := (actFwdVal (xFmt e.x) (accAt c b p i j).value (e.args.getD 0 0)).1 })) ∧
    (e.opc = 0xD1 → wSlots e.w = [b] →
      Reaches (.mxEntryComplete g k) s (fun t => t.mem = s.mem ∧ (∃ u, t.group g = some u ∧ u.mxq = v.mxq.eraseIdx k ∧ u.pc = v.pc) ∧
        ∀ i j, i < p.rows → j < p.cols → accAt (t.cell g.cell) b p i j =
          { accAt c b p i j with value := (actBwdVal (xFmt e.x) (accAt c b p i j).value (savedY e p i j) (e.args.getD 3 0)).1 }))

/-- WCAST_BEAT_GRANT and WCAST_STALL (R108, R114, R117): the beat whose round-robin turn it is is read once, advances every subscriber's
STREAM by the positions it carries, which are added into the problems' accumulators in the order of R108, and the
head WCAST moves on; a stalled channel freezes and the block's error unit raises an event. -/
def Obligations.WeightBroadcast : Prop :=
  (∀ b c s w rest rows, b < 640 → c < 4 → (s.chan b c).q = w :: rest → s.grantTurn b = some c → s.ecc = [] →
    ((s.setBlock b { s.block b with grantPtr := c }).checkRows w.ctx .load (wcastAlign w) w.addr.toNat
      (beatRows w ++ beatScales w) (w.tr && isMx w.fmt) 0).1 = .ok rows →
    (w.tr = true → outsideLs (beatRows w) (rows.take (beatRows w).length) = none) →
    Reaches (.wcastBeatGrant b c) s (fun t => t.mem = s.mem ∧ (t.block b).grantPtr = c ∧
      (t.chan b c).q = (if w.granted + 1 < w.beats then { w with granted := w.granted + 1 } :: rest else rest) ∧
      ∀ x ∈ s.subscribers b w, ∀ slot k e v, s.taker (b * 16 + x) c w.ctx = some (slot, k, e) →
        s.group { cell := b * 16 + x, slot := slot } = some v → isMx (xWfmt e.x) = false →
        let n := min (kPerBeat (xWfmt e.x)) (e.need - e.kdone)
        let bs := (rows.take (beatRows w).length).flatMap (fun p => s.pieces p)
        let cols := (List.range 16).map (fun j => beatCol w bs j)
        (∃ u f, t.group { cell := b * 16 + x, slot := slot } = some u ∧ u.mxq = v.mxq.set k f ∧ f.kdone = e.kdone + n ∧ u.pc = v.pc) ∧
        ∃ sc, (t.cell (b * 16 + x)).accs = ((List.range n).foldl (fun z i =>
          streamK z (s.seed w.ctx) e (streamsBefore v.mxq k) (e.kdone + i) i cols sc) (s.cell (b * 16 + x))).accs)) ∧
  (∀ b c s w rest, b < 640 → c < 4 → (s.chan b c).q = w :: rest → s.csrF (oBlk b 0x200) 0 8 ≠ 0 → (s.chan b c).frozen = false → s.ecc = [] →
    s.grantable b c w = false → (∃ x ∈ s.subscribers b w, (s.taker (b * 16 + x) c w.ctx).isSome = true) →
    Reaches (.wcastStall b c) s (fun t => (t.chan b c).frozen = true ∧ (t.block b).err.seq = (s.block b).err.seq + 1))

/-- GROUP_SET_ADMIT (R36–R38, R58, R68): a head set that fits leaves the launch queue, which launches that wait for room
in it fill up to 32, and becomes resident. Group i
goes to cell i mod n of the n cells in service, to a slot that was empty, with the registers of Table 3-3; its
counters are claimed; other groups and memory are as they were. -/
def Obligations.GroupSetsAdmitted : Prop :=
  ∀ b s x rest, b < 640 → (s.block b).launchQ = x :: rest →
    (s.applyMaxGroups b).blockUp b = true → (s.applyMaxGroups b).neverFits b x = false →
    (s.applyMaxGroups b).fitsNow b x = true → s.sideOk x.ctx (blockRegion b) = true → (s.ctx x.ctx).st = 1 → s.host.ctxBusy ≠ some (x.ctx, 7) →
    Reaches (.groupSetAdmit b) s (fun t => t.mem = s.mem ∧ t.host = s.host ∧ t.regions = s.regions ∧
      (t.block b).launchQ = rest ++ (s.block b).arriving.take (32 - rest.length) ∧
      (t.block b).arriving = (s.block b).arriving.drop (32 - rest.length) ∧ ∃ y, (t.block b).sets = (s.block b).sets ++ [y] ∧ y.id = x.id ∧ y.placed.length = x.groups ∧
        y.barIds = (s.freeBars b).take x.bars ∧ y.barIds.length = x.bars ∧
        (∀ n, n ∈ y.barIds → lookupD {} (t.block b).bars n =
          { setId := x.id, expected := x.groups, done := 0, phase := false, inUse := true }) ∧
        (∀ g, (∀ p ∈ y.placed, g ≠ { cell := b * 16 + p.1, slot := p.2 }) → t.group g = s.group g) ∧
        ∀ i, i < x.groups → ∃ c slot v, y.placed[i]? = some (c, slot) ∧
          (s.cellsUp b)[i % (s.cellsUp b).length]? = some c ∧ slot < 16 ∧
          s.group { cell := b * 16 + c, slot := slot } = none ∧ t.group { cell := b * 16 + c, slot := slot } = some v ∧
          v.index = i ∧ v.count = x.groups ∧ v.ctx = x.ctx ∧ v.pc = x.entry ∧ v.st = .running ∧ v.regs = x.regs ∧
          v.slots = x.slots ∧ v.scratchUnits.length = x.scratch ∧ v.scratch = [] ∧ v.flags = 0 ∧
          v.live = 0xFFFFFFFFFFFFFFFF ∧ v.mask = 0xFFFFFFFFFFFFFFFF ∧ v.stack = [] ∧
          (∀ r k, v.vreg r k = 0) ∧ (∀ p, p < 7 → v.pred p = 0) ∧
          v.sreg 0 = BitVec.ofNat 32 i ∧ v.sreg 1 = BitVec.ofNat 32 x.groups ∧ v.sreg 2 = BitVec.ofNat 32 b ∧
          v.sreg 3 = BitVec.ofNat 32 c ∧ v.sreg 4 = BitVec.ofNat 32 slot ∧ v.sreg 5 = BitVec.ofNat 32 x.ctx ∧
          (∀ n, n < x.params.length → v.sreg (8 + n) = x.params.getD n 0))

/-- A byte range shares no byte with another. -/
def apart (a n b m : Nat) : Bool := decide (a + n ≤ b) || decide (b + m ≤ a)

/-- ACC_FOLD_GROUP (R183, R227, R228): the port's next group leaves it, each element of the accumulator becomes the sum
of R183 with the residue's byte beside it, in element order, and no other byte differs. (No byte of the group has become
another cocoon's memory since it was sent, R314.) -/
def Obligations.FoldsApply : Prop :=
  ∀ r s f, r < 8 → s.nextFold (s.region r).accPort [] = some f → s.inMem f.addr 1 = true → s.ecc = [] →
    s.groupTask f.g = none →
    let n := f.vals.length
    (f.bf16 = true → ∀ p, f.resid = some p → apart f.addr (2 * n) p n = true) →
    (∀ a, s.foreign f.ctx a = true →
      apart f.addr ((if f.bf16 then 2 else 4) * n) a 1 = true ∧ ∀ p, f.resid = some p → apart p n a 1 = true) →
    Reaches (.accFoldGroup r .none) s (fun t =>
      (t.region r).accPort = removeFold f (s.region r).accPort ∧ t.host = s.host ∧ t.silk = s.silk ∧
      (∀ g, g ≠ f.g → t.group g = s.group g) ∧
      (∀ i, i < n →
        let v := f.vals.getD i 0
        if f.bf16 then
          let res := match f.resid with | some p => (s.byte (p + i)).toNat | none => 0
          let x := resFold (s.word (f.addr + 2 * i) 2) res (decodeVal bf16 v.toNat)
          t.word (f.addr + 2 * i) 2 = x.1 % 65536 ∧ (∀ p, f.resid = some p → (t.byte (p + i)).toNat = x.2.1 % 256)
        else
          t.word (f.addr + 4 * i) 4 =
            (accAddF { value := BitVec.ofNat 32 (s.word (f.addr + 4 * i) 4) } (f32 v) .near).value.toNat) ∧
      (∀ a, apart f.addr ((if f.bf16 then 2 else 4) * n) a 1 = true → (∀ p, f.resid = some p → apart p n a 1 = true) →
        t.byte a = s.byte a))

/-- The memory unit's own events (R160, R233, R238): a scrub read moves the scrubber on by one word or sector and, of a
sound unit, changes nothing else; a finished invalidation leaves no translation that it names and clears BUSY, be it its
own or that of the UNMAP which waits for it (R316); a
read of an Antenna entry's word 0 latches the entry. -/
def MemoryUnitEvents : Prop :=
  (∀ r hbm o s, r < 8 → o < (if hbm then hbmSize else lsSize) → o % (if hbm then 32 else 8) = 0 →
    s.csrF (oReg r 0x50000) 0 1 = 1 → s.ecc = [] →
    s.inMem ((if hbm then r * hbmSize else lsBase + r * lsSize) + o) (if hbm then 32 else 8) = true →
    let z := if o = 0 then s.applyB (oReg r 0x50000) (if hbm then 0xFF0000 else 0xFF00) else s
    Reaches (.scrubRead r hbm o .none) s (fun t => t = z.setRegion r { s.region r with
      scrubHbm := if hbm then (o + 32) % hbmSize else (s.region r).scrubHbm
      scrubLs := if hbm then (s.region r).scrubLs else (o + 8) % lsSize })) ∧
  (∀ r o k s, r < 8 → o < lsSize → o % 8 = 0 → k < 64 → s.csrF (oReg r 0x50000) 0 1 = 1 → s.ecc = [] →
    s.inMem (lsBase + r * lsSize + o) 8 = true → (s.region r).err.busy = false →
    Reaches (.scrubRead r false o (.flip 0 (BitVec.ofNat 64 (2 ^ k)))) s (fun t => t.mem = s.mem ∧
      (t.region r).eccCorr = satInc (s.region r).eccCorr ∧ (t.region r).scrubLs = (o + 8) % lsSize ∧
      (t.region r).err.seq = (s.region r).err.seq + 1)) ∧
  (∀ s n p k, s.chip.tlbBusy = false → s.sec.unmapping = some (n, p, k) → s.translated n = false →
    Reaches .tlbInvDone s (fun t => t.sec.unmapping = none ∧ t.sec.busy = false ∧ t.sec.result = 0 ∧ t.mem = s.mem ∧ t.cells = s.cells ∧
      ∀ e, e ∈ t.chip.tlb ↔ e ∈ s.chip.tlb ∧ tlbHit n false p k e = false)) ∧
  (∀ s, s.chip.tlbBusy = true → s.sec.unmapping = none → s.translated s.chip.tlbCtx = false →
    Reaches .tlbInvDone s (fun t => t.chip.tlbBusy = false ∧ t.mem = s.mem ∧ t.cells = s.cells ∧
      ∀ e, e ∈ t.chip.tlb ↔ e ∈ s.chip.tlb ∧ tlbHit s.chip.tlbCtx s.chip.tlbAll s.chip.tlbFrom s.chip.tlbPages e = false)) ∧
  (∀ r n s, r < 8 → n < 4096 → s.regionUp r = true →
    Reaches (.antEntryWord0Read r n) s (fun t => t = s.setRegion r { s.region r with
      ant := { (s.region r).ant with shadow := some (n, (s.region r).ant.entry n) } }))

/-- A control space word takes a write (R368, R383). -/
def takesWrite (s : State) (off : Nat) : Bool :=
  !s.boot.inReset && decide (off % 4 = 0) && (match locate off with | some (u, _) => s.unitWrites u | none => false)

/-- Command registers of the memory system (R160, R238, R240, R241, Tables 5-9, 7-12 to 7-17): what each write does,
and that nothing else of the device differs. -/
def MemoryCommandRegisters : Prop :=
  (∀ v s, s.boot.inReset = false → bit v 31 = true → s.chip.tlbBusy = false →
    Reaches (.tlbInvRange v) s (fun t => t.chip.tlbBusy = true ∧ t.chip.tlbAll = false ∧ t.chip.tlbCtx = fld v 0 6 ∧
      t.chip.tlbFrom = s.csrF 0x2400 16 16 + s.csrF 0x2404 0 16 * 65536 ∧
      t.chip.tlbPages = (if fld v 12 16 = 0 then 65536 else fld v 12 16) ∧ t.chip.tlb = s.chip.tlb ∧
      t = { s with chip := t.chip }) ∧
    Reaches (.tlbInvAll v) s (fun t => t.chip.tlbBusy = true ∧ t.chip.tlbAll = true ∧ t.chip.tlbCtx = fld v 0 6 ∧
      t.chip.tlb = s.chip.tlb ∧ t = { s with chip := t.chip })) ∧
  (∀ b v s, b < 640 → takesWrite s (oBlk b 0x304) = true → bit v 0 = true →
    Reaches (.icacheInvalidate b v) s (fun t => t = s.setBlock b { s.block b with icache := [] })) ∧
  (∀ r v s, r < 8 → takesWrite s (oReg r 0x50008) = true → bit v 0 = true →
    Reaches (.memEccClear r v) s (fun t => t = s.setRegion r { s.region r with eccCorr := 0, eccUncorr := 0 })) ∧
  (∀ r v s, r < 8 → takesWrite s (oReg r 0x10004) = true →
    Reaches (.antClearAll r v) s (fun t => (∀ n, (t.region r).ant.entry n = {}) ∧ (t.region r).ant.collisions = 0 ∧
      t = s.setRegion r (t.region r)) ∧
    Reaches (.antClearOne r v) s (fun t => (∀ n, (t.region r).ant.entry n = if n = fld v 16 12 then {} else (s.region r).ant.entry n) ∧
      (t.region r).ant.collisions = (s.region r).ant.collisions ∧ t = s.setRegion r (t.region r)))

/-- The memory units: their events, and the registers that command them. -/
def Obligations.MemoryUnitRows : Prop := MemoryUnitEvents ∧ MemoryCommandRegisters

/-- Writes by field class (R18, R370 to R373): a live field takes its value at once; a boundary field reads as written
and stays in force as it was; a held field takes its value where its unit is idle, and where the unit is busy a
changed value is dropped, counted, and named by CFG_REJECT; a reserved address takes nothing. -/
def RegisterFieldClasses : Prop :=
  (∀ r v s, r < 8 → takesWrite s (oReg r 0x10000) = true →
    Reaches (.registerWrite (oReg r 0x10000) v) s (fun t => t.csrF (oReg r 0x10000) 0 1 = fld v 0 1 ∧ t.csrPend = s.csrPend ∧
      t.regions = s.regions ∧ ∀ o, o ≠ oReg r 0x10000 → t.csrAt o = s.csrAt o)) ∧
  (∀ c v s, c < 10240 → takesWrite s (oCell c 0) = true →
    Reaches (.registerWrite (oCell c 0) v) s (fun t => t.csrF (oCell c 0) 0 1 = fld v 0 1 ∧ t.csrF (oCell c 0) 4 5 = s.csrF (oCell c 0) 4 5 ∧
      fld (t.csrRead (oCell c 0)) 4 5 = fld v 4 5 ∧ ∀ o, o ≠ oCell c 0 → t.csrAt o = s.csrAt o)) ∧
  (∀ n v s, n < 64 → s.boot.inReset = false → s.boundTo n = none →
    (s.rootIdle n = true →
      Reaches (.genWrite n v) s (fun t => fld (t.csrAt (oPtHi n)) 0 16 = fld v 0 16 ∧ fld (t.csrAt (oPtHi n)) 16 8 = fld v 16 8 ∧
        t.chip = s.chip ∧ ∀ o, o ≠ oPtHi n → t.csrAt o = s.csrAt o)) ∧
    (s.rootIdle n = false → fld v 0 16 ≠ fld (s.csrRead (oPtHi n)) 0 16 →
      Reaches (.genWrite n v) s (fun t => fld (t.csrAt (oPtHi n)) 0 16 = fld (s.csrAt (oPtHi n)) 0 16 ∧
        fld (t.csrAt (oPtHi n)) 16 8 = fld v 16 8 ∧ t.chip.rejCount = satInc s.chip.rejCount ∧ t.chip.rejBit = 0 ∧ t.chip.rejAddr = BitVec.ofNat 32 (oPtHi n)))) ∧
  (∀ off v s, locate off = none → exec (.registerWrite off v) s = .next s)

/-- Errors and debug (R366, R394): ERR_CLR empties a unit's first-error capture and counts; HALT halts the groups it
names and releases the others, which then do nothing else; STEP lets a halted group issue once. -/
def ErrorClearsAndDebug : Prop :=
  (∀ u v s, errUnitOk u = true → takesWrite s (errClrOff u) = true → bit v 0 = true →
    Reaches (.errClr u v) s (fun t => t.errUnit u = { s.errUnit u with first := none, overflow := 0, escalated := 0 } ∧
      t.mem = s.mem ∧ t.csr = s.csr ∧ ∀ u', u' ≠ u → t.errUnit u' = s.errUnit u')) ∧
  (∀ c v s slot g, c < 10240 → takesWrite s (oCell c 0x100) = true → slot < 16 → s.group { cell := c, slot := slot } = some g →
    Reaches (.dbgHalt c v) s (fun t => t.group { cell := c, slot := slot } =
        some { g with halted := bit v slot, stepOne := bit v slot && g.halted && g.stepOne } ∧
      t.mem = s.mem ∧ t.regions = s.regions ∧ t.host = s.host) ∧
    Reaches (.dbgStep c v) s (fun t => t.group { cell := c, slot := slot } =
        some { g with halted := bit v slot, stepOne := bit v slot && (bit v (16 + slot) || (g.halted && g.stepOne)) } ∧
      t.mem = s.mem ∧ t.regions = s.regions ∧ t.host = s.host))

/-- Register fields by their class, error clears and debug control. -/
def Obligations.RegisterClasses : Prop := RegisterFieldClasses ∧ ErrorClearsAndDebug

/-- A context command can be accepted: no reset, none in progress (R305). -/
def ctxIdle (s : State) : Bool := !s.boot.inReset && s.host.ctxBusy.isNone

/-- Queues as the unparking of R286 leaves them: each reads its ring afresh. -/
def unparked (l : List Nat) (s : State) : State := l.foldl (fun t q => t.unpark q) s

/-- Activation, time-slicing and purging of contexts (R286, R306, R307, Tables 9-12, 9-18): what each action makes of its slot,
its queues, its groups and its save image when it is accepted. -/
def Obligations.ContextSlots : Prop :=
  (∀ n s, n < 64 → ctxIdle s = true → (s.ctx n).st = 0 → s.cidFree (s.cid n) = true →
    Reaches (.activate n) s (fun t => ∃ x, t = unparked (s.queuesOf (s.cid n)) x ∧ x.ctx n = { st := 1 } ∧
      (∀ m, m ≠ n → x.ctx m = s.ctx m) ∧ x.host.ctxRej = false ∧ x = { s with host := x.host } ∧ x.host.queues = s.host.queues ∧
      x.host.fences = s.host.fences)) ∧
  (∀ n s, n < 64 → ctxIdle s = true → (s.ctx n).st = 1 → s.saveOk n s.saveAddr 64 = true →
    Reaches (.suspend n) s (fun t => t.host.ctxBusy = some (n, 7) ∧ (t.ctx n).st = 1 ∧ t.mem = s.mem ∧ t.cells = s.cells ∧
      t.blocks = s.blocks ∧ t.regions = s.regions ∧
      (∀ q, t.queue q = if q ∈ s.queuesOf (s.cid n) then { s.queue q with parked := true } else s.queue q) ∧
      ∃ i, (t.ctx n).image = some i.id ∧ t.host.images = i :: s.host.images ∧ i.addr = s.saveAddr ∧ i.valid = false)) ∧
  (∀ n s i0, n < 64 → s.host.ctxBusy = some (n, 7) → (s.ctx n).st = 1 → s.ctxWork n = false → (∀ c ∈ s.started n, c.result = none) → s.ecc = [] →
    s.host.images.find? (fun i => decide (some i.id = (s.ctx n).image)) = some i0 →
    let b := s.imageBytes n (s.captureImage n i0.id i0.addr)
    b.2.saveOk n i0.addr b.1.length = true →
    Reaches (.suspendComplete n) s (fun t => (t.ctx n).st = 3 ∧ t.host.ctxBusy = none ∧
      (∀ g v, t.group g = some v → v.ctx ≠ n) ∧ (∀ g v, s.group g = some v → v.ctx ≠ n → t.group g = some v) ∧
      t.bytes i0.addr b.1.length = b.1 ∧ b.1.take 2 = leBytes 2 1 ∧
      (∀ a, a < i0.addr ∨ i0.addr + b.1.length ≤ a → t.byte a = s.byte a))) ∧
  (∀ n s i, n < 64 → ctxIdle s = true → (s.ctx n).st = 3 → (∀ w ∈ s.winsOf n, s.csrF (oJwin w 0) 0 1 = 0) → s.ecc = [] →
    s.host.images.find? (fun i => decide (some i.id = (s.ctx n).image)) = some i →
    Reaches (.evict n) s (fun t => t.ctx n = {} ∧ t.cells = s.cells ∧ t.blocks = s.blocks ∧ t.csr = s.csr ∧
      (∀ a, a < i.addr + 64 ∨ i.addr + 128 ≤ a → t.byte a = s.byte a) ∧
      ∃ j, j ∈ t.host.images ∧ j.id = i.id ∧ j.evicted = true ∧ j.slotRegs = (slotOffsets n).map (fun o => s.csrAt o))) ∧
  (∀ n s i, n < 64 → ctxIdle s = true → s.imageHere = some i → s.resumeOk n i = true →
    ((i.sets.flatMap (fun x => x.groups.map (fun z => (x.block * 16 + z.1, z.2.1)))).Nodup) →
    (∀ x ∈ i.sets, x.gset.placed ≠ [] ∨ x.groups = []) →
    Reaches (.resume n) s (fun t => ∃ x, t = unparked (s.queuesOf i.cid) x ∧ (x.ctx n).st = 1 ∧ x.mem = s.mem ∧
      (∀ m, m ≠ n → x.ctx m = s.ctx m) ∧ (∀ j ∈ x.host.images, j.id ≠ i.id) ∧
      (∀ y ∈ i.sets, ∀ z ∈ y.groups, ∃ u, x.group { cell := y.block * 16 + z.1, slot := z.2.1 } = some u ∧ u.ctx = n ∧
        u.pc = z.2.2.pc ∧ u.st = z.2.2.st ∧ u.vregs = z.2.2.vregs ∧ u.sregs = z.2.2.sregs ∧ u.preds = z.2.2.preds ∧
        u.scratch = z.2.2.scratch ∧ u.mxq = z.2.2.mxq))) ∧
  (∀ n s, n < 64 → ctxIdle s = true → (s.ctx n).st = 0 → s.cidFree (s.cid n) = true →
    Reaches (.purge n) s (fun t => (t.ctx n).st = 0 ∧ (∀ q ∈ s.queuesOf (s.cid n), t.qEnabled q = false) ∧
      (∀ f, (s.fence f).owner = s.cid n → (t.fence f).value = (s.fence f).value ∧
        (t.fence f).st = if (s.fence f).st = 1 ∨ (s.fence f).st = 2 then 3 else (s.fence f).st) ∧
      (∀ j ∈ t.host.images, j.cid = s.cid n → j.valid = false) ∧
      (s.queuesOf (s.cid n) = [] → t.ctx n = s.ctx n ∧ t.cells = s.cells ∧ t.blocks = s.blocks ∧ t.regions = s.regions ∧ t.mem = s.mem ∧
        ∀ f, (s.fence f).owner ≠ s.cid n → t.fence f = s.fence f)))

/-- Teardown (R302, R305, Table 9-11): FREEZE, DISCARD, DRAIN and its end, ABANDON and FREE take a context through the
phases frozen, discarded, drained, abandoned and, invalidated, to a free slot; a step out of order is rejected
and changes no phase. -/
def Obligations.ContextTeardown : Prop :=
  (∀ n s, n < 64 → ctxIdle s = true → (s.ctx n).st ≠ 0 →
    Reaches (.freeze n) s (fun t => (t.ctx n).st = 2 ∧ (t.ctx n).phase = 1 ∧ (t.ctx n).noSignal = true ∧
      (t.ctx n).cause = (if (s.ctx n).st = 2 then (s.ctx n).cause else 6) ∧ t.mem = s.mem ∧
      (∀ q ∈ s.queuesOf (s.cid n), (t.queue q).frozen = true) ∧
      (∀ g v, s.group g = some v → v.ctx = n → ∃ u, t.group g = some u ∧ u.st = .frozen ∧
        u.pc = (if v.st = .frozen then v.pc else v.unissued)) ∧
      (∀ g v, s.group g = some v → v.ctx ≠ n → t.group g = some v))) ∧
  (∀ n s, n < 64 → ctxIdle s = true → s.inPhase n 1 = true →
    Reaches (.discard n) s (fun t => s.cid n = t.cid n ∧ t.inPhase n 2 = true ∧
      (∀ q ∈ s.queuesOf (s.cid n), (t.queue q).head = (t.queue q).tail ∧ (t.queue q).tail = (s.queue q).tail) ∧
      (∀ b, ∀ x ∈ (t.block b).launchQ ++ (t.block b).arriving, x.ctx ≠ n) ∧
      ((∀ q ∈ s.queuesOf (s.cid n), (s.queue q).head = (s.queue q).tail) → t.mem = s.mem ∧ ∀ g, t.group g = s.group g))) ∧
  (∀ n s, n < 64 → ctxIdle s = true → s.inPhase n 2 = true →
    Reaches (.drain n) s (fun t => t.host.ctxBusy = some (n, 4) ∧ t.ctx n = s.ctx n ∧ t.mem = s.mem ∧ t.cells = s.cells ∧
      ∀ w, w < 256 → t.csrF (oJwin w 0) 0 1 = if s.csrF (oJwin w 0) 2 6 = n then 0 else s.csrF (oJwin w 0) 0 1)) ∧
  (∀ n s, n < 64 → s.host.ctxBusy = some (n, 4) → s.ctxWork n = false → s.started n = [] → (∀ w ∈ s.winsOf n, s.jwinInUse w = false) →
    Reaches (.drainComplete n) s (fun t => t.host.ctxBusy = none ∧ t.ctx n = { s.ctx n with phase := 3 } ∧
      t = { s with host := t.host })) ∧
  (∀ n s, n < 64 → ctxIdle s = true → s.inPhase n 3 = true →
    Reaches (.abandon n) s (fun t => t.inPhase n 4 = true ∧ t.mem = s.mem ∧ t.cells = s.cells ∧
      ∀ f, (t.fence f).value = (s.fence f).value ∧ (t.fence f).owner = (s.fence f).owner ∧ (t.fence f).st =
        if (s.fence f).owner = s.cid n ∧ ((s.fence f).st = 1 ∨ (s.fence f).st = 2) then 3 else (s.fence f).st)) ∧
  (∀ n s, n < 64 → ctxIdle s = true → s.inPhase n 5 = true → (∀ c, s.boundTo n = some c → (s.cocoon c).st ≠ 2) →
    Reaches (.free n) s (fun t => t.ctx n = {} ∧ t.boundTo n = none ∧ t.mem = s.mem ∧
      (∀ q ∈ s.queuesOf (s.cid n), t.qEnabled q = false) ∧
      (∀ g v, t.group g = some v → v.ctx ≠ n) ∧ (∀ g v, s.group g = some v → v.ctx ≠ n → t.group g = some v))) ∧
  (∀ n s, n < 64 → ctxIdle s = true → s.inPhase n 1 = false → exec (.discard n) s = .next s.rejectCtx) ∧
  (∀ n s, n < 64 → ctxIdle s = true → s.inPhase n 2 = false → exec (.drain n) s = .next s.rejectCtx) ∧
  (∀ n s, n < 64 → ctxIdle s = true → s.inPhase n 3 = false → exec (.abandon n) s = .next s.rejectCtx) ∧
  (∀ n s, n < 64 → ctxIdle s = true → s.inPhase n 5 = false → exec (.free n) s = .next s.rejectCtx)

/-- Fences (R298 to R301, Table 9-10): ALLOC makes a free fence live with its value and owner; SIGNAL raises a live fence's
value to the maximum and never lowers it; FREE frees one that no wait holds; anything else is rejected. -/
def FenceCommands : Prop :=
  (∀ f cid s, f < 16384 → s.boot.inReset = false →
    let arg : BitVec 48 := BitVec.ofNat 48 (s.csrF (oHost 0x3004) 0 32 + s.csrF (oHost 0x3008) 0 16 * two32)
    ((s.fence f).st = 0 →
      Reaches (.fenceAlloc f cid) s (fun t => t.fence f = { value := arg, st := 1, owner := cid } ∧ t.host.fenceRej = false ∧
        (∀ g, g ≠ f → t.fence g = s.fence g) ∧ t.csrF (oFence f 8) 16 1 = 0 ∧ t.mem = s.mem)) ∧
    ((s.fence f).st = 1 →
      Reaches (.fenceSignal f cid) s (fun t => (t.fence f).st = 1 ∧ (t.fence f).owner = (s.fence f).owner ∧
        (t.fence f).value.toNat = max (s.fence f).value.toNat arg.toNat ∧ (∀ g, g ≠ f → t.fence g = s.fence g) ∧ t.mem = s.mem)) ∧
    ((s.fence f).st ≠ 0 → (s.fence f).waiters = 0 →
      Reaches (.fenceFree f cid) s (fun t => (t.fence f).st = 0 ∧ (∀ g, g ≠ f → t.fence g = s.fence g) ∧ t.mem = s.mem)) ∧
    ((s.fence f).st ≠ 0 → exec (.fenceAlloc f cid) s = .next s.rejectFence) ∧
    ((s.fence f).st ≠ 1 → exec (.fenceSignal f cid) s = .next s.rejectFence) ∧
    ((s.fence f).st = 0 ∨ (s.fence f).waiters ≠ 0 → exec (.fenceFree f cid) s = .next s.rejectFence))

/-- A waiting FENCE_WAIT ends when its fence reaches the value, and lets its queue go on (R300). -/
def SignalReleasesWaits : Prop :=
  ∀ f cid s q c, f < 16384 → s.boot.inReset = false → (s.fence f).st = 1 → s.host.queues = [(q, s.queue q)] →
    (s.queue q).running = [c] → waitsOn f c = true → s.csrF (oFence f 8) 16 1 = 0 →
    let arg : BitVec 48 := BitVec.ofNat 48 (s.csrF (oHost 0x3004) 0 32 + s.csrF (oHost 0x3008) 0 16 * two32)
    (s.fence f).value.toNat < arg.toNat → leAt c.bytes 24 6 ≤ arg.toNat →
    Reaches (.fenceSignal f cid) s (fun t => (t.queue q).running = [{ c with result := some (stOk, 0) }] ∧
      (t.queue q).waiting = false ∧ (t.queue q).stopped = (s.queue q).stopped ∧ (t.fence f).waiters = (s.fence f).waiters - 1)

/-- Host fences, and the waits that a signal releases. -/
def Obligations.FencesAndSignals : Prop := FenceCommands ∧ SignalReleasesWaits

/-- A started command whose work can begin: its ring index, its opcode, all before it in its queue begun, and the
queue not parked (R294, R307). -/
def cmdWaits (s : State) (q k opc : Nat) (c : Cmd) : Bool :=
  decide (q < 1024) && !(s.queue q).parked && decide (s.cmd q k = some c) && !c.begun && c.result.isNone && decide (leAt c.bytes 0 1 = opc) &&
  earlierBegun k (s.queue q).running

/-- The command has begun its work, with a result or still without one. -/
def cmdHas (t : State) (q k : Nat) (c : Cmd) (r : Option (BitVec 16 × BitVec 8)) : Prop :=
  t.cmd q k = some { c with begun := true, result := r }

/-- COMMAND_START (R290, R294, R295, R299, R300): the one queue that may start takes the command at its HEAD, gives it the
status that its encoding or its SIGNAL calls for, holds on a FENCE_WAIT, which its fence counts, and writes the new HEAD
to its ring. -/
def CommandsStart : Prop :=
  ∀ s s0 q n b t0 pa, s.ecc = [] → s0 = s.host.queues.foldl (fun t q => t.applyB (oQ q.1 0) 0x6) s →
    (∀ p, p < 4 → s0.readyQueues p = if p = s0.csrF (oQ q 0) 1 2 then [q] else []) →
    s0.qCtx q = some n → s0.fetchCmd q n = .ok (some b, t0) → t0.startable q b = true →
    let u := t0.queue q
    let c : Cmd := { k := u.head.toNat, ctx := n, bytes := b, begun := false, result := (t0.startCheck q b u.head.toNat).map (fun st => (st, 0)) }
    let u' := { u with
      head := u.head + (if leAt b 1 1 / 2 % 2 = 1 then 2 else 1), running := u.running ++ [c]
      stopped := u.stopped || decide (t0.startCheck q b u.head.toNat = some stBadFence), waiting := u.waiting || c.holds }
    let t1 := { t0 with host := { t0.host with lastQueue := insertD 1023 t0.host.lastQueue (s0.csrF (oQ q 0) 1 2) q } }.setQueue q u'
    let f := leAt b 16 2
    let t2 := if c.holds then t1.setFence f { t1.fence f with waiters := (t1.fence f).waiters + 1 } else t1
    (t2.range n (t2.qRing q + 64) 8 .store).1 = .ok [(pa, 8)] →
    Reaches .commandStart s (fun t => t.queue q = u' ∧ (∀ q', q' ≠ q → t.queue q' = s.queue q') ∧
      t.bytes pa 8 = leBytes 8 u'.head.toNat ∧ (∀ a, a < pa ∨ pa + 8 ≤ a → t.byte a = s.byte a) ∧ t.cells = s.cells ∧
      t.host.fences = t2.host.fences)

/-- NOP, LAUNCH and FENCE_WAIT (R36, R37, R295, R296, R300, Table 9-7): a NOP ends with OK; a LAUNCH that a block can take
stands last in its launch queue, or behind it while that is full, with its declaration; a FENCE_WAIT whose fence has not
reached the value goes on holding its queue, and one whose fence has ends with OK and lets it go. -/
def Obligations.LaunchAndFenceWait : Prop :=
  (∀ q k c s, cmdWaits s q k 0 c = true → Reaches (.nopCommand q k) s (fun t => cmdHas t q k c (some (stOk, 0)) ∧
    t = { s with host := { s.host with queues := t.host.queues } } ∧ ∀ q', q' ≠ q → t.queue q' = s.queue q')) ∧
  (∀ q k c s va, cmdWaits s q k 1 c = true →
    let b := launchBlock c.bytes
    (s.ctx c.ctx).st = 1 → declOk c.bytes = true → s.blockUp b = true → s.sideOk c.ctx (blockRegion b) = true →
    (s.resolve c.ctx (.queue q) (BitVec.ofNat 64 (leAt c.bytes 16 8)) 8).1 = .ok va →
    let x := launchSet c.bytes s.nextId c.ctx (s.cid c.ctx) (.command q k) (BitVec.ofNat 64 va) 0
    (s.neverFits b x = false → Reaches (.launch q k) s (fun t => cmdHas t q k c none ∧ t.mem = s.mem ∧ t.cells = s.cells ∧
      (t.block b).launchQ ++ (t.block b).arriving = (s.block b).launchQ ++ (s.block b).arriving ++ [x] ∧
      ((s.block b).launchQ.length < 32 → (s.block b).arriving = [] → (t.block b).launchQ = (s.block b).launchQ ++ [x]) ∧ x.groups = leAt c.bytes 26 2 ∧ x.regs = leAt c.bytes 28 1 ∧
      x.scratch = leAt c.bytes 29 1 ∧ x.slots = BitVec.ofNat 8 (leAt c.bytes 30 1) ∧ x.bars = leAt c.bytes 31 1 ∧
      ∀ b', b' ≠ b → t.block b' = s.block b')) ∧
    (s.neverFits b x = true → Reaches (.launch q k) s (fun t => cmdHas t q k c (some (stNoFit, 0)) ∧ t.blocks = s.blocks ∧ t.mem = s.mem))) ∧
  (∀ q k c s, cmdWaits s q k 1 c = true → (s.ctx c.ctx).st = 1 → declOk c.bytes = false →
    Reaches (.launch q k) s (fun t => cmdHas t q k c (some (stBadDecl, 0)) ∧ t.blocks = s.blocks ∧ t.mem = s.mem)) ∧
  (∀ q k c s, cmdWaits s q k 2 c = true →
    let f := leAt c.bytes 16 2
    (fenceVerdict (s.fence f) c = none → Reaches (.fenceWait q k) s (fun t => cmdHas t q k c none ∧
      (t.queue q).waiting = (s.queue q).waiting ∧ (t.queue q).stopped = (s.queue q).stopped ∧
      t = { s with host := { s.host with queues := t.host.queues } } ∧ ∀ q', q' ≠ q → t.queue q' = s.queue q')) ∧
    (∀ st, fenceVerdict (s.fence f) c = some st → Reaches (.fenceWait q k) s (fun t => cmdHas t q k c (some (st, 0)) ∧
      (t.queue q).waiting = false ∧ (t.queue q).stopped = ((s.queue q).stopped || decide (st ≠ stOk)) ∧
      t.fence f = { s.fence f with waiters := (s.fence f).waiters - 1 } ∧ (∀ g, g ≠ f → t.fence g = s.fence g) ∧
      t = { s with host := t.host } ∧ ∀ q', q' ≠ q → t.queue q' = s.queue q')))

/-- A block's DMA engine can work for a command's context (R295, R296, R345). -/
def dmaReady (s : State) (c : Cmd) (len : Nat) : Bool :=
  let b := leAt c.bytes 40 2
  decide (len % 32 = 0) && decide (b < 640) && s.regionUp (blockRegion b) && !(s.block b).fenced && !(s.block b).dmaFrozen &&
  s.sideOk c.ctx (blockRegion b)

/-- COPY and FILL (Table 9-7): a transfer whose beats all succeed ends with OK, and one of 32 bytes writes the bytes it
reads, or the pattern, and no others. -/
def BlockTransfers : Prop :=
  (∀ q k c s n sa da, cmdWaits s q k 3 c = true → dmaReady s c (32 * n) = true → leAt c.bytes 32 8 = 32 * n →
    (s.resolve c.ctx (.queue q) (BitVec.ofNat 64 (leAt c.bytes 16 8)) (32 * n)).1 = .ok sa → s.upperBad c.ctx sa (32 * n) = false →
    (s.resolve c.ctx (.queue q) (BitVec.ofNat 64 (leAt c.bytes 24 8)) (32 * n)).1 = .ok da → s.upperBad c.ctx da (32 * n) = false →
    let b := leAt c.bytes 40 2
    (((s.begin q k).dmaBeats c.ctx b [] n (some sa) da).2 = none →
      exec (.copy q k) s = .next (((s.begin q k).dmaBeats c.ctx b [] n (some sa) da).1.cmdResult q k stOk 0)) ∧
    (∀ pa pb, n = 1 → s.ecc = [] → (s.range c.ctx sa 32 .load).1 = .ok [(pa, 32)] →
      ((s.range c.ctx sa 32 .load).2.range c.ctx da 32 .store).1 = .ok [(pb, 32)] →
      Reaches (.copy q k) s (fun t => cmdHas t q k c (some (stOk, 0)) ∧ t.bytes pb 32 = s.bytes pa 32 ∧ t.cells = s.cells ∧
        ∀ a, a < pb ∨ pb + 32 ≤ a → t.byte a = s.byte a))) ∧
  (∀ q k c s n da, cmdWaits s q k 4 c = true → dmaReady s c (32 * n) = true → leAt c.bytes 24 8 = 32 * n →
    (s.resolve c.ctx (.queue q) (BitVec.ofNat 64 (leAt c.bytes 16 8)) (32 * n)).1 = .ok da → s.upperBad c.ctx da (32 * n) = false →
    let b := leAt c.bytes 40 2
    let pat := (List.range 8).flatMap (fun _ => slice c.bytes 32 4)
    (((s.begin q k).dmaBeats c.ctx b pat n none da).2 = none →
      exec (.fill q k) s = .next (((s.begin q k).dmaBeats c.ctx b pat n none da).1.cmdResult q k stOk 0)) ∧
    (∀ pb, n = 1 → s.ecc = [] → pat.length = 32 → (s.range c.ctx da 32 .store).1 = .ok [(pb, 32)] →
      Reaches (.fill q k) s (fun t => cmdHas t q k c (some (stOk, 0)) ∧ t.bytes pb 32 = pat ∧ t.cells = s.cells ∧
        ∀ a, a < pb ∨ pb + 32 ≤ a → t.byte a = s.byte a)))

/-- MEASURE (R304): opening sets the windows of the named blocks for the context, each counter cleared where bit 1 of
byte 20 is set; closing closes them, and with a dump address writes their counters in block order; a window of
another context ends either with MEASURE_BUSY. -/
def MeasurementWindows : Prop :=
  (∀ q k c s, cmdWaits s q k 9 c = true → leAt c.bytes 20 1 % 2 = 1 → measureBad c.bytes = false →
    let l := measureBlocks c.bytes
    let a := BitVec.ofNat 64 (leAt c.bytes 32 8)
    let cap := leAt c.bytes 40 4
    (l.any (fun b => (s.block b).win.opened && decide ((s.block b).win.ctx ≠ c.ctx)) = true →
      Reaches (.measureOpen q k) s (fun t => cmdHas t q k c (some (stMeasureBusy, 0)) ∧ t.blocks = s.blocks ∧ t.mem = s.mem)) ∧
    (l.any (fun b => (s.block b).win.opened && decide ((s.block b).win.ctx ≠ c.ctx)) = false →
      ∀ va, (a = 0 ∧ va = 0 ∨ a ≠ 0 ∧ (s.resolve c.ctx (.queue q) a (16 * cap * l.length)).1 = .ok va ∧
        s.upperBad c.ctx va (16 * cap * l.length) = false) →
      Reaches (.measureOpen q k) s (fun t => cmdHas t q k c (some (stOk, 0)) ∧ t.mem = s.mem ∧ t.cells = s.cells ∧
        (∀ b, b ∉ l → t.block b = s.block b) ∧
        (∀ j b, l[j]? = some b → (t.block b).win = { (s.block b).win with
          opened := true, ctx := c.ctx, counter := if leAt c.bytes 20 1 / 2 % 2 = 1 then 0 else (s.block b).win.counter
          steps := 0, latches := [], logAddr := BitVec.ofNat 64 va, logCap := if a = 0 then 0 else cap, logIdx := j, logN := 0 })))) ∧
  (∀ q k c s, cmdWaits s q k 9 c = true → leAt c.bytes 20 1 % 2 = 0 → measureBad c.bytes = false → s.ecc = [] →
    let l := measureBlocks c.bytes
    let a := BitVec.ofNat 64 (leAt c.bytes 24 8)
    (∀ b ∈ l, (s.block b).win.opened = true ∧ (s.block b).win.ctx = c.ctx) →
    (a = 0 → Reaches (.measureClose q k) s (fun t => cmdHas t q k c (some (stOk, 0)) ∧ t.mem = s.mem ∧
      (∀ b, (t.block b).win.opened = if b ∈ l then false else (s.block b).win.opened))) ∧
    (∀ va pa, a ≠ 0 → (s.resolve c.ctx (.queue q) a (8 * l.length)).1 = .ok va → s.upperBad c.ctx va (8 * l.length) = false →
      ((s.closeWindows l).2.range c.ctx va (8 * l.length) .store).1 = .ok [(pa, 8 * l.length)] →
      Reaches (.measureClose q k) s (fun t => cmdHas t q k c (some (stOk, 0)) ∧
        (∀ b, (t.block b).win.opened = if b ∈ l then false else (s.block b).win.opened) ∧
        t.bytes pa (8 * l.length) = (s.closeWindows l).1.flatMap (fun v => leBytes 8 v.toNat) ∧
        ∀ x, x < pa ∨ pa + 8 * l.length ≤ x → t.byte x = s.byte x)))

/-- Block transfers of the DMA engines, and measurement windows. -/
def Obligations.CopiesAndWindows : Prop := BlockTransfers ∧ MeasurementWindows

/-- COMMAND_COMPLETE (R295, R297, R299): a command with a result leaves its queue, its status word is written, its sequence number
becomes the queue's last, and its SIGNAL raises the fence it names unless the status is BAD_CMD. -/
def CommandsComplete : Prop :=
  ∀ q k c r s pa, q < 1024 → s.cmd q k = some c → c.result = some r → (s.ctx c.ctx).st ≠ 2 → (s.ctx c.ctx).noSignal = false →
    s.mayComplete q = true → s.ecc = [] → (s.range c.ctx (s.qEntry q k + 56) 8 .store).1 = .ok [(pa, 8)] →
    Reaches (.commandComplete q k) s (fun t => t.cmd q k = none ∧ (t.queue q).lastSeq = BitVec.ofNat 16 (leAt c.bytes 2 2) ∧
      t.bytes pa 8 = statusWord r.1 r.2 (leAt c.bytes 2 2) ∧ (∀ a, a < pa ∨ pa + 8 ≤ a → t.byte a = s.byte a) ∧ t.cells = s.cells ∧
      let sig := cmdSignal c.bytes
      let f := fld sig 0 14
      (r.1 = stBadCmd ∨ bit sig 15 = false ∨ (s.fence f).owner ≠ s.qCid q ∨ (s.fence f).st ≠ 1 → t.host.fences = s.host.fences) ∧
      (r.1 ≠ stBadCmd → bit sig 15 = true → (s.fence f).owner = s.qCid q → (s.fence f).st = 1 →
        (t.fence f).value.toNat = max (s.fence f).value.toNat (fld sig 16 48) ∧ ∀ g, g ≠ f → t.fence g = s.fence g))

/-- Queue registers (R286, R290, R300, Table 9-19): RESUME ends the stopped state; enabling a queue of an active context sets HEAD
to 0 and writes it to the ring; disabling it leaves it with no command. -/
def QueueCommands : Prop :=
  (∀ q v s, q < 1024 → s.boot.inReset = false → fld v 0 1 = s.csrF (oQ q 0) 0 1 → fld v 16 16 = (s.qCid q).toNat →
    Reaches (.queueResume q v) s (fun t => t.queue q = { s.queue q with stopped := false } ∧ (∀ p, p ≠ q → t.queue p = s.queue p) ∧
      t.mem = s.mem ∧ t.host.fences = s.host.fences ∧ t.cells = s.cells)) ∧
  (∀ q v s n, q < 1024 → s.boot.inReset = false → s.csrF (oQ q 0) 0 1 = 0 → bit v 0 = true → bit v 3 = false →
    s.ctxOfCid (BitVec.ofNat 16 (fld v 16 16)) = some n → (s.ctx n).st = 1 →
    Reaches (.queueEnable q v) s (fun t => t.qEnabled q = true ∧ t.qCtx q = some n ∧
      t.queue q = { lastSeq := (s.queue q).lastSeq, parked := false } ∧ t.cells = s.cells ∧ (∀ p, p ≠ q → t.queue p = s.queue p) ∧
      ∃ x : State, x.mem = s.mem ∧ x.queue q = t.queue q ∧ t = x.writeHead q n)) ∧
  (∀ q v s, q < 1024 → s.boot.inReset = false → s.csrF (oQ q 0) 0 1 = 1 → bit v 0 = false → bit v 3 = false →
    fld v 16 16 = (s.qCid q).toNat →
    Reaches (.queueEnable q v) s (fun t => t.qEnabled q = false ∧ (t.queue q).running = [] ∧ (t.queue q).head = (t.queue q).tail ∧
      t.cells = s.cells ∧ (∀ p, p ≠ q → t.queue p = s.queue p)))

/-- Queue commands start, complete, and their queues are commanded. -/
def Obligations.CommandsRun : Prop := CommandsStart ∧ CommandsComplete ∧ QueueCommands

/-- The security engine can take a descriptor's command: idle, the descriptor readable, sound and its own (R313). -/
def secReady (s : State) (cmd : Nat) (d : List Byte) : Bool :=
  !s.sec.busy && s.sec.unsealing.isNone && s.ecc.isEmpty && decide (s.secDesc = some d) && decide (leAt d 0 1 = cmd) && secDescOk d

/-- The security engine's last command ended with OK. -/
def secOk (t : State) : Prop := t.sec.busy = false ∧ t.sec.result = 0 ∧ t.sec.detail = 0

/-- CREATE, BIND, MAP and UNMAP (R314 to R316): an idle set of regions becomes an active cocoon with a fresh key; a free slot is
bound to it and its root table lies in the Monarch area; lower-half pages are mapped, and unmapped with the held
translations of their range, at once or, while accesses of the context that have translated are under way, at the end of
the invalidation (R238). Nothing but what each names differs. -/
def CocoonCommands : Prop :=
  (∀ s d, secReady s 1 d = true → (s.cocoon (leAt d 1 1)).st = 0 → maskBits 8 (leAt d 2 1) ≠ [] →
    (∀ r ∈ maskBits 8 (leAt d 2 1), s.regionUp r = true ∧ s.cocoonOf r = none ∧ s.regionIdle r = true) →
    Reaches .create s (fun t => secOk t ∧ t = { s with sec := t.sec } ∧
      t.cocoon (leAt d 1 1) = { st := 1, regions := BitVec.ofNat 8 (leAt d 2 1), key := Config.randomKey s.sec.draws } ∧
      t.sec.draws = s.sec.draws + 1 ∧ ∀ c, c ≠ leAt d 1 1 → t.cocoon c = s.cocoon c)) ∧
  (∀ s d, secReady s 2 d = true → (s.cocoon (leAt d 1 1)).st = 1 → (s.ctx (leAt d 3 1)).st = 0 → s.boundTo (leAt d 3 1) = none →
    let n := leAt d 3 1
    let area := (s.cocoon (leAt d 1 1)).monarchArea
    Reaches .bind s (fun t => secOk t ∧ t.boundTo n = some (leAt d 1 1) ∧ (∀ m, m ≠ n → t.boundTo m = s.boundTo m) ∧ t.mem = s.mem ∧
      t.host = s.host ∧ (∀ c, t.cocoon c = s.cocoon c) ∧
      ∃ root, fld (t.csrAt (oPtLo n)) 12 20 * 4096 + fld (t.csrAt (oPtHi n)) 0 16 * 2 ^ 32 = root ∧ area ≤ root ∧ root < area + 0x10000000)) ∧
  (∀ s d, secReady s 3 d = true → (s.cocoon (leAt d 1 1)).st = 1 → s.boundTo (leAt d 3 1) = some (leAt d 1 1) →
    (∀ i, i < leAt d 24 4 → s.mapTarget (leAt d 16 8 + 65536 * i) = true) →
    s.sec.lower.any (inPages (leAt d 3 1) (leAt d 8 8 / 65536) (leAt d 24 4)) = false →
    Reaches .map s (fun t => secOk t ∧ t = { s with sec := t.sec } ∧ t.sec.bound = s.sec.bound ∧ t.sec.cocoons = s.sec.cocoons ∧
      t.sec.lower = s.sec.lower ++ (List.range (leAt d 24 4)).map (fun i => (leAt d 3 1,
        { vpage := leAt d 8 8 / 65536 + i, pa := leAt d 16 8 + 65536 * i, r := decide (leAt d 28 1 % 2 = 1)
          w := decide (leAt d 28 1 / 2 % 2 = 1), x := false, nc := decide (leAt d 28 1 / 4 % 2 = 1) })))) ∧
  (∀ s d, secReady s 4 d = true → (s.cocoon (leAt d 1 1)).st = 1 → s.boundTo (leAt d 3 1) = some (leAt d 1 1) →
    Reaches .unmap s (fun t => t.mem = s.mem ∧ t.host = s.host ∧
      (∀ l, l ∈ t.sec.lower ↔ l ∈ s.sec.lower ∧ inPages (leAt d 3 1) (leAt d 8 8 / 65536) (leAt d 24 4) l = false) ∧
      (s.translated (leAt d 3 1) = true → t.sec.busy = true ∧ t.chip = s.chip ∧
        t.sec.unmapping = some (leAt d 3 1, leAt d 8 8 / 65536, leAt d 24 4)) ∧
      (s.translated (leAt d 3 1) = false → secOk t ∧ ∀ e, e ∈ t.chip.tlb ↔ e ∈ s.chip.tlb ∧ tlbHit (leAt d 3 1) false (leAt d 8 8 / 65536) (leAt d 24 4) e = false)))

/-- UNSEAL (R323 to R325): a bundle that passes the checks of R324 in order is being unsealed, with the sections, signer, job
and key slot it names; when its sections are done their pages are mapped and the key slot holds the job's key, or
the first failing section ends it with SECTION; a bundle whose header fails ends with its code. -/
def SealedBundles : Prop :=
  (∀ s d, secReady s 5 d = true → (s.cocoon (leAt d 1 1)).st = 1 →
    let c := leAt d 1 1
    let a := leAt d 8 8
    let h := s.bytes a 64
    let b := s.bytes a (leAt h 16 8)
    let signer := Config.sha3 (slice b 64 1312)
    s.outside a 64 = true →
    (bundleHeaderOk h = false → s.errBusy .chip = false → Reaches .secUnseal s (fun t => t.sec.result = 0x10 ∧ t.sec.busy = false ∧ t.sec.cocoons = s.sec.cocoons)) ∧
    (∀ e ck key slot l, bundleHeaderOk h = true → s.outside a (leAt h 16 8) = true →
      Config.mlDsaVerify (slice b 64 1312) (Config.sha3 (b.take (bundleEnd h))) (slice b (leAt h 16 8 - 2420) 2420) = true →
      ((s.cocoon c).signer = none ∨ (s.cocoon c).signer = some signer) →
      s.policyOk (slice b 1376 256) (maskBits 8 (s.cocoon c).regions.toNat).length = true →
      bundleEntry s.fuses.serial.toNat b (bundleDevs h) = some e → s.unwrapKeys b e = some (ck, key) →
      s.jobSlot c (BitVec.ofNat 16 (leAt b 1508 2)) key = some slot →
      s.sectsOf c (leAt h 16 8) b (1680 + 1152 * bundleDevs h) 0 (bundleSecs h) [] = .ok l →
      Reaches .secUnseal s (fun t => t.sec.busy = true ∧ t.csr = s.csr ∧ t.host = s.host ∧ ∃ u, t.sec.unsealing = some u ∧ u.cocoon = c ∧ u.sects = l ∧
        u.signer = signer ∧ u.job = BitVec.ofNat 16 (leAt b 1508 2) ∧ u.jobKey = key ∧ u.slot = slot ∧
        u.bundle = BitVec.ofNat 256 (leAt b 24 32)))) ∧
  (∀ s u, s.sec.unsealing = some u → u.fails = none →
    Reaches .unsealSectionsDone s (fun t => secOk t ∧ t.sec.unsealing = none ∧ t = { s with sec := t.sec } ∧
      (t.cocoon u.cocoon).upper = (s.cocoon u.cocoon).upper ++ u.sects.flatMap Sect.leaves ∧
      (t.cocoon u.cocoon).signer = some u.signer ∧ (t.cocoon u.cocoon).unseals = (s.cocoon u.cocoon).unseals + 1 ∧
      t.keySlot u.slot = (if (s.keySlot u.slot).valid then s.keySlot u.slot
        else { valid := true, cocoon := u.cocoon, job := u.job, key := u.jobKey }) ∧
      ∀ k, k ≠ u.slot → t.keySlot k = s.keySlot k)) ∧
  (∀ s u i, s.sec.unsealing = some u → u.fails = some i → s.errBusy .chip = false →
    Reaches .unsealSectionsDone s (fun t => t.sec.result = 0x17 ∧ t.sec.detail = BitVec.ofNat 8 i ∧ t.sec.busy = false ∧
      t.sec.unsealing = none ∧ t.sec.cocoons = s.sec.cocoons ∧ t.sec.keys = s.sec.keys))

/-- ATTEST and REMOVE (R326, R327): the signed report stands at its address and nowhere else; a removed tenant's
contexts are lost and frozen, its key slots emptied and its windows closed; after its drain and scrub every
byte of its regions is zero and its slot is free. -/
def AttestationAndRemoval : Prop :=
  (∀ s d, secReady s 6 d = true → s.outside (leAt d 8 8) 6532 = true →
    let r := s.reportBody (slice d 32 32)
    let x := r ++ padTo 2420 (Config.mlDsaSign s.fuses.seed (Config.sha3 r))
    Reaches .attest s (fun t => secOk t ∧ x.length = 6532 ∧ t.bytes (leAt d 8 8) 6532 = x ∧ t.cells = s.cells ∧
      ∀ a, a < leAt d 8 8 ∨ leAt d 8 8 + 6532 ≤ a → t.byte a = s.byte a)) ∧
  (∀ s d, secReady s 7 d = true → (s.cocoon (leAt d 1 1)).st = 1 →
    let c := leAt d 1 1
    Reaches .remove s (fun t => t.sec.busy = true ∧ (t.cocoon c).st = 2 ∧ (t.cocoon c).step = 1 ∧
      (∀ k, k < 16 → (s.keySlot k).valid = true → (s.keySlot k).cocoon = c → (t.keySlot k).valid = false) ∧
      (∀ n, n < 64 → s.boundTo n = some c → (s.ctx n).st ≠ 0 → (t.ctx n).st = 2 ∧
        (t.ctx n).phase ≠ 0 ∧ ∀ w, w < 256 → s.csrF (oJwin w 0) 2 6 = n → t.csrF (oJwin w 0) 0 1 = 0))) ∧
  (∀ s c, c < 8 → (s.cocoon c).st = 2 → (s.cocoon c).step = 1 → s.drainCount c = 0 →
    Reaches (.removeDrainDone c) s (fun t => t = s.setCocoon c { s.cocoon c with step := 2 })) ∧
  (∀ s c, c < 8 → (s.cocoon c).st = 2 → (s.cocoon c).step = 2 → s.errBusy .chip = false →
    Reaches (.cocRemoved c) s (fun t => secOk t ∧ t.cocoon c = { unscrubbed := (s.cocoon c).unscrubbed } ∧
      (∀ pa p, placeOf pa = some p → lookupD 0 t.mem pa = if bit (s.cocoon c).regions p.region then 0 else lookupD 0 s.mem pa) ∧
      (∀ x, bit (s.cocoon c).regions (cellRegion x) = true → (t.cell x).accs = [] ∧ (t.cell x).rowBuf = [] ∧ (t.cell x).scaleBuf = [] ∧
        ∀ g ∈ (t.cell x).groups, g.2.vregs = [] ∧ g.2.sregs = [] ∧ g.2.preds = [] ∧ g.2.scratch = [])))

/-- The life of a cocoon. -/
def Obligations.Cocoons : Prop := CocoonCommands ∧ SealedBundles ∧ AttestationAndRemoval

/-- CHRYSALIS_SHARD_SEND and RESTORE (R358, R359, R361): the copy engine sends the next 4 KiB of a shard as a request of its own,
and after the last holds the hash of the whole; once all shards have gone, the manifest follows. A RESTORE whose
hashes agree sets step, seed and epochs where its descriptor asks, and names the first that does not. -/
def Obligations.ChrysalisCopies : Prop :=
  (∀ r k s x b t0, r < 8 → k < 1024 → s.chip.chry.busy = true → s.tagsFree r 1 = true →
    s.chip.chry.shards.find? (fun x => decide (x.region = r) && decide (x.index = k) && x.hash.isNone) = some x →
    let len := min 4096 (3 * x.elems - x.sent)
    s.shardBytes s.chip.chry.ctx x x.sent len = .ok (b, t0) → x.sent + len < 3 * x.elems →
    Reaches (.chrysalisShardSend r k) s (fun t => t.mem = s.mem ∧ t.cells = s.cells ∧
      NewReq s t (fun q => q.waiter = .chry r k ∧ q.frame.tx.op = opPut ∧ q.frame.payload = b ∧ q.ctx = s.chip.chry.ctx) ∧
      ∃ y ∈ t.chip.chry.shards, y = { x with sent := x.sent + len })) ∧
  (∀ r k s x b t0 all t1, r < 8 → k < 1024 → s.chip.chry.busy = true → s.tagsFree r 1 = true →
    s.chip.chry.shards.find? (fun x => decide (x.region = r) && decide (x.index = k) && x.hash.isNone) = some x →
    let len := min 4096 (3 * x.elems - x.sent)
    s.shardBytes s.chip.chry.ctx x x.sent len = .ok (b, t0) → x.sent + len = 3 * x.elems → 0 < len →
    t0.shardBytes s.chip.chry.ctx x 0 (3 * x.elems) = .ok (all, t1) →
    Reaches (.chrysalisShardSend r k) s (fun t => t.mem = s.mem ∧
      NewReq s t (fun q => q.waiter = .chry r k ∧ q.frame.payload = b) ∧
      ∃ y ∈ t.chip.chry.shards, y = { x with sent := x.sent + len, hash := some (Config.sha3 all) })) ∧
  (∀ r k s, r < 8 → k < 1024 → s.chip.chry.busy = true → s.tagsFree r 1 = true → s.chip.chry.shards.all (fun x => x.hash.isSome) = true →
    s.chip.chry.manSent < s.chip.chry.manLen → (s.chip.chry.manSent ≠ 0 ∨ s.chryAnyOpen = false) →
    let b := ((manifestBytes s.chip.chry (s.cid s.chip.chry.ctx)).drop s.chip.chry.manSent).take 4096
    Reaches (.chrysalisShardSend r k) s (fun t => t.mem = s.mem ∧ t.chip.chry.manSent = s.chip.chry.manSent + b.length ∧
      NewReq s t (fun q => q.waiter = .chry r 1024 ∧ q.frame.payload = b))) ∧
  (∀ v s m, s.boot.inReset = false → bit v 0 = true → s.chip.chry.cmdBusy = false →
    let a := s.csrF 0x8154 6 26 * 64 + s.csrF 0x8158 0 16 * two32
    let b := s.bytes a 64
    let n := leAt b 1 1
    s.inDram a 64 = true → leAt b 0 1 = 1 → n < 64 → leAt b 2 1 < 2 → leAt b 3 1 = 0 → allZero ((b.drop 24).take 40) = true →
    s.inDram (leAt b 16 8) (16 * leAt b 4 4) = true → s.manifestAt (leAt b 8 8) = some m → (s.ctx n).st = 1 → s.chip.chry.busy = false →
    s.progRegions n ≠ [] → (∀ e ∈ m.entries, e.2.1 ∈ s.progRegions n) → m.magic = true → m.agrees = true →
    (s.firstMismatch m 0 (leAt b 4 4) (s.bytes (leAt b 16 8) (16 * leAt b 4 4)) = none →
      Reaches (.restore v) s (fun t => t.chip.chry.result = 0 ∧ t.chip.chry.cmdBusy = false ∧ t.mem = s.mem ∧ t.cells = s.cells ∧
        (leAt b 2 1 = 1 → t.csrAt (oStep n) = BitVec.ofNat 32 m.step ∧ t.csrAt (oSeedLo n) = BitVec.ofNat 32 m.seed ∧
          t.csrAt (oSeedHi n) = BitVec.ofNat 32 (m.seed / 2 ^ 32) ∧
          ∀ r ∈ s.progRegions n, (t.region r).epoch = BitVec.ofNat 16 (m.epochs.getD r 0)) ∧
        (leAt b 2 1 = 0 → t.csr = s.csr ∧ t.regions = s.regions))) ∧
    (∀ i, s.firstMismatch m 0 (leAt b 4 4) (s.bytes (leAt b 16 8) (16 * leAt b 4 4)) = some i →
      Reaches (.restore v) s (fun t => t.chip.chry.result = 4 ∧ t.chip.chry.index = BitVec.ofNat 16 i ∧ t.csr = s.csr ∧ t.regions = s.regions)))

/-- Every group not frozen before is frozen with a code, before its first instruction not yet issued (R412); where a
storm that the loss of a context sets off halts the device first, its code is the halt's. -/
def groupsFreeze (s t : State) (code : BitVec 16) (sel : Nat → Bool) : Prop :=
  ∀ g v, s.group g = some v → sel g.cell = true → v.st ≠ .frozen →
    ∃ u, t.group g = some u ∧ u.st = .frozen ∧ (u.code = code ∨ (t.chip.errs.halted = true ∧ u.code = t.chip.errs.haltCode)) ∧ u.pc = v.unissued

/-- Error units, cells and blocks (R340, R350, R351): a unit whose handling time ends takes its oldest queued event; a
failing cell, or the 16 cells, channels and DMA engine of a failing block, leave service with their groups frozen,
and the unit raises the event. -/
def CellAndBlockFailures : Prop :=
  (∀ u s, errUnitOk u = true → (s.errUnit u).busy = true → (u = .chip → s.chip.errs.halted = false) →
    ((s.errUnit u).queue = [] → Reaches (.errorUnitFree u) s (fun t => t.errUnit u = { s.errUnit u with busy := false } ∧
      t.mem = s.mem ∧ ∀ x, x ≠ u → t.errUnit x = s.errUnit x)) ∧
    (∀ e rest, (s.errUnit u).queue = e :: rest → (e.sev ≠ sevC ∨ s.csrF oErrCfg 0 1 = 0) →
      Reaches (.errorUnitFree u) s (fun t => t.errUnit u = { s.errUnit u with busy := true, current := e.sev, queue := rest } ∧
        t.mem = s.mem ∧ ∀ x, x ≠ u → t.errUnit x = s.errUnit x))) ∧
  (∀ c ext s, c < 10240 → s.cellUp c = true →
    Reaches (.cellFence c ext) s (fun t => (t.cell c).fenced = true ∧ t.cellUp c = false ∧ (t.cell c).err.seq = (s.cell c).err.seq + 1 ∧
      groupsFreeze s t 0x0901 (fun x => decide (x = c)))) ∧
  (∀ b s, b < 640 → s.regionUp (blockRegion b) = true → (s.block b).fenced = false →
    Reaches (.blockFence b) s (fun t => (t.block b).fenced = true ∧ (t.block b).dmaFrozen = true ∧
      (s.ecc = [] → (t.block b).err.seq = (s.block b).err.seq + 1) ∧ (∀ i, i < 16 → (t.cell (b * 16 + i)).fenced = true) ∧
      (∀ c, c < 4 → (t.chan b c).frozen = true) ∧
      groupsFreeze s t 0x0902 (fun x => decide (x / 16 = b) && !(s.cell x).fenced)))

/-- Regions, the shared area and the root clock (R343, R344, R352, R376): a region retired by its own fault or by its rail is a
hole with its groups, channels and DMA engines frozen and its links down, were it in service or on its way there in boot
(R376); a shared fault or a lost root lock halts a device that runs, and
locks down one that is halted. -/
def RegionAndDeviceFailures : Prop :=
  (∀ i r s, r < 8 → s.released r = true → (i = .regionRetire r 4 ∨ i = .railFault (.region r)) →
    Reaches i s (fun t => t.regionUp r = false ∧ bit t.chip.retired r = true ∧
      (∀ pa p, placeOf pa = some p → p.region = r → t.placeAt pa = none) ∧
      (∀ k, k < 3 → (t.link (3 * r + k)).up = false) ∧
      (∀ b c, b < 640 → blockRegion b = r → c < 4 → (t.chan b c).frozen = true ∧ (t.block b).dmaFrozen = true) ∧
      groupsFreeze s t 0x0903 (fun x => decide (cellRegion x = r)) ∧ t.fuses = s.fuses)) ∧
  (∀ r ext s, r < 8 → s.released r = true → Reaches (.regionRetire r ext) s (fun t => t.regionUp r = false ∧ bit t.chip.retired r = true)) ∧
  (∀ i code s, ((∃ u, i = .sharedFail u) ∧ code = 0x0908 ∨ i = .rootUnlock ∧ code = 0x0909) → s.boot.inReset = false →
    s.chip.errs.halted = false →
    Reaches i s (fun t => t.chip.errs.halted = true ∧ t.chip.errs.haltCode = code ∧ groupsFreeze s t code (fun _ => true) ∧
      (∀ n, n < 64 → (s.ctx n).st = 1 → (t.ctx n).st = 2) ∧
      (∀ q, q < 1024 → s.qEnabled q = true → (t.queue q).frozen = true) ∧
      (∀ w, w < 256 → t.csrF (oJwin w 0) 0 1 = 0))) ∧
  (∀ i s, ((∃ u, i = .sharedFail u) ∨ i = .rootUnlock) → s.boot.inReset = false → s.chip.errs.halted = true →
    Reaches i s (fun t => t.chip.errs.halted = true ∧ t.chip.errs.locked = true ∧ t.mem = s.mem))

/-- Failures of cells, blocks, regions and the device. -/
def Obligations.Failures : Prop := CellAndBlockFailures ∧ RegionAndDeviceFailures

/-- The package is in reset with everything but its fuses lost (R26, R383, R411). -/
def inFullReset (s t : State) : Prop :=
  t.boot.inReset = true ∧ t.fuses = s.fuses ∧ t.mem = [] ∧ t.cells = [] ∧ t.blocks = [] ∧ t.regions = [] ∧ t.csr = [] ∧
  t.csrPend = [] ∧ t.ecc = [] ∧ t.sec.cocoons = [] ∧ t.sec.keys = [] ∧ t.silk.links = [] ∧ t.host.ctxs = [] ∧ t.pending = s.pending

/-- Power input and caps (R377, R380, R381, Table 12-4): a sample in the normal range is recorded and, held for 10 ms, lifts the
input cap; the tenth low sample in a row caps the root at the lowest step; outside the working range the package is in
reset, as with a shared rail (R376). Above its limit power lowers the power cap by one step, and 110 °C trips. -/
def PowerAndCaps : Prop :=
  (∀ vin iin s, s.boot.inReset = false → 4400 ≤ vin → vin ≤ 5800 →
    Reaches (.inputSample vin iin) s (fun t => t = { s with mon := t.mon } ∧ t.mon.vin = vin ∧ t.mon.iin = iin ∧ t.mon.lowRun = 0 ∧
      t.mon.inputCap = (if 999 ≤ s.mon.okRun ∧ s.mon.trip = false then nominalRoot s.fuses else s.mon.inputCap))) ∧
  (∀ vin iin s, s.boot.inReset = false → 4000 ≤ vin → vin < 4400 → s.mon.lowRun = 9 →
    Reaches (.inputSample vin iin) s (fun t => t.mon.inputCap = 420 ∧ t.mon.lowRun = 10 ∧ t.mon.vin = vin)) ∧
  (∀ vin iin s, s.boot.inReset = false → (vin < 4000 ∨ 6200 < vin) →
    Reaches (.inputSample vin iin) s (fun t => inFullReset s t ∧ t.boot.inputBad = true)) ∧
  (∀ s, Reaches (.railFault .shared) s (fun t => inFullReset s t ∧ t.boot.held = true)) ∧
  (∀ watts s, s.boot.inReset = false → s.boot.phase = 8 →
    let lim := min ((s.applyB oPwrCfg).csrF oPwrCfg 0 13) s.rating
    (lim < watts → Reaches (.powerCapTick watts) s (fun t => t.mon.powerCap = stepDown (nominalRoot s.fuses) s.mon.powerCap ∧
      t.mon.watts = watts)) ∧
    (watts ≤ lim → Reaches (.powerCapTick watts) s (fun t => t.mon.watts = watts ∧
      t.mon.powerCap = (if watts * 100 < lim * 95 ∧ 9 ≤ s.mon.underRun ∧ s.mon.trip = false
        then stepUp (nominalRoot s.fuses) s.mon.powerCap else s.mon.powerCap) ∧ t.mem = s.mem))) ∧
  (∀ temps s, temps.length = 17 → s.boot.inReset = false → s.boot.phase = 8 →
    let lim := 2 * (s.applyB oThermCfg).csrF oThermCfg 0 8
    let x := (hottest temps).2
    120 ≤ lim → lim ≤ 210 →
    (x < lim → Reaches (.thermalCapTick temps) s (fun t => t.mem = s.mem ∧
      t.mon.thermCap = if x + 6 < lim ∧ 9 ≤ s.mon.coolRun ∧ s.mon.trip = false
        then stepUp (nominalRoot s.fuses) s.mon.thermCap else s.mon.thermCap)) ∧
    (lim ≤ x → x < 220 → Reaches (.thermalCapTick temps) s (fun t => t.mon.thermCap = stepDown (nominalRoot s.fuses) s.mon.thermCap)) ∧
    (220 ≤ x → Reaches (.thermalCapTick temps) s (fun t => t.mon.trip = true ∧ t.mon.thermCap = 420 ∧ t.mon.powerCap = 420 ∧
      t.mon.inputCap = 420 ∧ t.chip.errs.halted = true)))

/-- Clock steps (R379, R382): toward the effective root by one allowed step, with its cause, and at the switch the history holds
the step's number, root and cause; open windows count it. -/
def ClockSteps : Prop :=
  (∀ s, s.boot.inReset = false → s.boot.phase = 8 → s.mon.pending = false → s.mon.root ≠ s.effectiveRoot →
    Reaches .clockStepPrepare s (fun t => t = { s with mon := t.mon } ∧ t.mon.pending = true ∧ t.mon.root = s.mon.root ∧
      t.mon.next = (if s.effectiveRoot < s.mon.root then stepDown (nominalRoot s.fuses) s.mon.root
        else stepUp (nominalRoot s.fuses) s.mon.root))) ∧
  (∀ s, s.mon.pending = true → (∀ b, (s.block b).win.opened = true → (s.block b).win.logAddr = 0) →
    Reaches .clockStepSwitch s (fun t => t.mon.root = s.mon.next ∧ t.mon.pending = false ∧ t.mon.stepSeq = s.mon.stepSeq + 1 ∧
      lookupD {} t.mon.hist (s.mon.stepSeq.toNat % 64) = { seq := s.mon.stepSeq, root := BitVec.ofNat 10 s.mon.next, cause := s.mon.cause } ∧
      t.mem = s.mem ∧ ∀ b, (s.block b).win.opened = false → t.block b = s.block b))

/-- Power input, caps and the steps of the clock. -/
def Obligations.PowerAndClock : Prop := PowerAndCaps ∧ ClockSteps

/-- Reset inputs and boot (R383 to R389, Tables 12-7, 12-8): a low PWR_GOOD or RST_N puts the package in reset; with both
high again boot starts, and each phase ends in the next, to a ready device whose regions in service are those that
were released and reach base die 0 (R216). In host boot the host port takes the strapped PHY, and the ROM answers each
datagram to its address with its header. -/
def Obligations.ResetAndBoot : Prop :=
  (∀ p r s, (p = false ∨ r = false) → Reaches (.resetAssert p r) s (fun t => inFullReset s t ∧ t.boot.pwrGood = p)) ∧
  (∀ st s, s.boot.rstN = false → s.boot.inReset = true → s.boot.pwrGood = true → s.boot.held = false → s.boot.inputBad = false →
    Reaches (.resetRelease st) s (fun t => t = { s with boot := { s.boot with rstN := true, straps := st, inReset := false } })) ∧
  (∀ b s, s.boot.inReset = false → b.sharedFail = false →
    (s.boot.phase = 1 → Reaches (.bootPhaseEnd b) s (fun t => t = { s with boot := { s.boot with phase := 2 } })) ∧
    (s.boot.phase = 2 → Reaches (.bootPhaseEnd b) s (fun t => t.boot.phase = 3 ∧ t.mon.root = 420 ∧
      t.boot.hostBoot = (decide (s.boot.straps.bootMode = 1) || s.boot.hostBoot) ∧
      (s.boot.straps.bootMode = 1 → t.csrF (oPort 24) 1 2 = s.boot.straps.hostPhy.toNat))) ∧
    (∀ fl l, s.boot.phase = 3 → s.boot.hostBoot = false → b.flash = some fl → (checkSlot s.fuses fl 0).2 = .ok l →
      Reaches (.bootPhaseEnd b) s (fun t => t.boot.phase = 4 ∧ t.boot.source = 1 ∧ t.boot.images = 3 ∧ t.boot.digests = keepDigests l)) ∧
    (s.boot.phase = 4 → s.boot.images = 3 → Reaches (.bootPhaseEnd b) s (fun t => t = { s with boot := { s.boot with phase := 5 } })) ∧
    (s.boot.phase = 5 → Reaches (.bootPhaseEnd b) s (fun t => t.boot.phase = 6 ∧
      ∀ r, r < 8 → bit t.chip.released r = (if bit s.fuses.regionDis r || b.relFail.contains r then false else true))) ∧
    (s.boot.phase = 6 → Reaches (.bootPhaseEnd b) s (fun t => t.boot.phase = 7 ∧
      ∀ r, r < 8 → bit t.chip.released r = (bit s.chip.released r && !b.trainFail.contains r))) ∧
    (s.boot.phase = 7 →
      let x : State := { s with chip := { s.chip with inService := s.chip.released } }
      Reaches (.bootPhaseEnd b) s (fun t => t.boot.phase = 8 ∧ t.mon.powerCap = nominalRoot s.fuses ∧
        (∀ r ∈ x.cutOff, t.regionUp r = false ∧ bit t.chip.retired r = true) ∧
        (x.cutOff = [] → t.chip.inService = s.chip.released ∧ t.mem = s.mem)))) ∧
  (∀ b s, s.boot.inReset = false → b.sharedFail = true → 1 ≤ s.boot.phase.toNat → s.boot.phase.toNat ≤ 4 →
    Reaches (.bootPhaseEnd b) s (fun t => t.boot.phase = 15 ∧ t.boot.fail = 6)) ∧
  (∀ i d s, s.boot.inReset = false → s.boot.hostBoot = true → (s.boot.phase = 3 ∨ s.boot.phase = 4) → romTakes s.fuses i d = true →
    leAt d 0 1 = s.boot.images + 1 → firstBytes (putBytes s.boot.image (leAt d 4 4) (d.drop 8)) 64 = none →
    Reaches (.hostBootDatagram i d) s (fun t => (∃ j : IpUdp, j.src = i.dst ∧ j.dst = i.src ∧ j.sport = i.dport ∧ j.dport = i.sport ∧
        t.out = s.out ++ [.datagram j (d.take 8)]) ∧ t.boot.phase = s.boot.phase ∧
      t.boot.image = putBytes s.boot.image (leAt d 4 4) (d.drop 8)))

/-- The I3C target (R391, R392): what each common command code does, and what it answers; a private request leaves its status
byte and data for the next private read. -/
def I3cTarget : Prop :=
  ∀ s, s.boot.inReset = false →
    (∀ ev, bit ev 0 = true → Reaches (.enec ev) s (fun t => t = { s with side := { s.side with i3cIbi := true } }) ∧
      Reaches (.disec ev) s (fun t => t = { s with side := { s.side with i3cIbi := false } })) ∧
    Reaches .rstdaa s (fun t => t = { s with side := { s.side with i3cDyn := none } }) ∧
    (∀ a, s.side.i3cDyn = none → Reaches (.entdaa a) s (fun t => t = { s with side := { s.side with i3cDyn := some a } }) ∧
      Reaches (.setdasa a) s (fun t => t = { s with side := { s.side with i3cDyn := some a } })) ∧
    Reaches .getpid s (fun t => ∃ b, t = { s with out := s.out ++ [.i3c b] } ∧ b.length = 6 ∧
      leNat b.reverse = Config.mipiId.toNat * 2 ^ 32 + s.fuses.serial.toNat % 2 ^ 32) ∧
    Reaches .getbcr s (fun t => t = { s with out := s.out ++ [.i3c [Config.i3cBcr]] }) ∧
    Reaches .getdcr s (fun t => t = { s with out := s.out ++ [.i3c [Config.i3cDcr]] }) ∧
    Reaches .getstatus s (fun t => ∃ b, t.out = s.out ++ [.i3c b] ∧ b.length = 2 ∧ t = { s with out := t.out, freeCtr := t.freeCtr }) ∧
    Reaches .getmwl s (fun t => ∃ b, t = { s with out := s.out ++ [.i3c b] } ∧ b.length = 2) ∧
    Reaches .getmrl s (fun t => ∃ b, t = { s with out := s.out ++ [.i3c b] } ∧ b.length = 3) ∧
    (∀ a, Reaches (.rstact a) s (fun t => t = s)) ∧
    Reaches .i3cPrivateRead s (fun t => t = { s with out := s.out ++ [.i3c s.side.i3cResp] }) ∧
    (∀ a n, 1 ≤ n → n ≤ 16 → a.toNat % 4 = 0 → inCsr a.toNat n = true → Reaches (.i3cCsrRead a n) s (fun t =>
      t.side.i3cResp = 0 :: (s.readWords (a.toNat - csrBase) n).1 ∧ t.mem = s.mem ∧ t.csr = s.csr)) ∧
    (∀ a ws, a.toNat % 4 = 0 → inCsr a.toNat ws.length = true → Reaches (.i3cCsrWrite a ws) s (fun t =>
      t.side.i3cResp = [0] ∧ ∃ u, u = s.writeWords (a.toNat - csrBase) ws ∧ t = { u with side := t.side })) ∧
    (∀ a n, 1 ≤ n → n ≤ 64 → a.toNat % 4 = 0 → s.debugRange a.toNat (4 * n) = true → s.ecc = [] → Reaches (.i3cMemoryRead a n) s (fun t =>
      t.side.i3cResp = 0 :: (List.range (4 * n)).map (fun i => s.debugByte (a.toNat + i)) ∧ t.mem = s.mem ∧ t.csr = s.csr)) ∧
    (∀ a bs, bs.length % 4 = 0 → a.toNat % 4 = 0 → s.debugRange a.toNat bs.length = true →
      (s.touchesCocoon a.toNat bs.length = true → Reaches (.i3cMemoryWrite a bs) s (fun t => t.side.i3cResp = [2] ∧
        t = { s with side := t.side })) ∧
      (s.touchesCocoon a.toNat bs.length = false → s.ecc = [] → (∀ q, s.qEnabled q = false) → Reaches (.i3cMemoryWrite a bs) s (fun t =>
        t.side.i3cResp = [0] ∧ t.bytes a.toNat bs.length = bs ∧
        ∀ x, x < a.toNat ∨ a.toNat + bs.length ≤ x → t.byte x = s.byte x)))

/-- The JTAG port (R393, R402): each instruction is loaded and drives or releases the pads as its name says, BYPASS, IDCODE, CLAMP
and HIGHZ answer, a debug write reaches the register its address names; TRST_N low holds the port in Test-Logic-Reset,
where it takes none. -/
def JtagPort : Prop :=
  (∀ s, s.side.tapReset = false →
    Reaches .bypass s (fun t => t = { s with side := { s.side with jtagIr := irBypass, bsrOut := false, highz := false }, out := s.out ++ [.jtag 1 0] }) ∧
    Reaches .idcode s (fun t => t = { s with side := { s.side with jtagIr := irIdcode, bsrOut := false, highz := false }, out := s.out ++ [.jtag 32 idcodeValue] }) ∧
    (∀ p, Reaches (.samplePreload p) s (fun t => t = { s with side := { s.side with jtagIr := irSample, bsrOut := false, highz := false, pads := p } }) ∧
      Reaches (.extest p) s (fun t => t = { s with side := { s.side with jtagIr := irExtest, bsrOut := true, highz := false, pads := p } })) ∧
    Reaches .clamp s (fun t => t = { s with side := { s.side with jtagIr := irClamp, bsrOut := true, highz := false }, out := s.out ++ [.jtag 1 0] }) ∧
    Reaches .highz s (fun t => t = { s with side := { s.side with jtagIr := irHighz, bsrOut := false, highz := true }, out := s.out ++ [.jtag 1 0] }) ∧
    (∀ dr : BitVec 96, s.boot.inReset = false → fld dr 0 8 = 2 → fld dr 8 48 % 4 = 0 → inCsr (fld dr 8 48) 1 = true →
      Reaches (.debug dr) s (fun t => ∃ s0, s0 = { s with side := { s.side with jtagIr := irDebug, bsrOut := false, highz := false } } ∧
        t.side.debugDr = [0] ∧ t.mem = (s0.writeWord (fld dr 8 48 - csrBase) (BitVec.ofNat 32 (fld dr 56 32))).mem ∧
        t.csr = (s0.writeWord (fld dr 8 48 - csrBase) (BitVec.ofNat 32 (fld dr 56 32))).csr)) ∧
    (∀ dr : BitVec 96, s.boot.inReset = false → fld dr 0 8 = 1 → fld dr 8 48 % 4 = 0 → inCsr (fld dr 8 48) 1 = true →
      Reaches (.debug dr) s (fun t => t.side.debugDr = 0 :: leBytes 4 (s.regWord (fld dr 8 48 - csrBase)).toNat ∧ t.mem = s.mem ∧ t.csr = s.csr))) ∧
  (∀ s, Reaches (.jtagTrst true) s (fun t => t = { s with side := { s.side with tapReset := true, jtagIr := irIdcode, bsrOut := false, highz := false } }) ∧
    Reaches (.jtagTrst false) s (fun t => t = { s with side := { s.side with tapReset := false } })) ∧
  (∀ s p, s.side.tapReset = true → exec .bypass s = .next s ∧ exec (.extest p) s = .next s ∧ exec .highz s = .next s)

/-- The sideband ports. -/
def Obligations.Sideband : Prop := I3cTarget ∧ JtagPort

/-! ### Links and frames (chapter 8) -/

/-- A frame stands at a link or has left by it. -/
def atLink (t : State) (l : Nat) (P : Frame → Prop) : Prop :=
  (∃ x ∈ (t.link l).txq, P x.2) ∨ ∃ g, Out.frame l g ∈ t.out ∧ P g

/-- The frames of a link's replay buffer from the one with a sequence number on. -/
def replayFrom (k : Link) (seq : BitVec 16) : List Frame :=
  k.replay.drop (seq - (k.txNext - BitVec.ofNat 16 k.replay.length)).toNat

/-- The sequence number is of a frame that the link holds, or of the next one it will send. -/
def replayHas (k : Link) (seq : BitVec 16) : Bool :=
  decide ((seq - (k.txNext - BitVec.ofNat 16 k.replay.length)).toNat ≤ k.replay.length)

/-- The frames that a link sends again: of a port that is in quarantine, or of a device in lockdown, those of lane M. -/
def resent (s : State) (l : Nat) (fs : List Frame) : List Out :=
  (fs.filter (fun f => decide (f.link.lane = 0) || s.dataLanes l)).map (Out.frame l)

/-- A link control frame that a link takes in: up, its envelope the device's own, its headers sound, and no frame
acknowledged that was never sent. -/
def ctlTaken (s : State) (l : Nat) (h : CtlHdr) : Bool :=
  linkOk l && (s.link l).up && (s.envBad l false h.env).isNone && !ctlHdrBad h.link &&
  (!h.link.ackv || ((s.link l).acked h.link.ackseq).isSome)

/-- A link whose headers a frame has brought: the frames that it acknowledges leave the replay buffer, the credits that it
returns are added to their lane. -/
def headerTaken (k : Link) (h : LinkHdr) : Link :=
  { k with
    replay := if h.ackv then k.replay.drop ((k.acked h.ackseq).getD 0) else k.replay
    credits := if h.crv then insertD 0 k.credits h.crlane.toNat (lookupD 0 k.credits h.crlane.toNat + h.credits.toNat) else k.credits }

/-- Link control frames (R246, R249 to R251, R258, R344): HELLO brings a link of an open port up with its counters at 0; each
other frame acknowledges and returns credits by its link header; RETRY and RESUME have the frames from their number on
resent in order, a queued frame leaves once credits for its lane have come; LOCKED marks the peer; a corrupted frame
calls for one RETRY, has its codewords counted and, where it was being cut through, is ended at its egress. -/
def LinkControlFrames : Prop :=
  (∀ l h s, linkOk l = true → s.portOn l = true → s.envBad l true h.hdr.env = none → ctlHdrBad h.hdr.link = false →
    Reaches (.hello l h) s (fun t => (t.link l).up = true ∧ (t.link l).training = false ∧ (t.link l).peerLock = false ∧
      (t.link l).peerNode = h.node ∧ (t.link l).peerMac = h.hdr.env.srcMac ∧ (t.link l).rxNext = 0 ∧ t.mem = s.mem ∧ t.cells = s.cells)) ∧
  (∀ l h s, ctlTaken s l h = true → (s.link l).txq = [] →
    Reaches (.credit l h) s (fun t => t.link l = headerTaken (s.link l) h.link ∧ (∀ k, k ≠ l → t.link k = s.link k) ∧ t.out = s.out ∧
      t = { s with silk := t.silk }) ∧
    (∀ node, Reaches (.locked l h node) s (fun t => t.link l = { headerTaken (s.link l) h.link with peerLock := true } ∧
      (∀ k, k ≠ l → t.link k = s.link k) ∧ t.out = s.out)) ∧
    (∀ seq, replayHas (headerTaken (s.link l) h.link) seq = true →
      let r := resent s l (replayFrom (headerTaken (s.link l) h.link) seq)
      Reaches (.retryFrame l h seq) s (fun t => t.out = s.out ++ r ∧ t.link l = headerTaken (s.link l) h.link ∧ t.mem = s.mem ∧ t.cells = s.cells) ∧
      Reaches (.resumeFrame l h seq) s (fun t => t.out = s.out ++ r ∧ t.link l = headerTaken (s.link l) h.link ∧ t.mem = s.mem ∧ t.cells = s.cells))) ∧
  (∀ l h s f, ctlTaken s l h = true → (s.link l).txq = [(selfLink, f)] → s.silk.slices = [] → f.link.lane ≠ 7 →
    (s.setLink l (headerTaken (s.link l) h.link)).mayTransmit l f = true →
    Reaches (.credit l h) s (fun t => (t.link l).txq = [] ∧ (t.link l).txNext = (s.link l).txNext + 1 ∧
      ∃ g, t.out = s.out ++ [.frame l g] ∧ g.tx = f.tx ∧ g.payload = f.payload ∧ g.link.lseq = (s.link l).txNext ∧ g.link.ackv = true ∧
        g.link.ackseq = (s.link l).rxNext - 1 ∧ g.env.pcp = BitVec.ofNat 3 (lanePcp f.link.lane))) ∧
  (∀ l c s, linkOk l = true → (s.link l).up = true → (s.link l).retrySent = false →
    Reaches (.corruptedFrame l c) s (fun t => (t.link l).retrySent = true ∧ t.mem = s.mem ∧ t.cells = s.cells ∧
      (t.link (linkPort l)).fecCorr = countLanes c.corr (s.link (linkPort l)).fecCorr ∧
      (t.link (linkPort l)).fecUncorr = countLanes c.uncorr (s.link (linkPort l)).fecUncorr ∧
      ∃ p h, t.out = s.out ++ p ++ [.control l h (.retry (s.link l).rxNext)] ∧ (c.cut = none → p = []) ∧
        ∀ f, c.cut = some f → p = [] ∨ ∃ e g, p = [.cut e g] ∧ g.tx = { f.tx with ttl := f.tx.ttl - 1 }))

/-- Time-outs and the state of links (R242, R249, R250, R344): the replay time-out resends what is unacknowledged; a link that
loses block lock keeps its numbers, credits and replay buffer, announces itself with RESUME when it returns, and is
empty when declared down; paused priorities of the host port are held; in lockdown every link that is up sends
LOCKED again. -/
def LinkStates : Prop :=
  (∀ l s, linkOk l = true → (s.link l).up = true → (s.link l).replay ≠ [] →
    Reaches (.replayTimeout l) s (fun t => t = { s with out := s.out ++ resent s l (s.link l).replay })) ∧
  (∀ s, s.chip.errs.locked = true →
    Reaches .lockedRepeat s (fun t => ∃ h : Nat → CtlHdr, t = { s with out := s.out ++ s.upLinks.map (fun l => Out.control l (h l) (.locked s.node)) })) ∧
  (∀ l s, l < 24 → (s.link l).up = true →
    Reaches (.blockLockLost l) s (fun t => t.link l = { s.link l with up := false, lost := true, training := true } ∧ t.mem = s.mem ∧
      (∀ k, k ≠ l → t.link k = s.link k))) ∧
  (∀ l s, l < 24 → (s.link l).lost = true →
    Reaches (.linkReturn l) s (fun t => (t.link l).up = true ∧ (t.link l).lost = false ∧ (t.link l).rxNext = (s.link l).rxNext ∧
      ∃ h, Out.control l h (.resume (s.link l).rxNext) ∈ t.out) ∧
    Reaches (.linkDown l) s (fun t => (t.link l).up = false ∧ (t.link l).lost = false ∧ (t.link l).replay = [])) ∧
  (∀ l prios pause s, (32 ≤ l ∧ l < 64 ∨ l = 24) → bit prios 7 = false →
    Reaches (.pfcReceive l prios pause) s (fun t => (t.link 24).paused = ((s.link 24).paused &&& ~~~prios) ||| (pause &&& prios) ∧
      t.mem = s.mem ∧ t.cells = s.cells)) ∧
  (∀ l prios pause s, l < 24 → Reaches (.pfcReceive l prios pause) s (fun t => (t.link 24).paused = (s.link 24).paused ∧
    (t.link l).viol = satInc (s.link l).viol ∧ (t.link l).violLast = 0x05))

/-- Links: their control frames and their states. -/
def Obligations.Links : Prop := LinkControlFrames ∧ LinkStates

/-- Frames that pass through (R255, R256, R268): a frame of another destination goes on by the hop that its route gives, with
TTL one lower; a closed fold entry takes no requester more; a frame that has found no hop for ROUTE_HOLD leaves: a request
that stands for no other is answered with NOROUTE, and one that is no request is counted. -/
def Obligations.FramesPassThrough : Prop :=
  (∀ l f s u l' dl, linkOk l = true → f.tx.dst ≠ s.node → s.receive l f = .ok u → u.chip.errs.locked = false → 1 < f.tx.ttl.toNat →
    u.csrF (oSilk 0x10) 16 1 = 0 →
    (u.route (linkSlice l) { f with tx := { f.tx with ttl := f.tx.ttl - 1 } }).1 = .out l' dl →
    Reaches (.frameForward l f) s (fun t => t.mem = s.mem ∧ t.cells = s.cells ∧
      atLink t l' (fun g => g.tx = { f.tx with ttl := f.tx.ttl - 1 }))) ∧
  (∀ sl k r s, sl < 8 → (s.slice sl).recs[k]? = some r → r.isLoad = true →
    Reaches (.foldEntryClose sl k) s (fun t => t = s.setSlice sl { s.slice sl with recs := (s.slice sl).recs.set k { r with closed := true } })) ∧
  (∀ sl k l f s, sl < 8 → (s.slice sl).waiting[k]? = some (l, f) → isRequest f = false →
    Reaches (.routeHoldExpire sl k) s (fun t => t.mem = s.mem ∧
      t.slice sl = { s.slice sl with waiting := (s.slice sl).waiting.eraseIdx k, dropped := (s.slice sl).dropped + 1 })) ∧
  (∀ sl k l f s, sl < 8 → (s.slice sl).waiting[k]? = some (l, f) → isRequest f = true →
    (∀ x ∈ s.silk.slices, ∀ r ∈ x.2.recs, ¬(r.frame.tx.src = f.tx.src ∧ r.frame.tx.tag = f.tx.tag)) →
    Reaches (.routeHoldExpire sl k) s (fun t => t.mem = s.mem ∧ ∃ u : State, u.slice sl = { s.slice sl with waiting := (s.slice sl).waiting.eraseIdx k } ∧
      t = u.sendResp sl (respFrame s f nakNoroute [])))

/-- Ports (R250, R270, R278, Tables 8-16, 8-19): enabling a port has its link train and announce itself, disabling it takes the
link down; QUAR_FORCE puts a port into quarantine and QUAR_CLEAR ends it with its count at 0; a job window takes what
is written to it, but for a duplicate of a valid one. -/
def Obligations.PortsAndWindows : Prop :=
  (∀ p v s, p < 24 → s.boot.inReset = false → s.csrF (oPort p) 0 1 = 0 → s.regionUp (p / 3) = true → fld v 0 1 = 1 →
    fld v 16 2 = 0 → Reaches (.portEnableWrite p v) s (fun t => t.csrF (oPort p) 0 1 = 1 ∧ (t.link p).training = true ∧
      (∃ h, t.out = s.out ++ [.control p h (.hello s.node p ((List.range 7).map laneBuffer))]) ∧ t.mem = s.mem)) ∧
  (∀ p v s, p < 24 → s.boot.inReset = false → s.csrF (oPort p) 0 1 = 1 → fld v 1 3 = fld (s.csrAt (oPort p)) 1 3 → fld v 0 1 = 0 →
    fld v 16 2 = 0 → Reaches (.portEnableWrite p v) s (fun t => t.csrF (oPort p) 0 1 = 0 ∧ (t.link p).up = false ∧
      (t.link p).replay = [] ∧ (t.link p).txq = [] ∧ t.mem = s.mem)) ∧
  (∀ p s, p < 25 → s.boot.inReset = false → (s.link p).quar = false →
    Reaches (.quarForce p) s (fun t => (t.link p).quar = true ∧ t.csrF (oPort p) 0 1 = s.csrF (oPort p) 0 1)) ∧
  (∀ p s, p < 25 → s.boot.inReset = false → bit (s.csrRead (oPort p)) 17 = false →
    Reaches (.silkPortQuarClear p) s (fun t => (t.link p).quar = false ∧ (t.link p).viol = 0 ∧ t.mem = s.mem ∧ t.cells = s.cells ∧
      t.csrF (oPort p) 0 1 = s.csrF (oPort p) 0 1)) ∧
  (∀ n v s, n < 256 → s.boot.inReset = false → s.csrF (oJwin n 0) 0 1 = 0 → s.jwinInUse n = false → s.csrPend = [] →
    (∀ i, i < 256 → i ≠ n → s.csrF (oJwin i 0) 0 1 = 1 → ¬(s.csrF (oJwin i 0) 16 16 = fld v 16 16 ∧ s.csrF (oJwin i 4) 0 8 = s.csrF (oJwin n 4) 0 8)) →
    Reaches (.jwinWrite n 0 v) s (fun t => t.csrF (oJwin n 0) 0 1 = fld v 0 1 ∧ t.csrF (oJwin n 0) 2 11 = fld v 2 11 ∧
      t.csrF (oJwin n 0) 16 16 = fld v 16 16 ∧ ∀ o, o ≠ oJwin n 0 → t.csrAt o = s.csrAt o)) ∧
  (∀ n k v s, n < 256 → 2 ≤ k → k < 4 → s.boot.inReset = false → s.csrF (oJwin n 0) 0 1 = 0 → s.jwinInUse n = false →
    Reaches (.jwinWrite n k v) s (fun t => t.csrF (oJwin n (4 * k)) 0 (if k = 2 then 32 else 16) = fld v 0 (if k = 2 then 32 else 16) ∧
      ∀ o, o ≠ oJwin n (4 * k) → t.csrAt o = s.csrAt o)) ∧
  (∀ n v i s, n < 256 → s.boot.inReset = false → s.csrF (oJwin n 0) 0 1 = 0 → s.jwinInUse n = false → fld v 0 1 = 1 →
    i < 256 → i ≠ n → s.csrF (oJwin i 0) 0 1 = 1 → s.csrF (oJwin i 0) 16 16 = fld v 16 16 → s.csrF (oJwin i 4) 0 8 = s.csrF (oJwin n 4) 0 8 →
    Reaches (.jwinWrite n 0 v) s (fun t => t.csrF (oJwin n 0) 0 1 = 0 ∧ t.chip.rejCount = satInc s.chip.rejCount))

/-! ### Requests at the home -/

/-- A request of an operation reaches the home by a link and passes the checks of Table 8-7: what its bytes hit, and the
state in which it is served. -/
def servedAs (s : State) (l : Nat) (f : Frame) (op : BitVec 6) (x : Hit) (u : State) : Prop :=
  (linkOk l = true ∨ l = selfLink) ∧ f.tx.op = op ∧ f.tx.rsp = false ∧ f.tx.dst = s.node ∧ reqBad f = false ∧
  ∃ z, s.receive l f = .ok z ∧ (z.returnCredit l f).homeCheck f = (.ok x, u)

/-- No enabled queue's doorbell line is among the pieces of a write (R291). -/
def noBells (s : State) (ps : List (Nat × Nat)) : Prop :=
  ∀ q, q < 1024 → s.qEnabled q = true → ∀ p ∈ ps, s.qDoorbell q / 64 < p.1 / 64 ∨ (p.1 + p.2 - 1) / 64 < s.qDoorbell q / 64

/-- The bytes of a range are `bs`, and every other byte of memory reads as it did in `s`. -/
def wroteOnly (s t : State) (pa : Nat) (bs : List Byte) : Prop :=
  t.bytes pa bs.length = bs ∧ ∀ a, a < pa ∨ pa + bs.length ≤ a → t.byte a = s.byte a

/-- Remote reads and invalidations (R260, R264, R265, R267, Table 8-7): a request that passes its checks hits its window's context
and address; LOAD and GET are answered with the bytes, a LOAD that registers is noted as a sharer of every region
it read; INV is answered at once where no node shares, and else told to the sharers, its answer held; a request
whose window, bounds or permission fails is answered with that code. -/
def Obligations.RemoteReads : Prop :=
  (∀ l f s op x u, servedAs s l f op x u → u.mem = s.mem ∧ u.cells = s.cells ∧ (∀ a, u.byte a = s.byte a) ∧
    ∃ w, u.findWin f.tx.job f.tx.window = some w ∧ u.csrF (oJwin w 0) (permBit op) 1 = 1 ∧ x.n = u.winCtx w ∧
      x.va = u.winBase w + f.tx.offset.toNat) ∧
  (∀ l f s x u, servedAs s l f opLoad x u → u.ecc = [] →
    Reaches (.load l f) s (fun t => t.mem = s.mem ∧ t.cells = s.cells ∧ ∃ z : State, ∃ ok, t = z.answer x.r f 0 (u.pieces x.ps) ok ∧
      (ok = true → bit f.tx.status 5 = true ∧ x.share = true ∧ ∀ k ∈ kiRegions 0 x.ps, f.tx.src ∈ (z.sharers k.1).nodes))) ∧
  (∀ l f s x u, servedAs s l f opGet x u → u.ecc = [] →
    Reaches (.get l f) s (fun t => t.mem = s.mem ∧ t.cells = s.cells ∧ t = u.answer x.r f 0 (u.pieces x.ps))) ∧
  (∀ l f s x u, servedAs s l f opInv x u → (∀ k ∈ kiRegions 0 x.ps, (u.sharers k.1).nodes = [] ∧ (u.sharers k.1).pending = []) →
    Reaches (.inv l f) s (fun t => t.mem = s.mem ∧ t.cells = s.cells ∧ t = u.answer x.r f 0 [])) ∧
  (∀ l f s x u k, servedAs s l f opInv x u → kiRegions 0 x.ps = [k] → (u.sharers k.1).nodes ≠ [] → (u.sharers k.1).pending = [] →
    Reaches (.inv l f) s (fun t => t.mem = s.mem ∧ t.cells = s.cells ∧ (t.sharers k.1).nodes = [] ∧
      (t.sharers k.1).pending.map (·.1) = (u.sharers k.1).nodes ∧
      (t.sharers k.1).held = (u.sharers k.1).held ++ [answerFrame u f 0 []])) ∧
  (∀ l f s z, (linkOk l = true ∨ l = selfLink) → f.tx.op = opLoad → f.tx.rsp = false → f.tx.dst = s.node → reqBad f = false →
    s.receive l f = .ok z →
    let y := z.returnCredit l f
    (y.findWin f.tx.job f.tx.window = none → Reaches (.load l f) s (fun t => t = y.answer (linkSlice l) f nakNowin [])) ∧
    (∀ w, y.findWin f.tx.job f.tx.window = some w → y.csrF (oJwin w 4) 8 24 ≠ 0 →
      (y.csrF (oJwin w 4) 8 24 * 65536 < f.tx.offset.toNat + f.tx.len.toNat + 1 →
        Reaches (.load l f) s (fun t => t = y.answer (linkSlice l) f nakBounds [])) ∧
      (f.tx.offset.toNat + f.tx.len.toNat + 1 ≤ y.csrF (oJwin w 4) 8 24 * 65536 → y.csrF (oJwin w 0) 8 1 = 0 →
        Reaches (.load l f) s (fun t => t = y.answer (linkSlice l) f nakPerm []))))

/-- Remote writes (R253, R261, R266, R291): STORE, PUT and ATOMIC, on all that they hit, write their bytes, with PUT and ATOMIC
kept in the completion cache while it has room; every queue whose doorbell line is touched reads its TAIL, every sharer of
the regions is told, and the answer waits for their acknowledgements. Where they hit one piece and no doorbell, they
write its bytes and no others; a PUT or ATOMIC that is sent again is answered from the cache with memory as it was. -/
def Obligations.RemoteWrites : Prop :=
  (∀ l f s x u, servedAs s l f opStore x u →
    let w := u.writePieces x.ps x.data
    Reaches (.store l f) s (fun t => t = w.afterWrite x f (answerFrame w f 0 []))) ∧
  (∀ l f s x u, servedAs s l f opPut x u → (bit f.tx.status 6 = false ∨ u.doneOf x.r f = none) →
    let w := u.writePieces x.ps x.data
    let g := answerFrame w f 0 []
    ((u.region x.r).done.length < 16384 → Reaches (.put l f) s (fun t => t = (w.addDone x.r g f).afterWrite x f g)) ∧
    (16384 ≤ (u.region x.r).done.length → Reaches (.put l f) s (fun t => t = u.answer x.r f nakBusy []))) ∧
  (∀ l f s x u op pa n ps, servedAs s l f opAtomic x u → (bit f.tx.status 6 = false ∨ u.doneOf x.r f = none) →
    (u.region x.r).done.length < 16384 → aopOf f.tx.aop.toNat = some op → x.ps = (pa, n) :: ps →
    let m := op.frameBytes
    let cas := match op with | .cas _ => true | _ => false
    let v := u.readHits pa op.bytes (.home x.r) (some x.n) none
    let a := v.atomicAt op pa (leNat (x.data.take m)) (leNat (if cas then x.data.drop m else x.data) % 2 ^ (8 * op.bytes))
    let g := answerFrame a.2 f 0 (leBytes m a.1)
    Reaches (.atomic l f) s (fun t => t = (a.2.addDone x.r g f).afterWrite { x with ps := [(pa, op.bytes)] } f g)) ∧
  (∀ l f s x u pa, servedAs s l f opStore x u → u.ecc = [] → x.ps = [(pa, x.data.length)] → noBells u x.ps →
    Reaches (.store l f) s (fun t => wroteOnly s t pa x.data ∧ t.cells = s.cells ∧
      (∀ k ∈ kiRegions 0 x.ps, (t.sharers k.1).nodes = []) ∧
      ∃ z : State, t = z.answerHeld x.r (kiRegions 0 x.ps) (answerFrame u f 0 []))) ∧
  (∀ l f s x u pa, servedAs s l f opPut x u → u.ecc = [] → x.ps = [(pa, x.data.length)] → noBells u x.ps →
    bit f.tx.status 6 = false → (u.region x.r).done.length < 16384 →
    Reaches (.put l f) s (fun t => wroteOnly s t pa x.data ∧ t.cells = s.cells ∧
      (∀ k ∈ kiRegions 0 x.ps, (t.sharers k.1).nodes = []) ∧
      { src := f.tx.src, tag := f.tx.tag, resp := answerFrame u f 0 [] } ∈ (t.region x.r).done ∧
      ∃ z : State, t = z.answerHeld x.r (kiRegions 0 x.ps) (answerFrame u f 0 []))) ∧
  (∀ l f s x u pa op, servedAs s l f opAtomic x u → u.ecc = [] → aopOf f.tx.aop.toNat = some op → x.ps = [(pa, op.bytes)] →
    noBells u x.ps → bit f.tx.status 6 = false → (u.region x.r).done.length < 16384 →
    let n := op.frameBytes
    let cas := match op with | .cas _ => true | _ => false
    let new := op.apply (s.word pa op.bytes) (leNat (x.data.take n)) (leNat (if cas then x.data.drop n else x.data) % 2 ^ (8 * op.bytes))
    Reaches (.atomic l f) s (fun t => t.word pa op.bytes = new % 2 ^ (8 * op.bytes) ∧ t.cells = s.cells ∧
      (∀ a, a < pa ∨ pa + op.bytes ≤ a → t.byte a = s.byte a) ∧
      ∃ d, d ∈ (t.region x.r).done ∧ d.src = f.tx.src ∧ d.tag = f.tx.tag ∧ d.resp.payload = leBytes n (s.word pa op.bytes) ∧
        d.resp.tx.status = 0)) ∧
  (∀ i op, (i = Instr.put ∧ op = opPut ∨ i = .atomic ∧ op = opAtomic) → ∀ l f s x u a, servedAs s l f op x u → bit f.tx.status 6 = true →
    u.doneOf x.r f = some a → u.isHeld a = false →
    Reaches (i l f) s (fun t => t.mem = s.mem ∧ t.cells = s.cells ∧ t = u.sendSealed x.r { a with tx := { a.tx with enc := f.tx.enc } }))

/-- Remote triggers, collective and Molt data (R262, R275, R276, R303, Table 8-12): an RTRIG that its handler's context accepts stands
last among a block's launches with the 64 bytes as parameters; collective data of the epoch in force is kept until
its channel's collective has begun, and written where it has; data of an epoch long past is refused; data that was taken
before is answered and not applied again (the model's choice, log entry 99); Molt data is written and noted. -/
def Obligations.TriggersAndCollectiveData : Prop :=
  (∀ l f s x u, servedAs s l f opRtrig x u → u.ecc = [] → bit f.tx.status 6 = false → (u.region x.r).done.length < 16384 →
    ((u.trigger x f).1 = 0 →
      Reaches (.rtrigRequest l f) s (fun t => t.mem = s.mem ∧ t.cells = s.cells ∧ ∃ b y,
        (t.block b).launchQ ++ (t.block b).arriving = (s.block b).launchQ ++ (s.block b).arriving ++ [y] ∧ (∀ b', b' ≠ b → t.block b' = s.block b') ∧ y.ctx = x.n ∧
        (∃ z, y.source = .handler x.n (f.tx.offset.toNat % 256) z) ∧
        y.params = (List.range 16).map (fun i => BitVec.ofNat 32 (leAt x.data (4 * i) 4)) ∧
        handlerCount (f.tx.offset.toNat % 256) (t.ctx x.n).handlers = handlerCount (f.tx.offset.toNat % 256) (s.ctx x.n).handlers + 1)) ∧
    ((u.trigger x f).1 ≠ 0 → Reaches (.rtrigRequest l f) s (fun t => t.blocks = s.blocks ∧
      ∃ z : State, t = z.sendSealed x.r (answerFrame u f (u.trigger x f).1 [])))) ∧
  (∀ l f s x u, servedAs s l f opColl x u → u.wasSeen x.r f.tx = true →
    Reaches (.coll l f) s (fun t => t = u.answer x.r f 0 [] ∧ t.mem = s.mem)) ∧
  (∀ l f s x u, servedAs s l f opColl x u → u.wasSeen x.r f.tx = false → (u.region x.r).molt = 0 →
    rangeOf (u.region x.r).came f.tx = none →
    let e := (u.region x.r).epoch
    let c := f.tx.ch.toNat
    let g := { f with payload := x.data, trailer := [] }
    (f.tx.epoch = e → u.collReady x.r c g = none →
      Reaches (.coll l f) s (fun t => t = ((u.holdFrame x.r c g).noteSeen x.r f.tx).answer x.r f 0 [] ∧ (t.ceChan x.r c).held = (s.ceChan x.r c).held ++ [g] ∧
        t.mem = s.mem)) ∧
    (∀ y pa, f.tx.epoch = e → rangeOf (u.leaving x.r) f.tx = none → u.collReady x.r c g = some y → (y.op = 2 ∨ y.op = 4) → y.roff.toNat ≤ f.tx.offset.toNat → y.chunk ≠ 0 →
      y.queue ≠ [] → u.ecc = [] → (u.range y.ctx x.va x.data.length .store).1 = .ok [(pa, x.data.length)] →
      Reaches (.coll l f) s (fun t => wroteOnly s t pa x.data ∧ t.cells = s.cells ∧
        ∃ v, (t.ceChan x.r c).xfer = some v ∧ f.tx.offset.toNat - y.roff.toNat ∈ v.fin)) ∧
    (f.tx.epoch ≠ e → f.tx.epoch + 1 ≠ e → f.tx.epoch ≠ e + 1 →
      Reaches (.coll l f) s (fun t => t = u.answer x.r f nakEpoch [] ∧ t.mem = s.mem))) ∧
  (∀ l f s x u pa, servedAs s l f opPermute x u → u.wasSeen x.r f.tx = false → u.ecc = [] → x.ps = [(pa, x.data.length)] → (∀ r, r < 8 → (u.region r).molt = 0) →
    Reaches (.permute l f) s (fun t => wroteOnly s t pa x.data ∧ t.cells = s.cells ∧
      t.silk.perm = s.silk.perm ++ [(f.tx.job, f.tx.window, f.tx.offset.toNat, x.data.length)]))

/-! ### Answers at the source -/

/-- A frame that answers this device reaches it by a link: the operation and the state after its reception. -/
def receivedAs (s : State) (l : Nat) (f : Frame) (op : BitVec 6) (y : State) : Prop :=
  (linkOk l = true ∨ l = selfLink) ∧ f.tx.op = op ∧ f.tx.rsp = true ∧ f.tx.dst = s.node ∧ ∃ z, s.receive l f = .ok z ∧ y = z.returnCredit l f

/-- Frames at the source (R252, R263, R264, R266, R275): a response with data writes the registers its request names and ends it; a
refusal freezes the group at the instruction that asked, with SILK_NAK; an INVAL has the lines of the region it
names leave the remote line caches and is acknowledged; an INVAL_ACK that leaves others pending only counts, and the last one lets the
held answer go; EPOCH_DONE is noted by the regions it concerns. -/
def Obligations.FramesAtTheSource : Prop :=
  (∀ l f s y q g gid pc dst cache v, receivedAs s l f opResp y → s.silk.slices = [] → find s.silk.reqs f.tx.tag.toNat = some q →
    f.tx.enc = false → s.boundTo q.ctx = none → q.waiter = .load g gid pc dst cache → s.group g = some v → v.gid = gid → v.exited = false →
    (f.tx.status = 0 → Reaches (.resp l f) s (fun t => find t.silk.reqs f.tx.tag.toNat ≠ some q ∧ (∀ h, h ≠ g → t.group h = s.group h) ∧
      ∃ w, t.group g = some w ∧ w.pc = v.pc ∧ w.st = v.st ∧ w.sregs = v.sregs ∧ w.preds = v.preds ∧ w.flags = v.flags ∧
        (∀ r n, (∀ d ∈ dst, d.1 ≠ r * 64 + n) → w.vreg r n = v.vreg r n) ∧
        (∀ r n o, (r * 64 + n, o) ∈ dst → (∀ d ∈ dst, d.1 = r * 64 + n → d.2 = o) →
          w.vreg r n = BitVec.ofNat 32 (leAt f.payload o 4)))) ∧
    (f.tx.status ≠ 0 → f.tx.status ≠ nakBusy → v.st ≠ .frozen →
      Reaches (.resp l f) s (fun t => find t.silk.reqs f.tx.tag.toNat ≠ some q ∧
        (∃ w, t.group g = some w ∧ w.st = .frozen ∧ w.code = 0x010D ∧ w.pc = pc ∧ w.vregs = v.vregs ∧ w.sregs = v.sregs ∧ w.preds = v.preds) ∧
        (t.cell g.cell).err.seq = (s.cell g.cell).err.seq + 1))) ∧
  (∀ l f s y, receivedAs s l f opInval y →
    Reaches (.inval l f) s (fun t => t.mem = s.mem ∧ t.cells = s.cells ∧
      (∀ r, (t.region r).lineCache = (s.region r).lineCache.filter (fun e => !s.invalHits f.tx e.1)) ∧
      ∃ z : State, t = z.sendResp (linkSlice l) (mkFrame { f.tx with op := opInvalAck, dst := f.tx.src, src := s.node, ttl := s.ttl } []))) ∧
  (∀ l f s y k, receivedAs s l f opInvalAck y → y.ackKey f = some k →
    let p := removeFirst (ackOf f) (y.sharers k).pending
    let y' := y.setSharers k { y.sharers k with pending := [], held := [] }
    (p ≠ [] → Reaches (.invalAck l f) s (fun t => t = y.setSharers k { y.sharers k with pending := p })) ∧
    (∀ a, p = [] → (y.sharers k).held = [a] → y'.isHeld a = false →
      Reaches (.invalAck l f) s (fun t => t = y'.sendSealed (regionOfPa (k * 4096)) a))) ∧
  (∀ l f s z, (linkOk l = true ∨ l = selfLink) → f.tx.op = opEpochDone → f.tx.dst = s.node → s.receive l f = .ok z →
    (∀ r, r < 8 → (s.region r).molt = 0 ∧ (s.region r).epoch = BitVec.ofNat 16 (leAt f.payload 0 2)) →
    Reaches (.epochDone l f) s (fun t => t.mem = s.mem ∧ t.cells = s.cells ∧ ∀ r, r < 8 → f.tx.src ∈ (t.region r).moltDone ∧
      (t.region r).epoch = (s.region r).epoch ∧ (t.region r).molt = 0))

/-- Time-outs and violations (R252, R253, R277, Table 8-13): a request without an answer goes out again with RETRY, or after its
resends ends with NAK TIMEOUT; an entry of the completion cache expires; a frame that breaks the protocol counts in its
port with its kind, and one that breaks the link header calls for a RETRY. -/
def Obligations.TimeoutsAndViolations : Prop :=
  (∀ tag s q, find s.silk.reqs tag.toNat = some q →
    (q.resends < s.csrF (oSilk 0x14) 8 2 → s.boundTo q.ctx = none → (s.chip.chry.busy = true → ∀ a k, q.waiter ≠ .chry a k) →
      Reaches (.e2eTimeout tag) s (fun t => find t.silk.reqs tag.toNat = some { q with resends := q.resends + 1 } ∧
        ∃ z : State, t = z.sendOwn (tag.toNat / 8192) { q.frame with tx := { q.frame.tx with status := q.frame.tx.status ||| 0x40 } })) ∧
    (s.csrF (oSilk 0x14) 8 2 ≤ q.resends → q.waiter = .notify →
      Reaches (.e2eTimeout tag) s (fun t => t = s.freeTag tag.toNat ∧
        (s.silk.outbox = [] → t = { s with silk := { s.silk with reqs := drop s.silk.reqs tag.toNat } }))) ∧
    (∀ g gid pc v, s.csrF (oSilk 0x14) 8 2 ≤ q.resends → q.waiter = .group g gid pc → s.group g = some v → v.gid = gid →
      v.st ≠ .frozen →
      Reaches (.e2eTimeout tag) s (fun t => ∃ w, t.group g = some w ∧ w.st = .frozen ∧ w.code = 0x010D ∧ w.pc = pc ∧ w.vregs = v.vregs))) ∧
  (∀ r k s, r < 8 → k < 16384 →
    Reaches (.completionCacheExpire r k) s (fun t => t = s.setRegion r { s.region r with done := (s.region r).done.eraseIdx k })) ∧
  (∀ l f s, l < 24 → (s.link l).up = true →
    let counted (kind : BitVec 8) (t : State) : Prop := (t.link l).viol = satInc (s.link l).viol ∧ (t.link l).violLast = kind
    Reaches (.protocolViolation l f .etherType) s (counted 0x01) ∧
    Reaches (.protocolViolation l f .pfc) s (counted 0x05) ∧
    (s.envBad l false f.env = none → linkHdrBad f.link = true → Reaches (.protocolViolation l f .linkHeader) s (fun t => counted 0x02 t ∧ (t.link l).retrySent = true)) ∧
    (s.envBad l false f.env = none → linkHdrBad f.link = false → frameTooLong f = true →
      Reaches (.protocolViolation l f .tooLong) s (fun t => counted 0x04 t ∧ (t.link l).retrySent = true)) ∧
    (s.envBad l false f.env = none → linkHdrBad f.link = false → frameTooLong f = false → f.link.lseq = (s.link l).rxNext →
      laneBuffer f.link.lane.toNat < lookupD 0 (s.link l).owed f.link.lane.toNat + frameCredits f →
      Reaches (.protocolViolation l f .overCredit) s (fun t => counted 0x03 t ∧ (t.link l).retrySent = true)) ∧
    (∀ z, s.receive l f = .ok z → f.tx.dst = s.node → txBad f = true →
      Reaches (.protocolViolation l f .badHeader) s (counted 0x08)) ∧
    (∀ z, s.receive l f = .ok z → f.tx.dst = s.node → s.stray f = true →
      Reaches (.protocolViolation l f .strayResponse) s (counted 0x09))) ∧
  (∀ l f s, 32 ≤ l → l < 64 → (s.link l).up = true →
    Reaches (.protocolViolation l f .ipv6Ext) s (fun t => (t.link 24).viol = satInc (s.link 24).viol ∧ (t.link 24).violLast = 0x06))

/-! ### The copy engines -/

/-- A read of `bs` from a virtual address of a context, which meets no error (R237). -/
def loads (s : State) (n va : Nat) (bs : List Byte) (t : State) : Prop :=
  s.ecc = [] ∧ ∃ ps, s.range n va bs.length .load = (.ok ps, t) ∧ bs = t.pieces ps

/-- A channel holds a transfer that has not begun, with nothing kept for it, and may begin it. -/
def collWaits (s : State) (r c op : Nat) (x : Xfer) : Prop :=
  r < 8 ∧ c < 16 ∧ (s.ceChan r c).xfer = some x ∧ x.op = op ∧ x.started = false ∧ (s.ceChan r c).frozen = false ∧
  (s.ceChan r c).held = [] ∧ s.host.ctxBusy ≠ some (x.ctx, 7)

/-- The transfer begun. -/
def begun (s : State) (r c : Nat) : State := s.modXfer r c (fun y => { y with started := true })

/-- The frames of the collective engine (R88, R272): a PUT sends the next bytes of its source and a GET asks for them, each
at most 4,096 and the last one marked; any other transfer sends the first of its frames. -/
def Obligations.ChannelFrames : Prop :=
  ∀ r c s x, r < 8 → c < 16 → (s.ceChan r c).xfer = some x → x.started = true → (s.ceChan r c).frozen = false → s.ceMay r x = true →
    s.boundTo x.ctx = none →
    let n := min 4096 (x.len - x.sent)
    (∀ bs u, x.op = xfPut → x.sent < x.len → bs.length = n → loads s x.ctx (x.src.toNat + x.sent) bs u →
      Reaches (.ceFrameSend r c) s (fun t => t.mem = s.mem ∧ (t.ceChan r c).xfer = some { x with sent := x.sent + n } ∧
        NewReq s t (fun q => q.frame.tx.op = opPut ∧ q.frame.payload = bs ∧ q.waiter = .ce r c ∧ q.frame.tx.dst = (x.member 0).1 ∧
          q.frame.tx.window = (x.member 0).2 ∧ q.frame.tx.offset = BitVec.ofNat 40 (x.roff.toNat + x.sent) ∧
          q.frame.tx.last = decide (x.sent + n = x.len)))) ∧
    (x.op = xfGet → x.sent < x.len →
      Reaches (.ceFrameSend r c) s (fun t => t.mem = s.mem ∧ (t.ceChan r c).xfer = some { x with sent := x.sent + n } ∧
        NewReq s t (fun q => q.frame.tx.op = opGet ∧ q.frame.payload = [] ∧ q.waiter = .ce r c ∧ q.frame.tx.dst = (x.member 0).1 ∧
          q.frame.tx.offset = BitVec.ofNat 40 (x.roff.toNat + x.sent) ∧ q.frame.tx.len = BitVec.ofNat 12 (n - 1)))) ∧
    (∀ f rest, x.op ≠ xfPut → x.op ≠ xfGet → x.queue = f :: rest →
      Reaches (.ceFrameSend r c) s (fun t => t.mem = s.mem ∧ (t.ceChan r c).xfer = some { x with queue := rest } ∧
        NewReq s t (fun q => q.frame.tx.op = f.tx.op ∧ q.frame.payload = f.payload ∧ q.waiter = .ce r c ∧ q.frame.tx.dst = f.tx.dst ∧
          q.frame.tx.offset = f.tx.offset ∧ q.frame.tx.epoch = f.tx.epoch)))

/-- Collectives and rings (R199, R273 to R275, Table 8-9): a reduction starts with the chunk before the member's own, sent to the
next rank; a gather or all-to-all keeps the member's own chunk and sends the others'; a permute whose ranges have yet
to come puts its region in the Molt; a ring's hop sends the block that landed last once the kernel has consumed the
one before; a COLLECTIVE command gives its channel the transfer of its descriptor. -/
def Obligations.Collectives : Prop :=
  (∀ i op, (i = Instr.reduceScatter ∧ op = 1 ∨ i = .allReduce ∧ op = 3) → ∀ r c s x bs u, collWaits s r c op x →
    let k := (x.rank + x.members.length - 1) % max 1 x.members.length
    x.srcAcc = false → x.pack = none → bs.length = x.chunk → bs ≠ [] → loads (begun s r c) x.ctx (x.src.toNat + k * x.chunk) bs u →
    Reaches (i r c) s (fun t => t.mem = s.mem ∧ t.cells = s.cells ∧ (t.ceChan r c).xfer = some { x with
      started := true, queue := x.queue ++ ceFrames x c opColl (x.member (x.rank + 1)) (x.roff.toNat + k * x.chunk) bs })) ∧
  (∀ i op, (i = Instr.allGather ∧ op = 2 ∨ i = .allToAll ∧ op = 4) → ∀ r c s x b0 b1 u v w, collWaits s r c op x →
    x.srcAcc = false → x.pack = none → x.members.length = 2 → x.rank = 0 → b0.length = x.chunk → b1.length = x.chunk → b1 ≠ [] →
    loads (begun s r c) x.ctx x.src.toNat b0 u → u.ceWrite r c x.ctx x.dst.toNat b0 = .ok v →
    loads v x.ctx (x.src.toNat + (if op = 4 then x.chunk else 0)) b1 w →
    Reaches (i r c) s (fun t => t.mem = v.mem ∧ t.cells = s.cells ∧ (t.ceChan r c).xfer = some { x with
      started := true, queue := x.queue ++ ceFrames x c opColl (x.member 1) x.roff.toNat b1 })) ∧
  (∀ r c s x l u w, collWaits s r c 6 x → (s.region r).molt = 0 → (∀ k, k ≠ c → (s.ceChan r k).xfer = none ∧ (s.ceChan r k).held = []) →
    (begun s r c).readMap r c x = .ok (l, u) → (begun s r c).ecc = [] → (∀ e ∈ l, e.from' ≠ s.node) →
    (s.region r).fwd.length ≤ 256 → s.findWin x.job (x.member x.rank).2 = some w →
    let due := (l.filter (fun e => decide (e.dest = s.node))).map (fun e => (e.win, e.noff, e.len))
    s.allDue { x with due := due } = false →
    Reaches (.permuteCollective r c) s (fun t => t.mem = s.mem ∧ (t.region r).molt = 1 ∧ (t.region r).moltNodes = x.members.map (·.1) ∧
      (t.region r).epoch = (s.region r).epoch ∧
      (t.ceChan r c).xfer = some { x with started := true, epoch := (s.region r).epoch, due := due, moved := [] })) ∧
  (∀ r c s x, r < 8 → c < 16 → (s.ceChan r c).xfer = some x → x.op = 5 → x.started = true → (s.ceChan r c).frozen = false →
    s.host.ctxBusy ≠ some (x.ctx, 7) → x.hopSent ≤ x.hops → x.hopSent + 1 < x.members.length →
    let dest := if x.fmt = 0xFF then x.rank + 1 else x.rank + x.members.length - 1
    let j := x.hopSent + 1
    (∀ bs u, j = 1 → x.srcAcc = false → x.pack = none → bs.length = x.chunk → loads s x.ctx x.src.toNat bs u →
      Reaches (.ringHopSend r c) s (fun t => t.mem = s.mem ∧ (t.ceChan r c).xfer = some { x with
        hopSent := 1, queue := x.queue ++ ceFrames x c opColl (x.member dest) (x.roff.toNat + x.chunk) bs })) ∧
    (∀ b bs u v, 2 ≤ j → b.length = 8 → loads s x.ctx x.consVa.toNat b u → j - 1 ≤ leNat b → bs.length = x.chunk →
      loads u x.ctx (x.dst.toNat + (j - 1) % 2 * x.chunk) bs v →
      Reaches (.ringHopSend r c) s (fun t => t.mem = s.mem ∧ (t.ceChan r c).xfer = some { x with
        hopSent := j, queue := x.queue ++ ceFrames x c opColl (x.member dest) (x.roff.toNat + j % 2 * x.chunk) bs })) ∧
    (∀ b u, 2 ≤ j → b.length = 8 → loads s x.ctx x.consVa.toNat b u → leNat b < j - 1 → Reaches (.ringHopSend r c) s (fun t => t = u))) ∧
  (∀ q k d s va b l u v, cmdWaits s q k 5 d = true → (s.ctx d.ctx).st = 1 → s.regionUp (leAt d.bytes 24 1) = true →
    s.sideOk d.ctx (leAt d.bytes 24 1) = true → s.boundTo d.ctx = none →
    (s.begin q k).resolve d.ctx (.queue q) (BitVec.ofNat 64 (leAt d.bytes 16 8)) 128 = (.ok va, s.begin q k) → b.length = 128 →
    loads (s.begin q k) d.ctx va b u →
    let r := leAt d.bytes 24 1
    let c := leAt b 2 1 % 16
    s.ceBound r c d.ctx = true → (s.ceChan r c).busy = false → (s.ceChan r c).frozen = false → descOk b = true → u.holdOk d.ctx b = true →
    l.length = 8 * leAt b 4 2 →
    (let x := { descXfer b d.ctx (s.job d.ctx) (s.region r).epoch [] with cmd := some (q, k) }
     loads (u.setCeChan r c { u.ceChan r c with busy := true, xfer := some x }) d.ctx (leAt b 8 8) l v →
     Reaches (.collective q k) s (fun t => t.mem = s.mem ∧ t.cells = s.cells ∧ cmdHas t q k d none ∧ (t.ceChan r c).busy = true ∧
      (t.ceChan r c).xfer = some { x with members := memberList (leAt b 4 2) l })))

/-! ### Management frames -/

/-- A MGMT frame of an operation that reaches the device by a link with a sound header: the state after its reception. -/
def mgmtTaken (s : State) (l : Nat) (f : Frame) (mop : Nat) (y : State) : Prop :=
  (linkOk l = true ∨ l = selfLink) ∧ f.tx.op = opMgmt ∧ f.tx.rsp = false ∧ f.tx.dst = s.node ∧ leAt f.payload 0 1 = mop ∧
  reqBad f = false ∧ f.tx.enc = false ∧ ∃ z, s.receive l f = .ok z ∧ y = z.returnCredit l f

/-- The five management operations. -/
def mgmtRows : List (Nat × (Nat → Frame → Instr)) :=
  [(1, .csrRead), (2, .csrWrite), (3, .memRead), (4, .memWrite), (5, .quarClear)]

/-- Management frames (R283, R284, R318, Tables 9-2, 9-3, 10-3): one of a sender without management rights is refused with PERM, one
out of its limits with BADREQ; register words are read and written in order, memory bytes read and written, an address
outside refused with BOUNDS, a write that reaches a cocoon's memory with PERM; QUAR_CLEAR ends a port's quarantine. -/
def Obligations.ManagementFrames : Prop :=
  (∀ i ∈ mgmtRows, ∀ l f s y, mgmtTaken s l f i.1 y →
    (y.mgmtFrom l f.tx.src = false → Reaches (i.2 l f) s (fun t => t = y.answer (linkSlice l) f nakPerm [])) ∧
    (y.mgmtFrom l f.tx.src = true → mgmtOk f.payload = false → Reaches (i.2 l f) s (fun t => t = y.answer (linkSlice l) f nakBadreq []))) ∧
  (∀ l f s y mop, mgmtTaken s l f mop y → y.mgmtFrom l f.tx.src = true → mgmtOk f.payload = true →
    let n := leAt f.payload 2 2
    let a := leAt f.payload 8 8
    (mop = 1 → inCsr a n = true → Reaches (.csrRead l f) s (fun t =>
      t = (y.readWords (a - csrBase) n).2.answer (linkSlice l) f 0 (y.readWords (a - csrBase) n).1)) ∧
    (mop = 1 → inCsr a n = false → Reaches (.csrRead l f) s (fun t => t = y.answer (linkSlice l) f nakBounds [])) ∧
    (mop = 2 → inCsr a n = true → Reaches (.csrWrite l f) s (fun t =>
      t = (y.writeWords (a - csrBase) (bytesWords n (f.payload.drop 16))).answer (linkSlice l) f 0 [])) ∧
    (mop = 3 → y.debugRange a n = true → y.ecc = [] → Reaches (.memRead l f) s (fun t => t.mem = s.mem ∧ t.cells = s.cells ∧
      ∃ z : State, t = z.answer (linkSlice l) f 0 ((List.range n).map (fun i => y.debugByte (a + i))))) ∧
    (mop = 4 → y.debugRange a n = true → y.touchesCocoon a n = true →
      Reaches (.memWrite l f) s (fun t => t = y.answer (linkSlice l) f nakPerm [] ∧ t.mem = s.mem)) ∧
    (mop = 4 → y.debugRange a n = true → y.touchesCocoon a n = false → y.ecc = [] → noBells y [(a, n)] →
      Reaches (.memWrite l f) s (fun t => wroteOnly s t a (f.payload.drop 16) ∧ t.cells = s.cells)) ∧
    (mop = 5 → Reaches (.quarClear l f) s (fun t => (t.link a).quar = false ∧ (t.link a).viol = 0 ∧ t.mem = s.mem ∧ t.cells = s.cells)))

/-! ### The step machinery (chapter 6) -/

/-- Step commands (R190, R194, Tables 6-12, 9-6): STEP_LOAD of a sound program loads it, with its instars, in every region it names;
of one that breaks a limit loads it in none and ends with the reason; STEP_GO is noted by every region that holds
the context's program, and is refused where one holds none; STEP_UNLOAD takes the program out of its regions. -/
def Obligations.StepCommands : Prop :=
  (∀ q k c s va p u, cmdWaits s q k 6 c = true → (s.ctx c.ctx).st = 1 →
    let rs := maskRegions (leAt c.bytes 24 1)
    (∀ r ∈ rs, s.regionUp r = true ∧ s.sideOk c.ctx r = true) →
    (s.begin q k).resolve c.ctx (.queue q) (BitVec.ofNat 64 (leAt c.bytes 16 8)) 64 = (.ok va, s.begin q k) → s.ecc = [] →
    (s.begin q k).loadProgram q k c.ctx (BitVec.ofNat 64 (leAt c.bytes 16 8)) va = .ok (some p, u) →
    (u.loadReason c.ctx rs p = none → Reaches (.stepLoad q k) s (fun t => cmdHas t q k c (some (stOk, 0)) ∧ t.mem = s.mem ∧ t.cells = s.cells ∧
      (∀ r ∈ rs, (t.region r).skip.st = 1 ∧ (t.region r).skip.ctx = c.ctx ∧ (t.region r).skip.prog = some p ∧
        (t.region r).skip.runs = [] ∧ (t.region r).instars = freshInstars p) ∧
      (∀ r, r ∉ rs → t.region r = s.region r))) ∧
    (∀ x, u.loadReason c.ctx rs p = some x → Reaches (.stepLoad q k) s (fun t =>
      cmdHas t q k c (some (stStepRefused, BitVec.ofNat 8 x)) ∧ t.mem = s.mem ∧
      ∀ r, (t.region r).skip.st = (s.region r).skip.st ∧ (t.region r).skip.prog = (s.region r).skip.prog ∧
        (t.region r).instars = (s.region r).instars))) ∧
  (∀ q k c s, cmdWaits s q k 7 c = true → (s.ctx c.ctx).st = 1 →
    let rs := maskRegions (leAt c.bytes 24 1)
    (rs ≠ [] → (∀ r ∈ rs, s.holdsProgram c.ctx r = true) → Reaches (.stepGo q k) s (fun t => cmdHas t q k c none ∧ t.mem = s.mem ∧
      ∀ r, t.region r = if r ∈ rs then { s.region r with skip := { (s.region r).skip with goCmds := (s.region r).skip.goCmds ++ [(q, k)] } }
        else s.region r)) ∧
    ((∃ r ∈ rs, s.holdsProgram c.ctx r = false) → Reaches (.stepGo q k) s (fun t =>
      cmdHas t q k c (some (stBadCmd, 0)) ∧ t.regions = s.regions ∧ t.mem = s.mem))) ∧
  (∀ q k c s, cmdWaits s q k 8 c = true →
    let rs := (maskRegions (leAt c.bytes 24 1)).filter (fun r => s.holdsProgram c.ctx r)
    (∀ r ∈ rs, (s.region r).skip.st ≠ 2 ∧ (s.region r).skip.st ≠ 3) →
    Reaches (.stepUnload q k) s (fun t => cmdHas t q k c (some (stOk, 0)) ∧ t.mem = s.mem ∧
      (∀ r ∈ rs, (t.region r).skip.st = 0 ∧ (t.region r).skip.prog = none ∧ (t.region r).instars = []) ∧
      ∀ r, r ∉ rs → t.region r = s.region r))

/-- The next run of a stream is of a kind and may start; it has not run before in the step (R191). -/
def taskReady (s : State) (r q kind : Nat) (p : Program) (d : TaskDesc) (k m : Nat) : Prop :=
  r < 8 ∧ s.nextRun r q = some (p, d, k, m) ∧ d.kind = kind ∧ s.mayRun r q = true ∧ s.waitCode r p (q, k, m) d = 0 ∧
  s.runOf (r, q, k, m) = none ∧ q < (s.region r).skip.streams.length

/-- A run has started: it is noted last, and its stream stands behind it. -/
def runStarted (s t : State) (r q k m : Nat) : Prop :=
  (∃ l x, (t.region r).skip.runs = l ++ [x] ∧ l = (s.region r).skip.runs ∧ x.q = q ∧ x.t = k ∧ x.m = m) ∧
  ((t.region r).skip.streams.getD q {}).pos = ((s.region r).skip.streams.getD q {}).pos + 1

/-- The state in which a forward or recompute task of micro-batch `m` submits its launches. -/
def launchState (s : State) (r kind k m : Nat) (d : TaskDesc) : State :=
  if kind = 1 then (s.addRun r 0 k m d.rung).holdKept r d m else s.addRun r 0 k m d.rung

/-- Layer and weight tasks (R172, R175, R178, R182, R186, R191, R192, Table 6-11): a task that nothing holds starts, and its stream moves
on; FWD and RECOMP with a launch record have its set stand last among its block's launches with the micro-batch, the task
and the binding record in its last four parameters, muted for RECOMP; BWD copies its accumulator in, and keeps what it
starts from; WPREP makes the copy in its format. -/
def Obligations.LayerTasks : Prop :=
  (∀ i kind, (i = Instr.fwdTask ∧ kind = 1 ∨ i = .recompTask ∧ kind = 2) → ∀ r p d k m s,
    taskReady s r 0 kind p d k m → s.startRung r p d m = d.rung →
    (d.nlaunch = 0 → Reaches (i r) s (fun t => runStarted s t r 0 k m ∧ t.mem = s.mem ∧ t.blocks = s.blocks ∧ t.cells = s.cells)) ∧
    (∀ u b v va, d.nlaunch = 1 →
      let n := (s.region r).skip.ctx
      let bind := d.bind.toNat + 64 * (m % 4)
      let z := launchState s r kind k m d
      z.skipWrite r 0 bind (z.bindRecord r p d m d.rung) = .ok u → b.length = 128 → loads u n d.launch.toNat b v →
      let rec' := b.take 112 ++ leBytes 4 m ++ leBytes 4 k ++ leBytes 8 bind
      let blk := launchBlock rec'
      v.resolve n (.stream r 0) (BitVec.ofNat 64 (leAt rec' 16 8)) 8 = (.ok va, v) → declOk rec' = true → blockRegion blk = r →
      v.blockUp blk = true →
      let x := { launchSet rec' v.nextId n (v.cid n) (.skipper r 0 k m) (BitVec.ofNat 64 va) m with mute := decide (kind = 2) }
      v.neverFits blk x = false →
      Reaches (i r) s (fun t => (t.block blk).launchQ ++ (t.block blk).arriving = (s.block blk).launchQ ++ (s.block blk).arriving ++ [x] ∧ (∀ b', b' ≠ blk → t.block b' = s.block b') ∧
        x.params.getD 12 0 = BitVec.ofNat 32 m ∧ x.params.getD 13 0 = BitVec.ofNat 32 k ∧ t.mem = v.mem ∧ t.cells = s.cells ∧
        ∃ y, t.runOf (r, 0, k, m) = some y ∧ y.open' = 1 ∧ y.rung = d.rung ∧ y.done = false))) ∧
  (∀ r p d k m s, taskReady s r 0 3 p d k m → s.startRung r p d m = d.rung → d.nlaunch = 0 →
    (p.accumulator d.accum = none → Reaches (.bwdTask r) s (fun t => runStarted s t r 0 k m ∧ t.mem = s.mem ∧ t.blocks = s.blocks)) ∧
    (∀ a u w, p.accumulator d.accum = some a → p.fromLast k m d.accum = false →
      (s.addRun r 0 k m d.rung).skipCopy (r, 0, k, m) a.b.toNat a.a.toNat (2 * a.elems) = .ok u →
      u.skipCopy (r, 0, k, m) a.d.toNat a.c.toNat a.elems = .ok w → s.ecc = [] →
      Reaches (.bwdTask r) s (fun t => t = w.saveAccum (r, 0, k, m) a ∧ t.mem = w.mem ∧ runStarted s t r 0 k m))) ∧
  (∀ r p d k m s, taskReady s r 2 4 p d k m → s.startRung r p d m = d.rung → d.nlaunch = 0 →
    (p.weight d.tensor = none ∨ d.wfmt = 2 → Reaches (.wprepTask r) s (fun t => runStarted s t r 2 k m ∧ t.mem = s.mem)) ∧
    (∀ w b u v, p.weight d.tensor = some w → d.wfmt ≠ 2 →
      let z := s.addRun r 2 k m d.rung
      let buf := (z.instarFor r d.tensor m p).2.1
      b.length = 2 * w.elems → loads z (s.region r).skip.ctx (copyAddr w buf 2) b u →
      u.skipWrite r 2 (copyAddr w buf d.wfmt) (narrow d.wfmt (bf16Vals b)) = .ok v →
      Reaches (.wprepTask r) s (fun t => t = v.noteCopy r d.tensor buf d.wfmt ∧ t.mem = v.mem ∧ runStarted s t r 2 k m)))

/-- Tasks of the exchange streams and the FOLD (R189, R194, R198 to R201, Tables 6-9, 6-13): COLL and RING give their channel the
transfer of their descriptor, with the epoch in force; SEND gives the lowest idle channel the frames of its gradient
behind their header; a FOLD waits from its start, and counts as held, with FOLD_WAIT set, while the buffer that it would
write still has references. -/
def Obligations.ExchangeTasks : Prop :=
  (∀ i kind, (i = Instr.collTask ∧ kind = 6 ∨ i = .ringTask ∧ kind = 7) → ∀ r p d k m s b l u v,
    taskReady s r 1 kind p d k m → s.collRoom (r, 1, k, m) d = true → d.nlaunch = 0 → p.weight d.tensor = none →
    s.startRung r p d m = d.rung →
    let n := (s.region r).skip.ctx
    b.length = 128 → loads (s.addRun r 1 k m d.rung) n d.arg.toNat b u →
    let c := leAt b 2 1 % 16
    let w := u.modRun (r, 1, k, m) (fun y => { y with open' := y.open' + 1 })
    s.ceBound r c n = true → (s.ceChan r c).frozen = false → descOk b = true → w.holdOk n b = true → l.length = 8 * leAt b 4 2 →
    let x := { descXfer b n (s.job n) (s.region r).epoch [] with task := some (1, k, m) }
    loads (w.setCeChan r c { w.ceChan r c with busy := true, xfer := some x }) n (leAt b 8 8) l v →
    Reaches (i r) s (fun t => runStarted s t r 1 k m ∧ t.mem = s.mem ∧ t.cells = s.cells ∧ (t.ceChan r c).busy = true ∧
      (t.ceChan r c).xfer = some { x with members := memberList (leAt b 4 2) l })) ∧
  (∀ r p d k m s c a b e u v, taskReady s r 3 8 p d k m → s.idleChannel r (s.region r).skip.ctx = some c → d.nlaunch = 0 →
    p.accumulator d.accum = some a → p.weight d.tensor = none → s.startRung r p d m = d.rung →
    let n := (s.region r).skip.ctx
    let x : Xfer := { Xfer.blank xfSend n (s.job n) with
      started := true, members := [(addrNode d.arg, addrWindow d.arg)], task := some (3, k, m), epoch := (s.region r).epoch }
    let z := ((s.addRun r 3 k m d.rung).modRun (r, 3, k, m) (fun y => { y with open' := y.open' + 1 }))
    let z' := z.setCeChan r c { z.ceChan r c with busy := true, xfer := some x }
    let work := p.sendsWorking d.accum
    b.length = 2 * a.elems → e.length = a.elems → loads z' n (if work then a.a.toNat else a.b.toNat) b u →
    loads u n (if work then a.c.toNat else a.d.toNat) e v →
    Reaches (.sendTask r) s (fun t => runStarted s t r 3 k m ∧ t.mem = s.mem ∧ (t.ceChan r c).busy = true ∧
      (let data := sendBytes (s.csrAt (oStep n)).toNat (lookupD {} (s.region r).instars d.tensor).current a.id d false (List.range a.elems) b e
       (t.ceChan r c).xfer = some { x with
        queue := ceFrames { x with epoch := 0 } c opPut (addrNode d.arg, addrWindow d.arg) (addrOffset d.arg).toNat data }))) ∧
  (∀ r p d k m s, taskReady s r 2 5 p d k m → d.nlaunch = 0 → s.startRung r p d m = d.rung →
    Reaches (.foldTask r) s (fun t => runStarted s t r 2 k m ∧ t.mem = s.mem ∧ (∃ y, t.runOf (r, 2, k, m) = some y ∧ y.waiting = true ∧ y.done = false) ∧
      t.foldWaits r d.tensor = !s.refsFree r d.tensor ∧ (t.region r).instars = (s.region r).instars ∧
      ((∀ y ∈ (s.region r).skip.runs, y.waiting = true → y.held = true) →
        (t.region r).skip.foldsHeld = (s.region r).skip.foldsHeld + (if s.refsFree r d.tensor then 0 else 1))))

/-- FOLD_APPLY, FOLD_TIMEOUT and refetches (R189, R191, R201, R202, R349): a FOLD whose ready word has come and whose payload
belongs to it writes the new pairs to the free buffer and makes them the current instar, and has completed once its
launches have; one whose header does not, or that waits too long, stops the step; REFETCH_GO ends a refetch and has its
copies made again, and the time-out ends it. -/
def Obligations.FoldsAndRefetches : Prop :=
  (∀ r s p y d w h v b b0 r0 mk u1 u2 u3 u4 u5 u6 u7 u8, r < 8 → s.program r = some p → s.mayRun r 2 = true →
    s.nextFoldTask r (s.waitingFolds r p) [] = some (y, d) → p.weight d.tensor = some w → s.runOf (r, y.q, y.t, y.m) = some y →
    let n := (s.region r).skip.ctx
    let e := lookupD {} (s.region r).instars d.tensor
    let src := if e.curBuf then (w.b, w.d) else (w.a, w.c)
    let dst := if e.curBuf then (w.a, w.c) else (w.b, w.d)
    h.length = 32 → loads s n d.arg.toNat h u1 → v.length = 8 → loads u1 n (readyAddr d.arg h) v u2 → leNat v = readyWord h →
    b.length = payloadLen h → loads u2 n (d.arg.toNat + 32) b u3 →
    (leAt h 10 1 = 2 ∨ leAt h 10 1 = 3) → leAt h 0 4 = w.id.toNat → leAt h 12 2 = e.current.toNat →
    b0.length = 2 * w.elems → loads u3 n src.1.toNat b0 u4 → r0.length = w.elems → loads u4 n src.2.toNat r0 u5 →
    u5.skipMask (r, y.q, y.t, y.m) w = .ok (mk, u6) →
    let z := foldPairs (leAt h 10 1 == 3) 0 b0 r0 (sentElems w mk h b)
    z.2.2.1 = 0 → u6.skipWrite r 2 dst.1.toNat z.1 = .ok u7 → u7.skipWrite r 2 dst.2.toNat z.2.1 = .ok u8 →
    let e' := { e with
      current := e.current + 1, curBuf := !e.curBuf, prevValid := true, prevRefs := e.curRefs
      curRefs := e.future.headD 0, future := e.future.drop 1 }
    Reaches (.foldApply r) s (fun t => t.mem = u8.mem ∧ t.cells = s.cells ∧ (t.region r).skip.folds = (s.region r).skip.folds + 1 ∧
      (let x := lookupD {} (t.region r).instars d.tensor
       x = { e' with curRefs := x.curRefs, prevRefs := x.prevRefs } ∧ (p.readsIn d.tensor y.m = false → x = e')) ∧
      (∀ x, x ≠ d.tensor → lookupD {} (t.region r).instars x = lookupD {} (s.region r).instars x) ∧
      ∃ x, t.runOf (r, y.q, y.t, y.m) = some x ∧ x.applied = true ∧ x.done = decide (y.open' = 0) ∧ x.waiting = false)) ∧
  (∀ r s p y d w h v b u1 u2 u3, r < 8 → s.program r = some p → s.mayRun r 2 = true →
    s.nextFoldTask r (s.waitingFolds r p) [] = some (y, d) → p.weight d.tensor = some w → h.length = 32 →
    loads s (s.region r).skip.ctx d.arg.toNat h u1 → v.length = 8 → loads u1 (s.region r).skip.ctx (readyAddr d.arg h) v u2 →
    leNat v = readyWord h → b.length = payloadLen h → loads u2 (s.region r).skip.ctx (d.arg.toNat + 32) b u3 →
    (leAt h 10 1 ≠ 2 ∧ leAt h 10 1 ≠ 3 ∨ leAt h 0 4 ≠ w.id.toNat ∨
      leAt h 12 2 ≠ (lookupD {} (s.region r).instars d.tensor).current.toNat) →
    Reaches (.foldApply r) s (fun t => (t.region r).skip.st = 4 ∧ (t.region r).instars = (s.region r).instars)) ∧
  (∀ r s p x rest, r < 8 → s.program r = some p → s.mayRun r 2 = true → s.csrF (oReg r 0x11000) 16 8 ≠ 0 →
    (s.waitingFolds r p).filter (fun x => !s.refsFree r x.2.tensor || !s.foldReady r x.2) = x :: rest →
    Reaches (.foldTimeout r) s (fun t => (t.region r).skip.st = 4 ∧ (t.region r).instars = (s.region r).instars)) ∧
  (∀ r v s, r < 8 → takesWrite s (oReg r 0x60040) = true → bit v 31 = true →
    let z := s.setRegion r { s.region r with refetch := (s.region r).refetch.filter (fun f => decide (f.tensor ≠ fld v 0 10)) }
    let copies := ((s.region r).refetch.filter (fun f => decide (f.tensor = fld v 0 10))).flatMap (·.copies)
    Reaches (.refetchGo r v) s (fun t => t = z.remakeCopies r (fld v 0 10) copies ∧ (copies = [] → t = z))) ∧
  (∀ r x s f, r < 8 → s.csrF oErrCfg 16 8 ≠ 0 → (s.region r).refetch.find? (fun f => decide (f.tensor = x)) = some f → f.task = none →
    (s.region r).skip.streams.length = 4 →
    Reaches (.refetchTimeout r x) s (fun t => ((t.region r).skip.streams.getD 2 {}).frozen = true ∧
      ∀ f ∈ (t.region r).refetch, f.tensor ≠ x))

/-- The course of a step (R162 to R166, R195, R196, R203, Table 6-4): a step starts with its micro-batches placed, its home accumulators
at zero and its references taken; inputs that find no room stop it; a task whose work is out completes, its shard
descriptor written where it names one (R193), and one whose
watched tensors trip the ladder is counted for a promotion; END writes the report; the boundary makes every region of
the step ready for its next STEP_GO and counts the step. -/
def Obligations.StepCourse : Prop :=
  (∀ r s p n b u, r < 8 → s.program r = some p → s.mayBegin r = true → n = (s.region r).skip.ctx →
    b.length = 8 * p.mbCount → loads (s.applyB (oReg r 0x11000) 0xFFFF) n p.mbTable.toNat b u →
    let part := u.csrF (oReg r 0x11000) 0 16 * 0x100000 / p.inFlight / 65536 * 65536
    (∀ kept used w, placeAll p part 0 (tableOf b) = .ok (kept, used) →
      (u.setSkip r { loadReason := (s.region r).skip.loadReason, st := 2, ctx := n, prog := some p, mbs := tableOf b, goCmds := (s.region r).skip.goCmds,
                     kept := kept, keptHbm := (kept.filter (·.hbm)).length, keepMax := used / 65536 }).zeroAccums r p.tensors = .ok w →
      Reaches (.stepStart r) s (fun t => t.mem = w.mem ∧ t.cells = s.cells ∧ (t.region r).skip.st = 2 ∧ (t.region r).skip.kept = kept ∧
        (t.region r).skip.mbs = tableOf b ∧ (t.region r).skip.runs = [] ∧ (t.region r).skip.folds = 0)) ∧
    (∀ m, placeAll p part 0 (tableOf b) = .error m → Reaches (.stepStart r) s (fun t => (t.region r).skip.st = 4))) ∧
  (∀ r q k m s p x d, r < 8 → q < 4 → s.program r = some p → s.runOf (r, q, k, m) = some x → s.taskDesc (r, q, k, m) = some d →
    x.done = false → x.waiting = false → x.open' = 0 → x.tainted = false → x.steps = [] → s.mayRun r q = true → x.rung = d.rung →
    p.weight d.tensor = none → p.accumulator d.accum = none → x.copied = [] →
    (d.kind = 2 ∨ d.kind = 4 ∨ (6 ≤ d.kind ∧ d.kind ≤ 8) ∨ d.kind = 1 ∧ (∀ w ∈ d.watch, w = 0) →
      let z := if d.kind = 1 then s.applyB (oReg r 0x10100) 0x05FFFFFF else s
      let f := z.free.2.free.2.free.2
      (d.arg = 0 ∨ 3 < d.kind → Reaches (.skipperTaskComplete r q k m) s (fun t =>
        t.runOf (r, q, k, m) = some { x with done := true } ∧ t.mem = s.mem ∧ t.blocks = s.blocks)) ∧
      (∀ pa, d.arg ≠ 0 → d.kind ≤ 3 → s.ecc = [] → (f.range (s.region r).skip.ctx d.arg.toNat 32 .store).1 = .ok [(pa, 32)] →
        Reaches (.skipperTaskComplete r q k m) s (fun t => t.runOf (r, q, k, m) = some { x with done := true } ∧ t.blocks = s.blocks ∧
          leAt (t.bytes pa 32) 4 2 = m % 65536 ∧ leAt (t.bytes pa 32) 6 1 = (rungFmts d x.rung).2.2 % 256 ∧
          leAt (t.bytes pa 32) 7 1 = x.rung % 256 ∧ ∀ a, a < pa ∨ pa + 32 ≤ a → t.byte a = s.byte a))) ∧
    (let z := s.applyB (oReg r 0x10100) 0x05FFFFFF
     let w := z.watchOf r (s.region r).skip.ctx p x.accIds d.watch
     d.kind = 1 → w.fails = none → trips (z.csrAt (oReg r 0x10100)) w = true → x.rung < 3 → (s.region r).ladder.log.length < 64 →
      Reaches (.skipperTaskComplete r q k m) s (fun t => (t.region r).ladder.promotions = (s.region r).ladder.promotions + 1 ∧
        (t.region r).ladder.log = (s.region r).ladder.log ++ [z.ladderRec (r, q, k, m) d x.rung (nextRung x.rung) w false]))) ∧
  (∀ r p d k m s u, taskReady s r 3 9 p d k m → s.allDone r p = true → (s.addRun r 3 k m (s.startRung r p d m)).writeReport r 0 = .ok u → s.ecc = [] →
    Reaches (.endTask r) s (fun t => (t.region r).skip.st = 3 ∧ t.mem = u.mem ∧ t.cells = s.cells)) ∧
  (∀ n s, n < 64 → s.stepRegions n ≠ [] → (∀ r ∈ s.stepRegions n, (s.region r).skip.st = 3) → (s.ctx n).st = 1 →
    s.csrF oChryCfg 0 6 ≠ n → find s.csrPend (oStep n) = none →
    (∀ r, r < 8 → find s.csrPend (oReg r 0x11000) = none) →
    Reaches (.stepBoundary n) s (fun t => t.mem = s.mem ∧ t.cells = s.cells ∧
      (∀ r ∈ s.stepRegions n, (t.region r).skip.st = 1 ∧ (t.region r).skip.runs = [] ∧ (t.region r).ladder.log = [] ∧
        (t.region r).skip.goCmds = (s.region r).skip.goCmds.drop 1) ∧
      (∀ lead rest, s.progRegions n = lead :: rest → s.csrF (oReg lead 0x11000) 24 1 = 1 →
        t.csrAt (oStep n) = s.csrAt (oStep n) + 1)))

/-! ### Illegal forms -/

/-- The group of a slot comes to decode its instruction: it may issue, no breakpoint stands there, the fetch delivers the word, and it
carries the row's opcode. -/
def decodesAt (s : State) (g : GRef) (opc : Nat) (w : DWord) : Bool :=
  gOk g && match s.group g with
  | none => false
  | some v0 =>
    let v := reconverge (2 * v0.stack.length + 1) v0
    v0.mayIssue && !decide (s.host.ctxBusy = some (v0.ctx, 7)) &&
    (v.halted || v.bpPass || !(s.setGroup g v).breakAt g.cell v.pc) && (s.fetchAt g v opc w 0).1.isNone && decide (iOpc w = opc)

/-- The group is frozen with ILLEGAL_OP at its instruction, which has no effect (R52, R63). -/
def frozenIllegal (t : State) (g : GRef) (v : Group) : Prop :=
  ∃ u, t.group g = some u ∧ u.st = .frozen ∧ u.code = 0x0109 ∧ u.pc = v.pc ∧ u.vregs = v.vregs ∧ u.sregs = v.sregs ∧
    u.preds = v.preds ∧ u.flags = v.flags

/-- Predicate p7 (R65): it reads as all ones in every group, a write to it is discarded, an instruction whose destination field names it
(ISETP, FSETP, VOTE, S.SETP, WAIT) freezes its group with ILLEGAL_OP, and p7 with PNEG = 0 guards nothing away. The same freeze meets S.RDSPR of an
unlisted special register and S.WRSPR of any but FLAGS. -/
def Obligations.PredicateSevenAndIllegalForms : Prop :=
  (∀ v : Group, v.pred 7 = allThreads ∧ (∀ m x, v.setP 7 m x = v) ∧
    ∀ w, iPred w = 7 → iPneg w = false → v.guardBits w = allThreads ∧ v.active w = v.mask) ∧
  (∀ i opc, (i = Instr.isetp ∧ opc = 0x12 ∨ i = .fsetp ∧ opc = 0x45 ∨ i = .vote ∧ opc = 0x92 ∨ i = .sSetp ∧ opc = 0xE9 ∨
      i = .wait ∧ opc = 0xF8) → ∀ g w s v, decodesAt s g opc w = true → s.readyGroup g = some v →
    iDst w = 7 → (opc = 0x92 → fld w 0 2 ≠ 2) → Reaches (i g w) s (fun t => frozenIllegal t g v ∧ t.mem = s.mem)) ∧
  (∀ g w s v, decodesAt s g 0xEB w = true → s.readyGroup g = some v → 9 < fld w 0 8 →
    Reaches (.sRdspr g w) s (fun t => frozenIllegal t g v ∧ t.mem = s.mem)) ∧
  (∀ g w s v, decodesAt s g 0xEC w = true → s.readyGroup g = some v → fld w 0 8 ≠ 6 →
    Reaches (.sWrspr g w) s (fun t => frozenIllegal t g v ∧ t.mem = s.mem))

/-! ### Rules of the whole block -/

/-- Branches and barriers that break a rule (R47, R50): a divergent BRA that finds the stack holding 32 entries freezes its group with
DIV_OVERFLOW, mask, program counter and stack as they were; a BAR with a live thread outside the mask freezes it with
BAR_PARTIAL and does not arrive; one whose id is not below the set's count with BAR_RANGE. -/
def Obligations.BranchAndBarrierFaults : Prop :=
  (∀ g w s v, canIssue s g 0xF1 w 0 (((shZ (iA w)).and (shZ (iB w))).and
      ((Shape.when (if iPred w == 7 && !iPneg w then roff w == 0 else decide (1 ≤ roff w))).and (shGuard w))) noCheck anyRoom = true →
    s.readyGroup g = some v → v.mask &&& v.guardBits w ≠ 0 → v.mask &&& ~~~(v.guardBits w) ≠ 0 → 32 ≤ v.stack.length →
    Reaches (.bra g w) s (fun t => ∃ u, t.group g = some u ∧ u.st = .frozen ∧ u.code = 0x0107 ∧ u.mask = v.mask ∧ u.pc = v.pc ∧
      u.stack = v.stack)) ∧
  (∀ g w s v, canIssue s g 0xF6 w 0 ((ctlShape w (iMod w < 16)).and (shWhole w)) noCheck anyRoom = true → s.readyGroup g = some v →
    (v.mask ≠ v.live → Reaches (.bar g w) s (fun t => (∃ u, t.group g = some u ∧ u.st = .frozen ∧ u.code = 0x0103 ∧ u.pc = v.pc) ∧
      (t.block (cellBlock g.cell)).bars = (s.block (cellBlock g.cell)).bars)) ∧
    (∀ x, v.mask = v.live → s.setOf (cellBlock g.cell) v.setId = some x → x.bars ≤ fld w 0 4 →
      Reaches (.bar g w) s (fun t => (∃ u, t.group g = some u ∧ u.st = .frozen ∧ u.code = 0x0104 ∧ u.pc = v.pc) ∧
        (t.block (cellBlock g.cell)).bars = (s.block (cellBlock g.cell)).bars)))

/-- Invalidation of the caches (R219, R240): the admission of a group set leaves the line caches of the cells that receive its groups
and the whole block cache empty, and the instruction cache too where its launch carries the bit; a write of 1 to
BLK_ICACHE_INV.GO empties the instruction cache. A fetch whose sector the instruction cache does not hold reads it at its coherence
point, so no fetch takes a line from before an invalidation. -/
def Obligations.CachesInvalidated : Prop :=
  (∀ b s x rest, b < 640 → (s.block b).launchQ = x :: rest →
    (s.applyMaxGroups b).blockUp b = true → (s.applyMaxGroups b).neverFits b x = false →
    (s.applyMaxGroups b).fitsNow b x = true → s.sideOk x.ctx (blockRegion b) = true → (s.ctx x.ctx).st = 1 → s.host.ctxBusy ≠ some (x.ctx, 7) →
    Reaches (.groupSetAdmit b) s (fun t => (t.block b).cache = [] ∧ (x.icinv = true → (t.block b).icache = []) ∧
      (x.icinv = false → (t.block b).icache = (s.block b).icache) ∧
      ∃ y, y ∈ (t.block b).sets ∧ y.id = x.id ∧ y.placed.length = x.groups ∧ ∀ p ∈ y.placed, (t.cell (b * 16 + p.1)).lineCache = [])) ∧
  (∀ b v s, b < 640 → takesWrite s (oBlk b 0x304) = true → bit v 0 = true →
    Reaches (.icacheInvalidate b v) s (fun t => (t.block b).icache = [] ∧ t.mem = s.mem ∧ t.cells = s.cells)) ∧
  (∀ (s : State) b sec, find (s.block b).icache sec = none → (s.textSector b sec).1 = (s.bytes sec 32, true) ∧
    ∀ c, (s.textSector b sec).2.bytes c 32 = s.bytes c 32)

/-- A step takes the command at the front of the queue and runs it on the state with the queue's rest; with no command
waiting the block idles (the model's choice, log entry 17). -/
def Obligations.StepTakesFront : Prop :=
  (∀ c rest s, s.pending = c :: rest → step s = exec c { s with pending := rest }) ∧
  (∀ s, s.pending = [] → step s = .next s)

/-- The machine after reset (R17, R26, R383, R384): phase 1, no region in service, every context, queue, fence, cocoon and key slot empty,
memory all zero (the model's choice, log entry 58) and in its canonical form, no command waiting; and the same for any
fuses, which alone a reset keeps. -/
def Obligations.ResetLeaves : Prop :=
  ∀ f, let s := State.resetWith f
    s.fuses = f ∧ s.pending = [] ∧ memWf s.mem = true ∧ (∀ a, s.raw a = 0) ∧ s.chip.inService = 0 ∧ s.boot.phase = 1 ∧
    (∀ g, s.group g = none) ∧ (∀ n, (s.ctx n).st = 0) ∧ (∀ q, (s.queue q).running = [] ∧ (s.queue q).parked = true) ∧
    (∀ n, (s.fence n).st = 0) ∧ (∀ c, (s.cocoon c).st = 0) ∧ (∀ k, (s.keySlot k).valid = false) ∧
    (∀ l, (s.link l).up = false) ∧ (∀ o, s.csrAt o = resetWord f o) ∧ (∀ o, s.csrRead o = s.csrAt o) ∧
    State.reset = State.resetWith Fuses.default

/-- Every command runs (R10, R11, Table 9-1): a well-formed command takes every state to a next one, but for an upset of more bits than
R230 describes, in a row that reads a protected word; one that names what the device does not have stops as such; no command is refused. -/
def Obligations.EveryCommandRuns : Prop :=
  (∀ i s, i.wf = true → (∃ t, exec i s = .next t) ∨ exec i s = .fault .undescribedUpset) ∧
  (∀ i s, i.wf = false → exec i s = .fault .noSuchUnit) ∧
  (∀ i s, exec i s = .fault .undescribedUpset →
    (∃ g w u, i = .st g w u) ∨ (∃ g k u, i = .loadDataReturn g k u) ∨ (∃ r u, i = .accFoldGroup r u) ∨ ∃ r h o u, i = .scrubRead r h o u)

/-- No step, a reset among them, changes the fuses (R26) or the commands that wait behind the one it takes. -/
def Obligations.FusesAndQueueKept : Prop :=
  ∀ s t, step s = .next t → t.fuses = s.fuses ∧ t.pending = s.pending.drop 1

/-- Memory stays in its canonical form: every step from a state whose memory lists its bytes in rising order, none of them zero, gives
such a state, so that equal memories are equal data. -/
def Obligations.MemoryStaysCanonical : Prop :=
  ∀ s t, memWf s.mem = true → step s = .next t → memWf t.mem = true
end

