-- ==== Sys2Proof/Laws/Store.lean ====
section
/-! SUPPORT. What the map operations of Machine/Store.lean do: a read after a write, at the key written and at
every other key, and the canonical form that every write keeps. -/

namespace Sys2Proof.Machine

variable {α : Type}

theorem find_drop (m : SMap α) (k j : Nat) : find (drop m k) j = if j = k then none else find m j := by
  induction m with
  | nil => simp [drop, find]
  | cons e r ih =>
    obtain ⟨a, v⟩ := e
    by_cases h : k = a <;> by_cases hj : j = a <;> by_cases hk : j = k <;> simp_all [drop, find]

theorem find_place (m : SMap α) (k j : Nat) (v : α) (h : find m k = none) :
    find (place m k v) j = if j = k then some v else find m j := by
  induction m with
  | nil => simp [place, find]
  | cons e r ih =>
    obtain ⟨a, w⟩ := e
    have ha : k ≠ a := by intro e; simp [find, e] at h
    have hr : find r k = none := by simpa [find, ha] using h
    by_cases hk : k < a
    · simp [place, hk, find]
    · by_cases hj : j = a
      · have : j ≠ k := by omega
        simp [place, hk, find, hj]; omega
      · simp [place, hk, find, hj, ih hr]

/-- A read after `put`. -/
@[simp] theorem find_put (m : SMap α) (k j : Nat) (v : α) :
    find (put m k v) j = if j = k then some v else find m j := by
  rw [put, find_place _ _ _ _ (by simp [find_drop]), find_drop]
  split <;> simp_all

theorem lookupD_eq_find (d : α) (m : SMap α) (k : Nat) : lookupD d m k = (find m k).getD d := by
  induction m with
  | nil => rfl
  | cons e r ih => obtain ⟨a, v⟩ := e; by_cases h : k = a <;> simp [lookupD, find, h, ih]

/-- A read after `insertD`. -/
@[simp] theorem lookupD_insertD [DecidableEq α] (d : α) (m : SMap α) (k j : Nat) (v : α) :
    lookupD d (insertD d m k v) j = if j = k then v else lookupD d m j := by
  simp only [lookupD_eq_find, insertD]
  by_cases hv : v = d
  · simp only [hv, if_true, find_drop]; split <;> rfl
  · simp only [hv, if_false, find_place _ _ _ _ (show find (drop m k) k = none by simp [find_drop]), find_drop]
    split <;> simp_all

/-! ### The canonical form -/

theorem risingFrom_mono {a b : Nat} (h : a ≤ b) : ∀ {m : SMap α}, risingFrom (some b) m = true → risingFrom (some a) m = true
  | [], _ => rfl
  | (k, _) :: _, hm => by
    simp only [risingFrom, Bool.and_eq_true, decide_eq_true_eq] at hm ⊢
    exact ⟨by omega, hm.2⟩

theorem rising_of_from {l : Nat} : ∀ {m : SMap α}, risingFrom (some l) m = true → rising m = true
  | [], _ => rfl
  | (_, _) :: _, hm => by simp [risingFrom, rising] at hm ⊢; exact hm.2

theorem risingFrom_drop (k : Nat) : ∀ (l : Nat) (m : SMap α), risingFrom (some l) m = true → risingFrom (some l) (drop m k) = true
  | _, [], _ => rfl
  | l, (a, v) :: r, h => by
    simp [risingFrom] at h
    by_cases e : k = a
    · simp only [drop, e, if_true]
      exact risingFrom_drop a l r (risingFrom_mono (Nat.le_of_lt h.1) h.2)
    · simp only [drop, e, if_false, risingFrom, Bool.and_eq_true, decide_eq_true_eq]
      exact ⟨h.1, risingFrom_drop k a r h.2⟩

theorem risingFrom_place (k : Nat) (v : α) : ∀ (l : Nat) (m : SMap α), l < k → find m k = none →
    risingFrom (some l) m = true → risingFrom (some l) (place m k v) = true
  | l, [], h, _, _ => by simp [place, risingFrom, h]
  | l, (a, w) :: r, h, hf, hm => by
    simp [risingFrom] at hm
    have ha : k ≠ a := by intro e; simp [find, e] at hf
    have hr : find r k = none := by simpa [find, ha] using hf
    by_cases e : k < a
    · simp [place, e, risingFrom, h, hm]
    · simp only [place, e, if_false, risingFrom, Bool.and_eq_true, decide_eq_true_eq]
      exact ⟨hm.1, risingFrom_place k v a r (by omega) hr hm.2⟩

theorem rising_drop {m : SMap α} (k : Nat) (h : rising m = true) : rising (drop m k) = true := by
  induction m with
  | nil => rfl
  | cons e r ih =>
    obtain ⟨a, v⟩ := e
    have h' : risingFrom (some a) r = true := h
    by_cases e : k = a
    · simp only [drop, e, if_true]; exact rising_of_from (risingFrom_drop a a r h')
    · simp only [drop, e, if_false]; exact risingFrom_drop k a r h'

theorem rising_place {m : SMap α} (k : Nat) (v : α) (hf : find m k = none) (h : rising m = true) :
    rising (place m k v) = true := by
  cases m with
  | nil => rfl
  | cons e r =>
    obtain ⟨a, w⟩ := e
    have ha : k ≠ a := by intro e; simp [find, e] at hf
    have hr : find r k = none := by simpa [find, ha] using hf
    by_cases e : k < a
    · simp only [place, e, if_true]
      show risingFrom (some k) ((a, w) :: r) = true
      simp only [risingFrom, Bool.and_eq_true, decide_eq_true_eq]
      exact ⟨e, h⟩
    · simp only [place, e, if_false]
      exact risingFrom_place k v a r (by omega) hr h

/-- `put` keeps the keys strictly rising. -/
theorem rising_put {m : SMap α} (k : Nat) (v : α) (h : rising m = true) : rising (put m k v) = true :=
  rising_place k v (by simp [find_drop]) (rising_drop k h)

theorem all_drop (p : Nat × α → Bool) (k : Nat) {m : SMap α} (h : m.all p = true) : (drop m k).all p = true := by
  induction m with
  | nil => rfl
  | cons e r ih =>
    obtain ⟨a, v⟩ := e
    simp at h
    by_cases e : k = a <;> simp_all [drop]

theorem all_place (p : Nat × α → Bool) (k : Nat) (v : α) (hp : p (k, v) = true) {m : SMap α} (h : m.all p = true) :
    (place m k v).all p = true := by
  induction m with
  | nil => simp [place, hp]
  | cons e r ih =>
    obtain ⟨a, w⟩ := e
    simp only [List.all_cons, Bool.and_eq_true] at h
    by_cases e : k < a
    · simp only [place, e, if_true, List.all_cons, Bool.and_eq_true]; exact ⟨hp, h⟩
    · simp only [place, e, if_false, List.all_cons, Bool.and_eq_true]; exact ⟨h.1, ih h.2⟩

/-- `insertD` keeps the canonical form. -/
theorem canonical_insertD [DecidableEq α] (d : α) {m : SMap α} (k : Nat) (v : α) (h : canonical d m = true) :
    canonical d (insertD d m k v) = true := by
  simp only [canonical, Bool.and_eq_true] at h ⊢
  simp only [insertD]
  by_cases hv : v = d
  · simp only [hv, if_true]; exact ⟨rising_drop k h.1, all_drop _ k h.2⟩
  · simp only [hv, if_false]
    exact ⟨rising_place k v (by simp [find_drop]) (rising_drop k h.1), all_place _ k v (by simpa using hv) (all_drop _ k h.2)⟩

theorem canonical_nil [DecidableEq α] (d : α) : canonical d ([] : SMap α) = true := rfl

theorem risingFrom_filter (p : Nat × α → Bool) : ∀ (l : Nat) (m : SMap α), risingFrom (some l) m = true →
    risingFrom (some l) (m.filter p) = true
  | _, [], _ => rfl
  | l, (a, v) :: r, h => by
    simp only [risingFrom, Bool.and_eq_true, decide_eq_true_eq] at h
    by_cases e : p (a, v) = true
    · simp only [List.filter_cons, e, if_true, risingFrom, Bool.and_eq_true, decide_eq_true_eq]
      exact ⟨h.1, risingFrom_filter p a r h.2⟩
    · simp only [List.filter_cons, e]
      exact risingFrom_filter p l r (risingFrom_mono (Nat.le_of_lt h.1) h.2)

/-- A filter keeps the canonical form. -/
theorem canonical_filter [DecidableEq α] (d : α) (p : Nat × α → Bool) {m : SMap α} (h : canonical d m = true) :
    canonical d (m.filter p) = true := by
  simp only [canonical, Bool.and_eq_true] at h ⊢
  refine ⟨?_, ?_⟩
  · cases m with
    | nil => rfl
    | cons e r =>
      obtain ⟨a, v⟩ := e
      have h' : risingFrom (some a) r = true := h.1
      by_cases e : p (a, v) = true
      · simp only [List.filter_cons, e, if_true]; exact risingFrom_filter p a r h'
      · simp only [List.filter_cons, e]; exact rising_of_from (risingFrom_filter p a r h')
  · rw [List.all_eq_true] at h ⊢
    exact fun x hx => h.2 x ((List.mem_filter.mp hx).1)

end Sys2Proof.Machine
end

