-- ==== Sys2Proof/Laws/State.lean ====
section
/-! SUPPORT. The small lemmas of State: for each named update, every field that it leaves alone (true by
rfl), and what each reader of a unit sees after it. -/

namespace Sys2Proof.Machine

variable (s : State)

/-! ### setCell -/

@[simp] theorem State.setCell_mem (c : Nat) (v : Cell) : (s.setCell c v).mem = s.mem := rfl
@[simp] theorem State.setCell_ecc (c : Nat) (v : Cell) : (s.setCell c v).ecc = s.ecc := rfl
@[simp] theorem State.setCell_scratchEcc (c : Nat) (v : Cell) : (s.setCell c v).scratchEcc = s.scratchEcc := rfl
@[simp] theorem State.setCell_csr (c : Nat) (v : Cell) : (s.setCell c v).csr = s.csr := rfl
@[simp] theorem State.setCell_csrPend (c : Nat) (v : Cell) : (s.setCell c v).csrPend = s.csrPend := rfl
@[simp] theorem State.setCell_blocks (c : Nat) (v : Cell) : (s.setCell c v).blocks = s.blocks := rfl
@[simp] theorem State.setCell_regions (c : Nat) (v : Cell) : (s.setCell c v).regions = s.regions := rfl
@[simp] theorem State.setCell_silk (c : Nat) (v : Cell) : (s.setCell c v).silk = s.silk := rfl
@[simp] theorem State.setCell_host (c : Nat) (v : Cell) : (s.setCell c v).host = s.host := rfl
@[simp] theorem State.setCell_sec (c : Nat) (v : Cell) : (s.setCell c v).sec = s.sec := rfl
@[simp] theorem State.setCell_chip (c : Nat) (v : Cell) : (s.setCell c v).chip = s.chip := rfl
@[simp] theorem State.setCell_mon (c : Nat) (v : Cell) : (s.setCell c v).mon = s.mon := rfl
@[simp] theorem State.setCell_boot (c : Nat) (v : Cell) : (s.setCell c v).boot = s.boot := rfl
@[simp] theorem State.setCell_side (c : Nat) (v : Cell) : (s.setCell c v).side = s.side := rfl
@[simp] theorem State.setCell_fuses (c : Nat) (v : Cell) : (s.setCell c v).fuses = s.fuses := rfl
@[simp] theorem State.setCell_nextId (c : Nat) (v : Cell) : (s.setCell c v).nextId = s.nextId := rfl
@[simp] theorem State.setCell_freeCtr (c : Nat) (v : Cell) : (s.setCell c v).freeCtr = s.freeCtr := rfl
@[simp] theorem State.setCell_out (c : Nat) (v : Cell) : (s.setCell c v).out = s.out := rfl
@[simp] theorem State.setCell_pending (c : Nat) (v : Cell) : (s.setCell c v).pending = s.pending := rfl
@[simp] theorem State.setCell_cell (c : Nat) (v : Cell) (j : Nat) :
    (s.setCell c v).cell j = if j = c then v else s.cell j := by
  simp [State.setCell, State.cell]
@[simp] theorem State.setCell_block (c : Nat) (v : Cell) (j : Nat) : (s.setCell c v).block j = s.block j := rfl
@[simp] theorem State.setCell_region (c : Nat) (v : Cell) (j : Nat) : (s.setCell c v).region j = s.region j := rfl
@[simp] theorem State.setCell_link (c : Nat) (v : Cell) (j : Nat) : (s.setCell c v).link j = s.link j := rfl
@[simp] theorem State.setCell_ctx (c : Nat) (v : Cell) (j : Nat) : (s.setCell c v).ctx j = s.ctx j := rfl
@[simp] theorem State.setCell_queue (c : Nat) (v : Cell) (j : Nat) : (s.setCell c v).queue j = s.queue j := rfl
@[simp] theorem State.setCell_fence (c : Nat) (v : Cell) (j : Nat) : (s.setCell c v).fence j = s.fence j := rfl
@[simp] theorem State.setCell_cocoon (c : Nat) (v : Cell) (j : Nat) : (s.setCell c v).cocoon j = s.cocoon j := rfl
@[simp] theorem State.setCell_keySlot (c : Nat) (v : Cell) (j : Nat) : (s.setCell c v).keySlot j = s.keySlot j := rfl
@[simp] theorem State.setCell_csrF (c : Nat) (v : Cell) (a lo len : Nat) : (s.setCell c v).csrF a lo len = s.csrF a lo len := rfl

/-! ### setBlock -/

@[simp] theorem State.setBlock_mem (b : Nat) (v : Block) : (s.setBlock b v).mem = s.mem := rfl
@[simp] theorem State.setBlock_ecc (b : Nat) (v : Block) : (s.setBlock b v).ecc = s.ecc := rfl
@[simp] theorem State.setBlock_scratchEcc (b : Nat) (v : Block) : (s.setBlock b v).scratchEcc = s.scratchEcc := rfl
@[simp] theorem State.setBlock_csr (b : Nat) (v : Block) : (s.setBlock b v).csr = s.csr := rfl
@[simp] theorem State.setBlock_csrPend (b : Nat) (v : Block) : (s.setBlock b v).csrPend = s.csrPend := rfl
@[simp] theorem State.setBlock_cells (b : Nat) (v : Block) : (s.setBlock b v).cells = s.cells := rfl
@[simp] theorem State.setBlock_regions (b : Nat) (v : Block) : (s.setBlock b v).regions = s.regions := rfl
@[simp] theorem State.setBlock_silk (b : Nat) (v : Block) : (s.setBlock b v).silk = s.silk := rfl
@[simp] theorem State.setBlock_host (b : Nat) (v : Block) : (s.setBlock b v).host = s.host := rfl
@[simp] theorem State.setBlock_sec (b : Nat) (v : Block) : (s.setBlock b v).sec = s.sec := rfl
@[simp] theorem State.setBlock_chip (b : Nat) (v : Block) : (s.setBlock b v).chip = s.chip := rfl
@[simp] theorem State.setBlock_mon (b : Nat) (v : Block) : (s.setBlock b v).mon = s.mon := rfl
@[simp] theorem State.setBlock_boot (b : Nat) (v : Block) : (s.setBlock b v).boot = s.boot := rfl
@[simp] theorem State.setBlock_side (b : Nat) (v : Block) : (s.setBlock b v).side = s.side := rfl
@[simp] theorem State.setBlock_fuses (b : Nat) (v : Block) : (s.setBlock b v).fuses = s.fuses := rfl
@[simp] theorem State.setBlock_nextId (b : Nat) (v : Block) : (s.setBlock b v).nextId = s.nextId := rfl
@[simp] theorem State.setBlock_freeCtr (b : Nat) (v : Block) : (s.setBlock b v).freeCtr = s.freeCtr := rfl
@[simp] theorem State.setBlock_out (b : Nat) (v : Block) : (s.setBlock b v).out = s.out := rfl
@[simp] theorem State.setBlock_pending (b : Nat) (v : Block) : (s.setBlock b v).pending = s.pending := rfl
@[simp] theorem State.setBlock_block (b : Nat) (v : Block) (j : Nat) :
    (s.setBlock b v).block j = if j = b then v else s.block j := by
  simp [State.setBlock, State.block]
@[simp] theorem State.setBlock_cell (b : Nat) (v : Block) (j : Nat) : (s.setBlock b v).cell j = s.cell j := rfl
@[simp] theorem State.setBlock_region (b : Nat) (v : Block) (j : Nat) : (s.setBlock b v).region j = s.region j := rfl
@[simp] theorem State.setBlock_link (b : Nat) (v : Block) (j : Nat) : (s.setBlock b v).link j = s.link j := rfl
@[simp] theorem State.setBlock_ctx (b : Nat) (v : Block) (j : Nat) : (s.setBlock b v).ctx j = s.ctx j := rfl
@[simp] theorem State.setBlock_queue (b : Nat) (v : Block) (j : Nat) : (s.setBlock b v).queue j = s.queue j := rfl
@[simp] theorem State.setBlock_fence (b : Nat) (v : Block) (j : Nat) : (s.setBlock b v).fence j = s.fence j := rfl
@[simp] theorem State.setBlock_cocoon (b : Nat) (v : Block) (j : Nat) : (s.setBlock b v).cocoon j = s.cocoon j := rfl
@[simp] theorem State.setBlock_keySlot (b : Nat) (v : Block) (j : Nat) : (s.setBlock b v).keySlot j = s.keySlot j := rfl
@[simp] theorem State.setBlock_csrF (b : Nat) (v : Block) (a lo len : Nat) : (s.setBlock b v).csrF a lo len = s.csrF a lo len := rfl

/-! ### setRegion -/

@[simp] theorem State.setRegion_mem (r : Nat) (v : Region) : (s.setRegion r v).mem = s.mem := rfl
@[simp] theorem State.setRegion_ecc (r : Nat) (v : Region) : (s.setRegion r v).ecc = s.ecc := rfl
@[simp] theorem State.setRegion_scratchEcc (r : Nat) (v : Region) : (s.setRegion r v).scratchEcc = s.scratchEcc := rfl
@[simp] theorem State.setRegion_csr (r : Nat) (v : Region) : (s.setRegion r v).csr = s.csr := rfl
@[simp] theorem State.setRegion_csrPend (r : Nat) (v : Region) : (s.setRegion r v).csrPend = s.csrPend := rfl
@[simp] theorem State.setRegion_cells (r : Nat) (v : Region) : (s.setRegion r v).cells = s.cells := rfl
@[simp] theorem State.setRegion_blocks (r : Nat) (v : Region) : (s.setRegion r v).blocks = s.blocks := rfl
@[simp] theorem State.setRegion_silk (r : Nat) (v : Region) : (s.setRegion r v).silk = s.silk := rfl
@[simp] theorem State.setRegion_host (r : Nat) (v : Region) : (s.setRegion r v).host = s.host := rfl
@[simp] theorem State.setRegion_sec (r : Nat) (v : Region) : (s.setRegion r v).sec = s.sec := rfl
@[simp] theorem State.setRegion_chip (r : Nat) (v : Region) : (s.setRegion r v).chip = s.chip := rfl
@[simp] theorem State.setRegion_mon (r : Nat) (v : Region) : (s.setRegion r v).mon = s.mon := rfl
@[simp] theorem State.setRegion_boot (r : Nat) (v : Region) : (s.setRegion r v).boot = s.boot := rfl
@[simp] theorem State.setRegion_side (r : Nat) (v : Region) : (s.setRegion r v).side = s.side := rfl
@[simp] theorem State.setRegion_fuses (r : Nat) (v : Region) : (s.setRegion r v).fuses = s.fuses := rfl
@[simp] theorem State.setRegion_nextId (r : Nat) (v : Region) : (s.setRegion r v).nextId = s.nextId := rfl
@[simp] theorem State.setRegion_freeCtr (r : Nat) (v : Region) : (s.setRegion r v).freeCtr = s.freeCtr := rfl
@[simp] theorem State.setRegion_out (r : Nat) (v : Region) : (s.setRegion r v).out = s.out := rfl
@[simp] theorem State.setRegion_pending (r : Nat) (v : Region) : (s.setRegion r v).pending = s.pending := rfl
@[simp] theorem State.setRegion_region (r : Nat) (v : Region) (j : Nat) :
    (s.setRegion r v).region j = if j = r then v else s.region j := by
  simp [State.setRegion, State.region]
@[simp] theorem State.setRegion_cell (r : Nat) (v : Region) (j : Nat) : (s.setRegion r v).cell j = s.cell j := rfl
@[simp] theorem State.setRegion_block (r : Nat) (v : Region) (j : Nat) : (s.setRegion r v).block j = s.block j := rfl
@[simp] theorem State.setRegion_link (r : Nat) (v : Region) (j : Nat) : (s.setRegion r v).link j = s.link j := rfl
@[simp] theorem State.setRegion_ctx (r : Nat) (v : Region) (j : Nat) : (s.setRegion r v).ctx j = s.ctx j := rfl
@[simp] theorem State.setRegion_queue (r : Nat) (v : Region) (j : Nat) : (s.setRegion r v).queue j = s.queue j := rfl
@[simp] theorem State.setRegion_fence (r : Nat) (v : Region) (j : Nat) : (s.setRegion r v).fence j = s.fence j := rfl
@[simp] theorem State.setRegion_cocoon (r : Nat) (v : Region) (j : Nat) : (s.setRegion r v).cocoon j = s.cocoon j := rfl
@[simp] theorem State.setRegion_keySlot (r : Nat) (v : Region) (j : Nat) : (s.setRegion r v).keySlot j = s.keySlot j := rfl
@[simp] theorem State.setRegion_csrF (r : Nat) (v : Region) (a lo len : Nat) : (s.setRegion r v).csrF a lo len = s.csrF a lo len := rfl

/-! ### setLink -/

@[simp] theorem State.setLink_mem (l : Nat) (v : Link) : (s.setLink l v).mem = s.mem := rfl
@[simp] theorem State.setLink_ecc (l : Nat) (v : Link) : (s.setLink l v).ecc = s.ecc := rfl
@[simp] theorem State.setLink_scratchEcc (l : Nat) (v : Link) : (s.setLink l v).scratchEcc = s.scratchEcc := rfl
@[simp] theorem State.setLink_csr (l : Nat) (v : Link) : (s.setLink l v).csr = s.csr := rfl
@[simp] theorem State.setLink_csrPend (l : Nat) (v : Link) : (s.setLink l v).csrPend = s.csrPend := rfl
@[simp] theorem State.setLink_cells (l : Nat) (v : Link) : (s.setLink l v).cells = s.cells := rfl
@[simp] theorem State.setLink_blocks (l : Nat) (v : Link) : (s.setLink l v).blocks = s.blocks := rfl
@[simp] theorem State.setLink_regions (l : Nat) (v : Link) : (s.setLink l v).regions = s.regions := rfl
@[simp] theorem State.setLink_host (l : Nat) (v : Link) : (s.setLink l v).host = s.host := rfl
@[simp] theorem State.setLink_sec (l : Nat) (v : Link) : (s.setLink l v).sec = s.sec := rfl
@[simp] theorem State.setLink_chip (l : Nat) (v : Link) : (s.setLink l v).chip = s.chip := rfl
@[simp] theorem State.setLink_mon (l : Nat) (v : Link) : (s.setLink l v).mon = s.mon := rfl
@[simp] theorem State.setLink_boot (l : Nat) (v : Link) : (s.setLink l v).boot = s.boot := rfl
@[simp] theorem State.setLink_side (l : Nat) (v : Link) : (s.setLink l v).side = s.side := rfl
@[simp] theorem State.setLink_fuses (l : Nat) (v : Link) : (s.setLink l v).fuses = s.fuses := rfl
@[simp] theorem State.setLink_nextId (l : Nat) (v : Link) : (s.setLink l v).nextId = s.nextId := rfl
@[simp] theorem State.setLink_freeCtr (l : Nat) (v : Link) : (s.setLink l v).freeCtr = s.freeCtr := rfl
@[simp] theorem State.setLink_out (l : Nat) (v : Link) : (s.setLink l v).out = s.out := rfl
@[simp] theorem State.setLink_pending (l : Nat) (v : Link) : (s.setLink l v).pending = s.pending := rfl
@[simp] theorem State.setLink_link (l : Nat) (v : Link) (j : Nat) :
    (s.setLink l v).link j = if j = l then v else s.link j := by
  simp [State.setLink, State.link]
@[simp] theorem State.setLink_cell (l : Nat) (v : Link) (j : Nat) : (s.setLink l v).cell j = s.cell j := rfl
@[simp] theorem State.setLink_block (l : Nat) (v : Link) (j : Nat) : (s.setLink l v).block j = s.block j := rfl
@[simp] theorem State.setLink_region (l : Nat) (v : Link) (j : Nat) : (s.setLink l v).region j = s.region j := rfl
@[simp] theorem State.setLink_ctx (l : Nat) (v : Link) (j : Nat) : (s.setLink l v).ctx j = s.ctx j := rfl
@[simp] theorem State.setLink_queue (l : Nat) (v : Link) (j : Nat) : (s.setLink l v).queue j = s.queue j := rfl
@[simp] theorem State.setLink_fence (l : Nat) (v : Link) (j : Nat) : (s.setLink l v).fence j = s.fence j := rfl
@[simp] theorem State.setLink_cocoon (l : Nat) (v : Link) (j : Nat) : (s.setLink l v).cocoon j = s.cocoon j := rfl
@[simp] theorem State.setLink_keySlot (l : Nat) (v : Link) (j : Nat) : (s.setLink l v).keySlot j = s.keySlot j := rfl
@[simp] theorem State.setLink_csrF (l : Nat) (v : Link) (a lo len : Nat) : (s.setLink l v).csrF a lo len = s.csrF a lo len := rfl

/-! ### setCtx -/

@[simp] theorem State.setCtx_mem (n : Nat) (v : Ctx) : (s.setCtx n v).mem = s.mem := rfl
@[simp] theorem State.setCtx_ecc (n : Nat) (v : Ctx) : (s.setCtx n v).ecc = s.ecc := rfl
@[simp] theorem State.setCtx_scratchEcc (n : Nat) (v : Ctx) : (s.setCtx n v).scratchEcc = s.scratchEcc := rfl
@[simp] theorem State.setCtx_csr (n : Nat) (v : Ctx) : (s.setCtx n v).csr = s.csr := rfl
@[simp] theorem State.setCtx_csrPend (n : Nat) (v : Ctx) : (s.setCtx n v).csrPend = s.csrPend := rfl
@[simp] theorem State.setCtx_cells (n : Nat) (v : Ctx) : (s.setCtx n v).cells = s.cells := rfl
@[simp] theorem State.setCtx_blocks (n : Nat) (v : Ctx) : (s.setCtx n v).blocks = s.blocks := rfl
@[simp] theorem State.setCtx_regions (n : Nat) (v : Ctx) : (s.setCtx n v).regions = s.regions := rfl
@[simp] theorem State.setCtx_silk (n : Nat) (v : Ctx) : (s.setCtx n v).silk = s.silk := rfl
@[simp] theorem State.setCtx_sec (n : Nat) (v : Ctx) : (s.setCtx n v).sec = s.sec := rfl
@[simp] theorem State.setCtx_chip (n : Nat) (v : Ctx) : (s.setCtx n v).chip = s.chip := rfl
@[simp] theorem State.setCtx_mon (n : Nat) (v : Ctx) : (s.setCtx n v).mon = s.mon := rfl
@[simp] theorem State.setCtx_boot (n : Nat) (v : Ctx) : (s.setCtx n v).boot = s.boot := rfl
@[simp] theorem State.setCtx_side (n : Nat) (v : Ctx) : (s.setCtx n v).side = s.side := rfl
@[simp] theorem State.setCtx_fuses (n : Nat) (v : Ctx) : (s.setCtx n v).fuses = s.fuses := rfl
@[simp] theorem State.setCtx_nextId (n : Nat) (v : Ctx) : (s.setCtx n v).nextId = s.nextId := rfl
@[simp] theorem State.setCtx_freeCtr (n : Nat) (v : Ctx) : (s.setCtx n v).freeCtr = s.freeCtr := rfl
@[simp] theorem State.setCtx_out (n : Nat) (v : Ctx) : (s.setCtx n v).out = s.out := rfl
@[simp] theorem State.setCtx_pending (n : Nat) (v : Ctx) : (s.setCtx n v).pending = s.pending := rfl
@[simp] theorem State.setCtx_ctx (n : Nat) (v : Ctx) (j : Nat) :
    (s.setCtx n v).ctx j = if j = n then v else s.ctx j := by
  simp [State.setCtx, State.ctx]
@[simp] theorem State.setCtx_cell (n : Nat) (v : Ctx) (j : Nat) : (s.setCtx n v).cell j = s.cell j := rfl
@[simp] theorem State.setCtx_block (n : Nat) (v : Ctx) (j : Nat) : (s.setCtx n v).block j = s.block j := rfl
@[simp] theorem State.setCtx_region (n : Nat) (v : Ctx) (j : Nat) : (s.setCtx n v).region j = s.region j := rfl
@[simp] theorem State.setCtx_link (n : Nat) (v : Ctx) (j : Nat) : (s.setCtx n v).link j = s.link j := rfl
@[simp] theorem State.setCtx_queue (n : Nat) (v : Ctx) (j : Nat) : (s.setCtx n v).queue j = s.queue j := rfl
@[simp] theorem State.setCtx_fence (n : Nat) (v : Ctx) (j : Nat) : (s.setCtx n v).fence j = s.fence j := rfl
@[simp] theorem State.setCtx_cocoon (n : Nat) (v : Ctx) (j : Nat) : (s.setCtx n v).cocoon j = s.cocoon j := rfl
@[simp] theorem State.setCtx_keySlot (n : Nat) (v : Ctx) (j : Nat) : (s.setCtx n v).keySlot j = s.keySlot j := rfl
@[simp] theorem State.setCtx_csrF (n : Nat) (v : Ctx) (a lo len : Nat) : (s.setCtx n v).csrF a lo len = s.csrF a lo len := rfl

/-! ### setQueue -/

@[simp] theorem State.setQueue_mem (q : Nat) (v : Queue) : (s.setQueue q v).mem = s.mem := rfl
@[simp] theorem State.setQueue_ecc (q : Nat) (v : Queue) : (s.setQueue q v).ecc = s.ecc := rfl
@[simp] theorem State.setQueue_scratchEcc (q : Nat) (v : Queue) : (s.setQueue q v).scratchEcc = s.scratchEcc := rfl
@[simp] theorem State.setQueue_csr (q : Nat) (v : Queue) : (s.setQueue q v).csr = s.csr := rfl
@[simp] theorem State.setQueue_csrPend (q : Nat) (v : Queue) : (s.setQueue q v).csrPend = s.csrPend := rfl
@[simp] theorem State.setQueue_cells (q : Nat) (v : Queue) : (s.setQueue q v).cells = s.cells := rfl
@[simp] theorem State.setQueue_blocks (q : Nat) (v : Queue) : (s.setQueue q v).blocks = s.blocks := rfl
@[simp] theorem State.setQueue_regions (q : Nat) (v : Queue) : (s.setQueue q v).regions = s.regions := rfl
@[simp] theorem State.setQueue_silk (q : Nat) (v : Queue) : (s.setQueue q v).silk = s.silk := rfl
@[simp] theorem State.setQueue_sec (q : Nat) (v : Queue) : (s.setQueue q v).sec = s.sec := rfl
@[simp] theorem State.setQueue_chip (q : Nat) (v : Queue) : (s.setQueue q v).chip = s.chip := rfl
@[simp] theorem State.setQueue_mon (q : Nat) (v : Queue) : (s.setQueue q v).mon = s.mon := rfl
@[simp] theorem State.setQueue_boot (q : Nat) (v : Queue) : (s.setQueue q v).boot = s.boot := rfl
@[simp] theorem State.setQueue_side (q : Nat) (v : Queue) : (s.setQueue q v).side = s.side := rfl
@[simp] theorem State.setQueue_fuses (q : Nat) (v : Queue) : (s.setQueue q v).fuses = s.fuses := rfl
@[simp] theorem State.setQueue_nextId (q : Nat) (v : Queue) : (s.setQueue q v).nextId = s.nextId := rfl
@[simp] theorem State.setQueue_freeCtr (q : Nat) (v : Queue) : (s.setQueue q v).freeCtr = s.freeCtr := rfl
@[simp] theorem State.setQueue_out (q : Nat) (v : Queue) : (s.setQueue q v).out = s.out := rfl
@[simp] theorem State.setQueue_pending (q : Nat) (v : Queue) : (s.setQueue q v).pending = s.pending := rfl
@[simp] theorem State.setQueue_queue (q : Nat) (v : Queue) (j : Nat) :
    (s.setQueue q v).queue j = if j = q then v else s.queue j := by
  simp [State.setQueue, State.queue]
@[simp] theorem State.setQueue_cell (q : Nat) (v : Queue) (j : Nat) : (s.setQueue q v).cell j = s.cell j := rfl
@[simp] theorem State.setQueue_block (q : Nat) (v : Queue) (j : Nat) : (s.setQueue q v).block j = s.block j := rfl
@[simp] theorem State.setQueue_region (q : Nat) (v : Queue) (j : Nat) : (s.setQueue q v).region j = s.region j := rfl
@[simp] theorem State.setQueue_link (q : Nat) (v : Queue) (j : Nat) : (s.setQueue q v).link j = s.link j := rfl
@[simp] theorem State.setQueue_ctx (q : Nat) (v : Queue) (j : Nat) : (s.setQueue q v).ctx j = s.ctx j := rfl
@[simp] theorem State.setQueue_fence (q : Nat) (v : Queue) (j : Nat) : (s.setQueue q v).fence j = s.fence j := rfl
@[simp] theorem State.setQueue_cocoon (q : Nat) (v : Queue) (j : Nat) : (s.setQueue q v).cocoon j = s.cocoon j := rfl
@[simp] theorem State.setQueue_keySlot (q : Nat) (v : Queue) (j : Nat) : (s.setQueue q v).keySlot j = s.keySlot j := rfl
@[simp] theorem State.setQueue_csrF (q : Nat) (v : Queue) (a lo len : Nat) : (s.setQueue q v).csrF a lo len = s.csrF a lo len := rfl

/-! ### setFence -/

@[simp] theorem State.setFence_mem (f : Nat) (v : Fence) : (s.setFence f v).mem = s.mem := rfl
@[simp] theorem State.setFence_ecc (f : Nat) (v : Fence) : (s.setFence f v).ecc = s.ecc := rfl
@[simp] theorem State.setFence_scratchEcc (f : Nat) (v : Fence) : (s.setFence f v).scratchEcc = s.scratchEcc := rfl
@[simp] theorem State.setFence_csr (f : Nat) (v : Fence) : (s.setFence f v).csr = s.csr := rfl
@[simp] theorem State.setFence_csrPend (f : Nat) (v : Fence) : (s.setFence f v).csrPend = s.csrPend := rfl
@[simp] theorem State.setFence_cells (f : Nat) (v : Fence) : (s.setFence f v).cells = s.cells := rfl
@[simp] theorem State.setFence_blocks (f : Nat) (v : Fence) : (s.setFence f v).blocks = s.blocks := rfl
@[simp] theorem State.setFence_regions (f : Nat) (v : Fence) : (s.setFence f v).regions = s.regions := rfl
@[simp] theorem State.setFence_silk (f : Nat) (v : Fence) : (s.setFence f v).silk = s.silk := rfl
@[simp] theorem State.setFence_sec (f : Nat) (v : Fence) : (s.setFence f v).sec = s.sec := rfl
@[simp] theorem State.setFence_chip (f : Nat) (v : Fence) : (s.setFence f v).chip = s.chip := rfl
@[simp] theorem State.setFence_mon (f : Nat) (v : Fence) : (s.setFence f v).mon = s.mon := rfl
@[simp] theorem State.setFence_boot (f : Nat) (v : Fence) : (s.setFence f v).boot = s.boot := rfl
@[simp] theorem State.setFence_side (f : Nat) (v : Fence) : (s.setFence f v).side = s.side := rfl
@[simp] theorem State.setFence_fuses (f : Nat) (v : Fence) : (s.setFence f v).fuses = s.fuses := rfl
@[simp] theorem State.setFence_nextId (f : Nat) (v : Fence) : (s.setFence f v).nextId = s.nextId := rfl
@[simp] theorem State.setFence_freeCtr (f : Nat) (v : Fence) : (s.setFence f v).freeCtr = s.freeCtr := rfl
@[simp] theorem State.setFence_out (f : Nat) (v : Fence) : (s.setFence f v).out = s.out := rfl
@[simp] theorem State.setFence_pending (f : Nat) (v : Fence) : (s.setFence f v).pending = s.pending := rfl
@[simp] theorem State.setFence_fence (f : Nat) (v : Fence) (j : Nat) :
    (s.setFence f v).fence j = if j = f then v else s.fence j := by
  simp [State.setFence, State.fence]
@[simp] theorem State.setFence_cell (f : Nat) (v : Fence) (j : Nat) : (s.setFence f v).cell j = s.cell j := rfl
@[simp] theorem State.setFence_block (f : Nat) (v : Fence) (j : Nat) : (s.setFence f v).block j = s.block j := rfl
@[simp] theorem State.setFence_region (f : Nat) (v : Fence) (j : Nat) : (s.setFence f v).region j = s.region j := rfl
@[simp] theorem State.setFence_link (f : Nat) (v : Fence) (j : Nat) : (s.setFence f v).link j = s.link j := rfl
@[simp] theorem State.setFence_ctx (f : Nat) (v : Fence) (j : Nat) : (s.setFence f v).ctx j = s.ctx j := rfl
@[simp] theorem State.setFence_queue (f : Nat) (v : Fence) (j : Nat) : (s.setFence f v).queue j = s.queue j := rfl
@[simp] theorem State.setFence_cocoon (f : Nat) (v : Fence) (j : Nat) : (s.setFence f v).cocoon j = s.cocoon j := rfl
@[simp] theorem State.setFence_keySlot (f : Nat) (v : Fence) (j : Nat) : (s.setFence f v).keySlot j = s.keySlot j := rfl
@[simp] theorem State.setFence_csrF (f : Nat) (v : Fence) (a lo len : Nat) : (s.setFence f v).csrF a lo len = s.csrF a lo len := rfl

/-! ### setCocoon -/

@[simp] theorem State.setCocoon_mem (c : Nat) (v : Cocoon) : (s.setCocoon c v).mem = s.mem := rfl
@[simp] theorem State.setCocoon_ecc (c : Nat) (v : Cocoon) : (s.setCocoon c v).ecc = s.ecc := rfl
@[simp] theorem State.setCocoon_scratchEcc (c : Nat) (v : Cocoon) : (s.setCocoon c v).scratchEcc = s.scratchEcc := rfl
@[simp] theorem State.setCocoon_csr (c : Nat) (v : Cocoon) : (s.setCocoon c v).csr = s.csr := rfl
@[simp] theorem State.setCocoon_csrPend (c : Nat) (v : Cocoon) : (s.setCocoon c v).csrPend = s.csrPend := rfl
@[simp] theorem State.setCocoon_cells (c : Nat) (v : Cocoon) : (s.setCocoon c v).cells = s.cells := rfl
@[simp] theorem State.setCocoon_blocks (c : Nat) (v : Cocoon) : (s.setCocoon c v).blocks = s.blocks := rfl
@[simp] theorem State.setCocoon_regions (c : Nat) (v : Cocoon) : (s.setCocoon c v).regions = s.regions := rfl
@[simp] theorem State.setCocoon_silk (c : Nat) (v : Cocoon) : (s.setCocoon c v).silk = s.silk := rfl
@[simp] theorem State.setCocoon_host (c : Nat) (v : Cocoon) : (s.setCocoon c v).host = s.host := rfl
@[simp] theorem State.setCocoon_chip (c : Nat) (v : Cocoon) : (s.setCocoon c v).chip = s.chip := rfl
@[simp] theorem State.setCocoon_mon (c : Nat) (v : Cocoon) : (s.setCocoon c v).mon = s.mon := rfl
@[simp] theorem State.setCocoon_boot (c : Nat) (v : Cocoon) : (s.setCocoon c v).boot = s.boot := rfl
@[simp] theorem State.setCocoon_side (c : Nat) (v : Cocoon) : (s.setCocoon c v).side = s.side := rfl
@[simp] theorem State.setCocoon_fuses (c : Nat) (v : Cocoon) : (s.setCocoon c v).fuses = s.fuses := rfl
@[simp] theorem State.setCocoon_nextId (c : Nat) (v : Cocoon) : (s.setCocoon c v).nextId = s.nextId := rfl
@[simp] theorem State.setCocoon_freeCtr (c : Nat) (v : Cocoon) : (s.setCocoon c v).freeCtr = s.freeCtr := rfl
@[simp] theorem State.setCocoon_out (c : Nat) (v : Cocoon) : (s.setCocoon c v).out = s.out := rfl
@[simp] theorem State.setCocoon_pending (c : Nat) (v : Cocoon) : (s.setCocoon c v).pending = s.pending := rfl
@[simp] theorem State.setCocoon_cocoon (c : Nat) (v : Cocoon) (j : Nat) :
    (s.setCocoon c v).cocoon j = if j = c then v else s.cocoon j := by
  simp [State.setCocoon, State.cocoon]
@[simp] theorem State.setCocoon_cell (c : Nat) (v : Cocoon) (j : Nat) : (s.setCocoon c v).cell j = s.cell j := rfl
@[simp] theorem State.setCocoon_block (c : Nat) (v : Cocoon) (j : Nat) : (s.setCocoon c v).block j = s.block j := rfl
@[simp] theorem State.setCocoon_region (c : Nat) (v : Cocoon) (j : Nat) : (s.setCocoon c v).region j = s.region j := rfl
@[simp] theorem State.setCocoon_link (c : Nat) (v : Cocoon) (j : Nat) : (s.setCocoon c v).link j = s.link j := rfl
@[simp] theorem State.setCocoon_ctx (c : Nat) (v : Cocoon) (j : Nat) : (s.setCocoon c v).ctx j = s.ctx j := rfl
@[simp] theorem State.setCocoon_queue (c : Nat) (v : Cocoon) (j : Nat) : (s.setCocoon c v).queue j = s.queue j := rfl
@[simp] theorem State.setCocoon_fence (c : Nat) (v : Cocoon) (j : Nat) : (s.setCocoon c v).fence j = s.fence j := rfl
@[simp] theorem State.setCocoon_keySlot (c : Nat) (v : Cocoon) (j : Nat) : (s.setCocoon c v).keySlot j = s.keySlot j := rfl
@[simp] theorem State.setCocoon_csrF (c : Nat) (v : Cocoon) (a lo len : Nat) : (s.setCocoon c v).csrF a lo len = s.csrF a lo len := rfl

/-! ### setKeySlot -/

@[simp] theorem State.setKeySlot_mem (k : Nat) (v : KeySlot) : (s.setKeySlot k v).mem = s.mem := rfl
@[simp] theorem State.setKeySlot_ecc (k : Nat) (v : KeySlot) : (s.setKeySlot k v).ecc = s.ecc := rfl
@[simp] theorem State.setKeySlot_scratchEcc (k : Nat) (v : KeySlot) : (s.setKeySlot k v).scratchEcc = s.scratchEcc := rfl
@[simp] theorem State.setKeySlot_csr (k : Nat) (v : KeySlot) : (s.setKeySlot k v).csr = s.csr := rfl
@[simp] theorem State.setKeySlot_csrPend (k : Nat) (v : KeySlot) : (s.setKeySlot k v).csrPend = s.csrPend := rfl
@[simp] theorem State.setKeySlot_cells (k : Nat) (v : KeySlot) : (s.setKeySlot k v).cells = s.cells := rfl
@[simp] theorem State.setKeySlot_blocks (k : Nat) (v : KeySlot) : (s.setKeySlot k v).blocks = s.blocks := rfl
@[simp] theorem State.setKeySlot_regions (k : Nat) (v : KeySlot) : (s.setKeySlot k v).regions = s.regions := rfl
@[simp] theorem State.setKeySlot_silk (k : Nat) (v : KeySlot) : (s.setKeySlot k v).silk = s.silk := rfl
@[simp] theorem State.setKeySlot_host (k : Nat) (v : KeySlot) : (s.setKeySlot k v).host = s.host := rfl
@[simp] theorem State.setKeySlot_chip (k : Nat) (v : KeySlot) : (s.setKeySlot k v).chip = s.chip := rfl
@[simp] theorem State.setKeySlot_mon (k : Nat) (v : KeySlot) : (s.setKeySlot k v).mon = s.mon := rfl
@[simp] theorem State.setKeySlot_boot (k : Nat) (v : KeySlot) : (s.setKeySlot k v).boot = s.boot := rfl
@[simp] theorem State.setKeySlot_side (k : Nat) (v : KeySlot) : (s.setKeySlot k v).side = s.side := rfl
@[simp] theorem State.setKeySlot_fuses (k : Nat) (v : KeySlot) : (s.setKeySlot k v).fuses = s.fuses := rfl
@[simp] theorem State.setKeySlot_nextId (k : Nat) (v : KeySlot) : (s.setKeySlot k v).nextId = s.nextId := rfl
@[simp] theorem State.setKeySlot_freeCtr (k : Nat) (v : KeySlot) : (s.setKeySlot k v).freeCtr = s.freeCtr := rfl
@[simp] theorem State.setKeySlot_out (k : Nat) (v : KeySlot) : (s.setKeySlot k v).out = s.out := rfl
@[simp] theorem State.setKeySlot_pending (k : Nat) (v : KeySlot) : (s.setKeySlot k v).pending = s.pending := rfl
@[simp] theorem State.setKeySlot_keySlot (k : Nat) (v : KeySlot) (j : Nat) :
    (s.setKeySlot k v).keySlot j = if j = k then v else s.keySlot j := by
  simp [State.setKeySlot, State.keySlot]
@[simp] theorem State.setKeySlot_cell (k : Nat) (v : KeySlot) (j : Nat) : (s.setKeySlot k v).cell j = s.cell j := rfl
@[simp] theorem State.setKeySlot_block (k : Nat) (v : KeySlot) (j : Nat) : (s.setKeySlot k v).block j = s.block j := rfl
@[simp] theorem State.setKeySlot_region (k : Nat) (v : KeySlot) (j : Nat) : (s.setKeySlot k v).region j = s.region j := rfl
@[simp] theorem State.setKeySlot_link (k : Nat) (v : KeySlot) (j : Nat) : (s.setKeySlot k v).link j = s.link j := rfl
@[simp] theorem State.setKeySlot_ctx (k : Nat) (v : KeySlot) (j : Nat) : (s.setKeySlot k v).ctx j = s.ctx j := rfl
@[simp] theorem State.setKeySlot_queue (k : Nat) (v : KeySlot) (j : Nat) : (s.setKeySlot k v).queue j = s.queue j := rfl
@[simp] theorem State.setKeySlot_fence (k : Nat) (v : KeySlot) (j : Nat) : (s.setKeySlot k v).fence j = s.fence j := rfl
@[simp] theorem State.setKeySlot_cocoon (k : Nat) (v : KeySlot) (j : Nat) : (s.setKeySlot k v).cocoon j = s.cocoon j := rfl
@[simp] theorem State.setKeySlot_csrF (k : Nat) (v : KeySlot) (a lo len : Nat) : (s.setKeySlot k v).csrF a lo len = s.csrF a lo len := rfl

/-! ### setGroup -/

@[simp] theorem State.setGroup_mem (g : GRef) (v : Group) : (s.setGroup g v).mem = s.mem := rfl
@[simp] theorem State.setGroup_ecc (g : GRef) (v : Group) : (s.setGroup g v).ecc = s.ecc := rfl
@[simp] theorem State.setGroup_scratchEcc (g : GRef) (v : Group) : (s.setGroup g v).scratchEcc = s.scratchEcc := rfl
@[simp] theorem State.setGroup_csr (g : GRef) (v : Group) : (s.setGroup g v).csr = s.csr := rfl
@[simp] theorem State.setGroup_csrPend (g : GRef) (v : Group) : (s.setGroup g v).csrPend = s.csrPend := rfl
@[simp] theorem State.setGroup_blocks (g : GRef) (v : Group) : (s.setGroup g v).blocks = s.blocks := rfl
@[simp] theorem State.setGroup_regions (g : GRef) (v : Group) : (s.setGroup g v).regions = s.regions := rfl
@[simp] theorem State.setGroup_silk (g : GRef) (v : Group) : (s.setGroup g v).silk = s.silk := rfl
@[simp] theorem State.setGroup_host (g : GRef) (v : Group) : (s.setGroup g v).host = s.host := rfl
@[simp] theorem State.setGroup_sec (g : GRef) (v : Group) : (s.setGroup g v).sec = s.sec := rfl
@[simp] theorem State.setGroup_chip (g : GRef) (v : Group) : (s.setGroup g v).chip = s.chip := rfl
@[simp] theorem State.setGroup_mon (g : GRef) (v : Group) : (s.setGroup g v).mon = s.mon := rfl
@[simp] theorem State.setGroup_boot (g : GRef) (v : Group) : (s.setGroup g v).boot = s.boot := rfl
@[simp] theorem State.setGroup_side (g : GRef) (v : Group) : (s.setGroup g v).side = s.side := rfl
@[simp] theorem State.setGroup_fuses (g : GRef) (v : Group) : (s.setGroup g v).fuses = s.fuses := rfl
@[simp] theorem State.setGroup_nextId (g : GRef) (v : Group) : (s.setGroup g v).nextId = s.nextId := rfl
@[simp] theorem State.setGroup_freeCtr (g : GRef) (v : Group) : (s.setGroup g v).freeCtr = s.freeCtr := rfl
@[simp] theorem State.setGroup_out (g : GRef) (v : Group) : (s.setGroup g v).out = s.out := rfl
@[simp] theorem State.setGroup_pending (g : GRef) (v : Group) : (s.setGroup g v).pending = s.pending := rfl
@[simp] theorem State.setGroup_block (g : GRef) (v : Group) (j : Nat) : (s.setGroup g v).block j = s.block j := rfl
@[simp] theorem State.setGroup_region (g : GRef) (v : Group) (j : Nat) : (s.setGroup g v).region j = s.region j := rfl
@[simp] theorem State.setGroup_link (g : GRef) (v : Group) (j : Nat) : (s.setGroup g v).link j = s.link j := rfl
@[simp] theorem State.setGroup_ctx (g : GRef) (v : Group) (j : Nat) : (s.setGroup g v).ctx j = s.ctx j := rfl
@[simp] theorem State.setGroup_queue (g : GRef) (v : Group) (j : Nat) : (s.setGroup g v).queue j = s.queue j := rfl
@[simp] theorem State.setGroup_fence (g : GRef) (v : Group) (j : Nat) : (s.setGroup g v).fence j = s.fence j := rfl
@[simp] theorem State.setGroup_cocoon (g : GRef) (v : Group) (j : Nat) : (s.setGroup g v).cocoon j = s.cocoon j := rfl
@[simp] theorem State.setGroup_keySlot (g : GRef) (v : Group) (j : Nat) : (s.setGroup g v).keySlot j = s.keySlot j := rfl
@[simp] theorem State.setGroup_csrF (g : GRef) (v : Group) (a lo len : Nat) : (s.setGroup g v).csrF a lo len = s.csrF a lo len := rfl

/-! ### dropGroup -/

@[simp] theorem State.dropGroup_mem (g : GRef) : (s.dropGroup g).mem = s.mem := rfl
@[simp] theorem State.dropGroup_ecc (g : GRef) : (s.dropGroup g).ecc = s.ecc := rfl
@[simp] theorem State.dropGroup_scratchEcc (g : GRef) : (s.dropGroup g).scratchEcc = s.scratchEcc := rfl
@[simp] theorem State.dropGroup_csr (g : GRef) : (s.dropGroup g).csr = s.csr := rfl
@[simp] theorem State.dropGroup_csrPend (g : GRef) : (s.dropGroup g).csrPend = s.csrPend := rfl
@[simp] theorem State.dropGroup_blocks (g : GRef) : (s.dropGroup g).blocks = s.blocks := rfl
@[simp] theorem State.dropGroup_regions (g : GRef) : (s.dropGroup g).regions = s.regions := rfl
@[simp] theorem State.dropGroup_silk (g : GRef) : (s.dropGroup g).silk = s.silk := rfl
@[simp] theorem State.dropGroup_host (g : GRef) : (s.dropGroup g).host = s.host := rfl
@[simp] theorem State.dropGroup_sec (g : GRef) : (s.dropGroup g).sec = s.sec := rfl
@[simp] theorem State.dropGroup_chip (g : GRef) : (s.dropGroup g).chip = s.chip := rfl
@[simp] theorem State.dropGroup_mon (g : GRef) : (s.dropGroup g).mon = s.mon := rfl
@[simp] theorem State.dropGroup_boot (g : GRef) : (s.dropGroup g).boot = s.boot := rfl
@[simp] theorem State.dropGroup_side (g : GRef) : (s.dropGroup g).side = s.side := rfl
@[simp] theorem State.dropGroup_fuses (g : GRef) : (s.dropGroup g).fuses = s.fuses := rfl
@[simp] theorem State.dropGroup_nextId (g : GRef) : (s.dropGroup g).nextId = s.nextId := rfl
@[simp] theorem State.dropGroup_freeCtr (g : GRef) : (s.dropGroup g).freeCtr = s.freeCtr := rfl
@[simp] theorem State.dropGroup_out (g : GRef) : (s.dropGroup g).out = s.out := rfl
@[simp] theorem State.dropGroup_pending (g : GRef) : (s.dropGroup g).pending = s.pending := rfl
@[simp] theorem State.dropGroup_block (g : GRef) (j : Nat) : (s.dropGroup g).block j = s.block j := rfl
@[simp] theorem State.dropGroup_region (g : GRef) (j : Nat) : (s.dropGroup g).region j = s.region j := rfl
@[simp] theorem State.dropGroup_link (g : GRef) (j : Nat) : (s.dropGroup g).link j = s.link j := rfl
@[simp] theorem State.dropGroup_ctx (g : GRef) (j : Nat) : (s.dropGroup g).ctx j = s.ctx j := rfl
@[simp] theorem State.dropGroup_queue (g : GRef) (j : Nat) : (s.dropGroup g).queue j = s.queue j := rfl
@[simp] theorem State.dropGroup_fence (g : GRef) (j : Nat) : (s.dropGroup g).fence j = s.fence j := rfl
@[simp] theorem State.dropGroup_cocoon (g : GRef) (j : Nat) : (s.dropGroup g).cocoon j = s.cocoon j := rfl
@[simp] theorem State.dropGroup_keySlot (g : GRef) (j : Nat) : (s.dropGroup g).keySlot j = s.keySlot j := rfl
@[simp] theorem State.dropGroup_csrF (g : GRef) (a lo len : Nat) : (s.dropGroup g).csrF a lo len = s.csrF a lo len := rfl

/-! ### setErrs -/

@[simp] theorem State.setErrs_mem (e : ChipErr) : (s.setErrs e).mem = s.mem := rfl
@[simp] theorem State.setErrs_ecc (e : ChipErr) : (s.setErrs e).ecc = s.ecc := rfl
@[simp] theorem State.setErrs_scratchEcc (e : ChipErr) : (s.setErrs e).scratchEcc = s.scratchEcc := rfl
@[simp] theorem State.setErrs_csr (e : ChipErr) : (s.setErrs e).csr = s.csr := rfl
@[simp] theorem State.setErrs_csrPend (e : ChipErr) : (s.setErrs e).csrPend = s.csrPend := rfl
@[simp] theorem State.setErrs_cells (e : ChipErr) : (s.setErrs e).cells = s.cells := rfl
@[simp] theorem State.setErrs_blocks (e : ChipErr) : (s.setErrs e).blocks = s.blocks := rfl
@[simp] theorem State.setErrs_regions (e : ChipErr) : (s.setErrs e).regions = s.regions := rfl
@[simp] theorem State.setErrs_silk (e : ChipErr) : (s.setErrs e).silk = s.silk := rfl
@[simp] theorem State.setErrs_host (e : ChipErr) : (s.setErrs e).host = s.host := rfl
@[simp] theorem State.setErrs_sec (e : ChipErr) : (s.setErrs e).sec = s.sec := rfl
@[simp] theorem State.setErrs_mon (e : ChipErr) : (s.setErrs e).mon = s.mon := rfl
@[simp] theorem State.setErrs_boot (e : ChipErr) : (s.setErrs e).boot = s.boot := rfl
@[simp] theorem State.setErrs_side (e : ChipErr) : (s.setErrs e).side = s.side := rfl
@[simp] theorem State.setErrs_fuses (e : ChipErr) : (s.setErrs e).fuses = s.fuses := rfl
@[simp] theorem State.setErrs_nextId (e : ChipErr) : (s.setErrs e).nextId = s.nextId := rfl
@[simp] theorem State.setErrs_freeCtr (e : ChipErr) : (s.setErrs e).freeCtr = s.freeCtr := rfl
@[simp] theorem State.setErrs_out (e : ChipErr) : (s.setErrs e).out = s.out := rfl
@[simp] theorem State.setErrs_pending (e : ChipErr) : (s.setErrs e).pending = s.pending := rfl
@[simp] theorem State.setErrs_cell (e : ChipErr) (j : Nat) : (s.setErrs e).cell j = s.cell j := rfl
@[simp] theorem State.setErrs_block (e : ChipErr) (j : Nat) : (s.setErrs e).block j = s.block j := rfl
@[simp] theorem State.setErrs_region (e : ChipErr) (j : Nat) : (s.setErrs e).region j = s.region j := rfl
@[simp] theorem State.setErrs_link (e : ChipErr) (j : Nat) : (s.setErrs e).link j = s.link j := rfl
@[simp] theorem State.setErrs_ctx (e : ChipErr) (j : Nat) : (s.setErrs e).ctx j = s.ctx j := rfl
@[simp] theorem State.setErrs_queue (e : ChipErr) (j : Nat) : (s.setErrs e).queue j = s.queue j := rfl
@[simp] theorem State.setErrs_fence (e : ChipErr) (j : Nat) : (s.setErrs e).fence j = s.fence j := rfl
@[simp] theorem State.setErrs_cocoon (e : ChipErr) (j : Nat) : (s.setErrs e).cocoon j = s.cocoon j := rfl
@[simp] theorem State.setErrs_keySlot (e : ChipErr) (j : Nat) : (s.setErrs e).keySlot j = s.keySlot j := rfl
@[simp] theorem State.setErrs_csrF (e : ChipErr) (a lo len : Nat) : (s.setErrs e).csrF a lo len = s.csrF a lo len := rfl

/-! ### emit -/

@[simp] theorem State.emit_mem (o : Out) : (s.emit o).mem = s.mem := rfl
@[simp] theorem State.emit_ecc (o : Out) : (s.emit o).ecc = s.ecc := rfl
@[simp] theorem State.emit_scratchEcc (o : Out) : (s.emit o).scratchEcc = s.scratchEcc := rfl
@[simp] theorem State.emit_csr (o : Out) : (s.emit o).csr = s.csr := rfl
@[simp] theorem State.emit_csrPend (o : Out) : (s.emit o).csrPend = s.csrPend := rfl
@[simp] theorem State.emit_cells (o : Out) : (s.emit o).cells = s.cells := rfl
@[simp] theorem State.emit_blocks (o : Out) : (s.emit o).blocks = s.blocks := rfl
@[simp] theorem State.emit_regions (o : Out) : (s.emit o).regions = s.regions := rfl
@[simp] theorem State.emit_silk (o : Out) : (s.emit o).silk = s.silk := rfl
@[simp] theorem State.emit_host (o : Out) : (s.emit o).host = s.host := rfl
@[simp] theorem State.emit_sec (o : Out) : (s.emit o).sec = s.sec := rfl
@[simp] theorem State.emit_chip (o : Out) : (s.emit o).chip = s.chip := rfl
@[simp] theorem State.emit_mon (o : Out) : (s.emit o).mon = s.mon := rfl
@[simp] theorem State.emit_boot (o : Out) : (s.emit o).boot = s.boot := rfl
@[simp] theorem State.emit_side (o : Out) : (s.emit o).side = s.side := rfl
@[simp] theorem State.emit_fuses (o : Out) : (s.emit o).fuses = s.fuses := rfl
@[simp] theorem State.emit_nextId (o : Out) : (s.emit o).nextId = s.nextId := rfl
@[simp] theorem State.emit_freeCtr (o : Out) : (s.emit o).freeCtr = s.freeCtr := rfl
@[simp] theorem State.emit_pending (o : Out) : (s.emit o).pending = s.pending := rfl
@[simp] theorem State.emit_cell (o : Out) (j : Nat) : (s.emit o).cell j = s.cell j := rfl
@[simp] theorem State.emit_block (o : Out) (j : Nat) : (s.emit o).block j = s.block j := rfl
@[simp] theorem State.emit_region (o : Out) (j : Nat) : (s.emit o).region j = s.region j := rfl
@[simp] theorem State.emit_link (o : Out) (j : Nat) : (s.emit o).link j = s.link j := rfl
@[simp] theorem State.emit_ctx (o : Out) (j : Nat) : (s.emit o).ctx j = s.ctx j := rfl
@[simp] theorem State.emit_queue (o : Out) (j : Nat) : (s.emit o).queue j = s.queue j := rfl
@[simp] theorem State.emit_fence (o : Out) (j : Nat) : (s.emit o).fence j = s.fence j := rfl
@[simp] theorem State.emit_cocoon (o : Out) (j : Nat) : (s.emit o).cocoon j = s.cocoon j := rfl
@[simp] theorem State.emit_keySlot (o : Out) (j : Nat) : (s.emit o).keySlot j = s.keySlot j := rfl
@[simp] theorem State.emit_csrF (o : Out) (a lo len : Nat) : (s.emit o).csrF a lo len = s.csrF a lo len := rfl

/-! ### setCsr -/

@[simp] theorem State.setCsr_mem (a : Nat) (v : Word) : (s.setCsr a v).mem = s.mem := rfl
@[simp] theorem State.setCsr_ecc (a : Nat) (v : Word) : (s.setCsr a v).ecc = s.ecc := rfl
@[simp] theorem State.setCsr_scratchEcc (a : Nat) (v : Word) : (s.setCsr a v).scratchEcc = s.scratchEcc := rfl
@[simp] theorem State.setCsr_csrPend (a : Nat) (v : Word) : (s.setCsr a v).csrPend = s.csrPend := rfl
@[simp] theorem State.setCsr_cells (a : Nat) (v : Word) : (s.setCsr a v).cells = s.cells := rfl
@[simp] theorem State.setCsr_blocks (a : Nat) (v : Word) : (s.setCsr a v).blocks = s.blocks := rfl
@[simp] theorem State.setCsr_regions (a : Nat) (v : Word) : (s.setCsr a v).regions = s.regions := rfl
@[simp] theorem State.setCsr_silk (a : Nat) (v : Word) : (s.setCsr a v).silk = s.silk := rfl
@[simp] theorem State.setCsr_host (a : Nat) (v : Word) : (s.setCsr a v).host = s.host := rfl
@[simp] theorem State.setCsr_sec (a : Nat) (v : Word) : (s.setCsr a v).sec = s.sec := rfl
@[simp] theorem State.setCsr_chip (a : Nat) (v : Word) : (s.setCsr a v).chip = s.chip := rfl
@[simp] theorem State.setCsr_mon (a : Nat) (v : Word) : (s.setCsr a v).mon = s.mon := rfl
@[simp] theorem State.setCsr_boot (a : Nat) (v : Word) : (s.setCsr a v).boot = s.boot := rfl
@[simp] theorem State.setCsr_side (a : Nat) (v : Word) : (s.setCsr a v).side = s.side := rfl
@[simp] theorem State.setCsr_fuses (a : Nat) (v : Word) : (s.setCsr a v).fuses = s.fuses := rfl
@[simp] theorem State.setCsr_nextId (a : Nat) (v : Word) : (s.setCsr a v).nextId = s.nextId := rfl
@[simp] theorem State.setCsr_freeCtr (a : Nat) (v : Word) : (s.setCsr a v).freeCtr = s.freeCtr := rfl
@[simp] theorem State.setCsr_out (a : Nat) (v : Word) : (s.setCsr a v).out = s.out := rfl
@[simp] theorem State.setCsr_pending (a : Nat) (v : Word) : (s.setCsr a v).pending = s.pending := rfl
@[simp] theorem State.setCsr_cell (a : Nat) (v : Word) (j : Nat) : (s.setCsr a v).cell j = s.cell j := rfl
@[simp] theorem State.setCsr_block (a : Nat) (v : Word) (j : Nat) : (s.setCsr a v).block j = s.block j := rfl
@[simp] theorem State.setCsr_region (a : Nat) (v : Word) (j : Nat) : (s.setCsr a v).region j = s.region j := rfl
@[simp] theorem State.setCsr_link (a : Nat) (v : Word) (j : Nat) : (s.setCsr a v).link j = s.link j := rfl
@[simp] theorem State.setCsr_ctx (a : Nat) (v : Word) (j : Nat) : (s.setCsr a v).ctx j = s.ctx j := rfl
@[simp] theorem State.setCsr_queue (a : Nat) (v : Word) (j : Nat) : (s.setCsr a v).queue j = s.queue j := rfl
@[simp] theorem State.setCsr_fence (a : Nat) (v : Word) (j : Nat) : (s.setCsr a v).fence j = s.fence j := rfl
@[simp] theorem State.setCsr_cocoon (a : Nat) (v : Word) (j : Nat) : (s.setCsr a v).cocoon j = s.cocoon j := rfl
@[simp] theorem State.setCsr_keySlot (a : Nat) (v : Word) (j : Nat) : (s.setCsr a v).keySlot j = s.keySlot j := rfl

/-! ### Groups -/

/-- The group in a slot after another is put in one. -/
@[simp] theorem State.setGroup_group (g h : GRef) (v : Group) :
    (s.setGroup g v).group h = if h = g then some v else s.group h := by
  obtain ⟨gc, gs⟩ := g
  obtain ⟨hc, hs⟩ := h
  simp only [State.setGroup, State.group, State.setCell_cell, GRef.mk.injEq]
  by_cases hcc : hc = gc
  · subst hcc
    by_cases hss : hs = gs <;> simp [hss]
  · simp [hcc]

/-- The group in a slot after one is dropped. -/
@[simp] theorem State.dropGroup_group (g h : GRef) :
    (s.dropGroup g).group h = if h = g then none else s.group h := by
  obtain ⟨gc, gs⟩ := g
  obtain ⟨hc, hs⟩ := h
  simp only [State.dropGroup, State.group, State.setCell_cell, GRef.mk.injEq]
  by_cases hcc : hc = gc
  · subst hcc
    by_cases hss : hs = gs <;> simp [hss, find_drop]
  · simp [hcc]

/-- A cell after a group is put into it: only the cell's groups differ. -/
theorem State.setGroup_cell (g : GRef) (v : Group) (j : Nat) :
    (s.setGroup g v).cell j =
      if j = g.cell then { s.cell g.cell with groups := put (s.cell g.cell).groups g.slot v } else s.cell j := by
  simp [State.setGroup]

/-! ### Registers -/

/-- A register word after a write of one. -/
@[simp] theorem State.setCsr_csrAt (a b : Nat) (v : Word) :
    (s.setCsr a v).csrAt b = if b = a then v else s.csrAt b := by
  simp only [State.setCsr, State.csrAt]
  by_cases h : b = a
  · subst h; simp
  · simp only [h, if_false]
    generalize resetWord s.fuses b = d
    have : ∀ d', lookupD d (insertD d' s.csr a v) b = lookupD d s.csr b := by
      intro d'
      simp only [lookupD_eq_find, insertD]
      by_cases e : v = d'
      · simp [e, find_drop, h]
      · simp [e, find_place, find_drop, h]
    exact this _

end Sys2Proof.Machine
end

