-- ==== Sys2Proof/Laws/Issue.lean ====
section
/-! SUPPORT. What the shared front of every instruction does: when it lets an instruction go, what it may change,
and what follows for the instruction's claim. -/

namespace Sys2Proof.Machine

theorem reconvStep_halted {v u : Group} (h : reconvStep v = some u) : u.halted = v.halted ∧ u.bpPass = v.bpPass := by
  unfold reconvStep at h
  split at h <;> try contradiction
  split at h <;> try contradiction
  split at h <;> (cases h; simp)

theorem reconverge_halted (n : Nat) (v : Group) : (reconverge n v).halted = v.halted ∧ (reconverge n v).bpPass = v.bpPass := by
  induction n generalizing v with
  | zero => simp [reconverge]
  | succ n ih =>
    simp only [reconverge]
    split
    · simp
    · rename_i u hu; have := reconvStep_halted hu; have := ih u; simp_all

theorem front_go {s : State} {g : GRef} {opc : Nat} {w x : DWord} {sh : Shape} {chk room} (p : Port)
    (h : canIssue s g opc w x sh chk room = true) :
    gOk g = true ∧ ∃ v, s.readyGroup g = some v ∧
      s.front g p opc w x sh chk room =
        .go (((s.fetchAt g v opc w x).2.movePtr g p).setGroup g { v with stepOne := false, bpPass := false })
          { v with stepOne := false, bpPass := false } := by
  simp only [canIssue, Bool.and_eq_true] at h
  obtain ⟨h0, h⟩ := h
  refine ⟨h0, ?_⟩
  cases hg : s.group g with
  | none => simp [hg] at h
  | some v0 =>
    simp only [hg, Bool.and_eq_true] at h
    obtain ⟨⟨⟨⟨⟨⟨⟨⟨⟨⟨h1, h2⟩, h3⟩, h4⟩, h5⟩, h6⟩, h7⟩, h8⟩, h9⟩, h10⟩, h11⟩ := h
    refine ⟨reconverge (2 * v0.stack.length + 1) v0, by simp [State.readyGroup, hg], ?_⟩
    simp only [State.front, hg]
    generalize hv : reconverge (2 * v0.stack.length + 1) v0 = v at *
    simp only [State.fetchAt] at *
    generalize hf : (s.setGroup g v).fetchWords (cellBlock g.cell) v.ctx v.pc.toNat (twoFetch w) w x = f at *
    have e3 : (!v.halted && !v.bpPass && (s.setGroup g v).breakAt g.cell v.pc) = false := by
      revert h3; cases v.halted <;> cases v.bpPass <;> simp
    have e7 : (twoWords opc && decide (fld x 56 8 ≠ 255 - opc)) = false := by
      revert h7; cases twoWords opc <;> simp
    have e4 : f.1 = none := by simpa using h4
    have e9 : chk f.2 v = none := by simpa using h9
    simp at h2 h5 h8 h10
    simp only [h1, e3, e4, h5, h6, e7, e9, h11]
    simp [h2]
    have : ∀ (x : Nat), x ∈ sh.vs → x < v.regs := h8
    rw [if_neg (by simpa using h8), if_neg (by simpa using h10)]

theorem State.byte_congr {s t : State} (h : t.mem = s.mem) (k : t.sec = s.sec) (a : Nat) : t.byte a = s.byte a := by
  simp only [State.byte, State.sealedBy, State.cocoonOf, State.cocoon, State.raw, h, k]
  rfl

theorem SameOutside.refl (s : State) : SameOutside s s := by constructor <;> simp

theorem SameOutside.trans {s t u : State} (h : SameOutside s t) (k : SameOutside t u) : SameOutside s u := by
  constructor
  · rw [k.memory.1, k.memory.2.1, k.memory.2.2]; exact h.memory
  · intro a; rw [k.bytes, h.bytes]
  · rw [k.csr.1, k.csr.2]; exact h.csr
  · rw [k.regions, h.regions]
  · rw [k.silk, h.silk]
  · rw [k.host, h.host]
  · rw [k.sec, h.sec]
  · rw [k.errors.1, k.errors.2.1, k.errors.2.2]; exact h.errors
  · rw [k.service.1, k.service.2]; exact h.service
  · rw [k.mon, h.mon]
  · rw [k.boot, h.boot]
  · rw [k.side, h.side]
  · rw [k.fuses, h.fuses]
  · rw [k.out, h.out]
  · rw [k.pending, h.pending]

theorem SameBlock.refl (b : Block) : SameBlock b b := by constructor <;> simp

theorem SameBlock.trans {a b c : Block} (h : SameBlock a b) (k : SameBlock b c) : SameBlock a c := by
  constructor
  · rw [k.queue.1, k.queue.2]; exact h.queue
  · rw [k.sets, h.sets]
  · rw [k.bars, h.bars]
  · rw [k.chans.1, k.chans.2]; exact h.chans
  · rw [k.dma.1, k.dma.2]; exact h.dma
  · rw [k.cache, h.cache]
  · rw [k.win, h.win]
  · rw [k.err, h.err]
  · rw [k.fenced, h.fenced]

/-- What a fetch may change: held translations, the count of open values, a block's instruction cache. -/
structure FetchFrame (b : Nat) (s t : State) : Prop where
  outside : SameOutside s t
  cells   : t.cells = s.cells
  blocks  : ∀ k, k ≠ b → t.block k = s.block k
  block   : SameBlock (s.block b) (t.block b)

theorem FetchFrame.refl (b : Nat) (s : State) : FetchFrame b s s :=
  ⟨.refl s, rfl, fun _ _ => rfl, .refl _⟩

theorem FetchFrame.trans {b : Nat} {s t u : State} (h : FetchFrame b s t) (k : FetchFrame b t u) : FetchFrame b s u :=
  ⟨h.outside.trans k.outside, by rw [k.cells, h.cells], fun j hj => by rw [k.blocks j hj, h.blocks j hj],
   h.block.trans k.block⟩

theorem State.tlbAdd_frame (s : State) (e : TlbEntry) (b : Nat) : FetchFrame b s (s.tlbAdd e) :=
  ⟨by constructor <;> first | exact ⟨rfl, rfl⟩ | exact ⟨rfl, rfl, rfl⟩ | exact fun a => State.byte_congr rfl rfl a | rfl, rfl, fun _ _ => rfl, .refl _⟩

theorem State.held_frame (s : State) (b : Nat) : FetchFrame b s s.held.2 :=
  ⟨by constructor <;> first | exact ⟨rfl, rfl⟩ | exact ⟨rfl, rfl, rfl⟩ | exact fun a => State.byte_congr rfl rfl a | rfl, rfl, fun _ _ => rfl, .refl _⟩

theorem State.walkTo_frame (s : State) (n va : Nat) (m : Mode) (b : Nat) : FetchFrame b s (s.walkTo n va m).2 := by
  unfold State.walkTo
  split
  · exact .refl b s
  · exact .refl b s
  · exact .refl b s
  · exact .refl b s
  · exact s.tlbAdd_frame _ b

theorem State.free_frame (s : State) (b : Nat) : FetchFrame b s s.free.2 :=
  ⟨by constructor <;> first | exact ⟨rfl, rfl⟩ | exact ⟨rfl, rfl, rfl⟩ | exact fun a => State.byte_congr rfl rfl a | rfl, rfl, fun _ _ => rfl, .refl _⟩

/-- All that a translation may change. -/
theorem State.translate_frame (s : State) (n va : Nat) (m : Mode) (b : Nat) : FetchFrame b s (s.translate n va m).2 := by
  unfold State.translate State.translateW
  split
  · exact .refl b s
  · split
    · exact s.walkTo_frame n va m b
    · dsimp only
      split
      · exact s.held_frame b
      · exact (s.held_frame b).trans (s.held.2.walkTo_frame n va m b)

theorem State.noteFetch_frame (s : State) (b sec : Nat) : FetchFrame b s (s.noteFetch b sec) := by
  refine (s.free_frame b).trans ⟨by constructor <;> first | exact ⟨rfl, rfl⟩ | exact ⟨rfl, rfl, rfl⟩ | exact fun a => State.byte_congr rfl rfl a | rfl, rfl, fun k h => by simp [State.noteFetch, h], ?_⟩
  simp only [State.noteFetch, State.setBlock_block, if_true]
  constructor <;> simp

/-- All that a look into the instruction cache may change. -/
theorem State.textSector_frame (s : State) (b sec : Nat) : FetchFrame b s (s.textSector b sec).2 := by
  unfold State.textSector
  split
  · exact s.noteFetch_frame b sec
  · dsimp only
    split
    · exact s.held_frame b
    · exact (s.held_frame b).trans (s.held.2.noteFetch_frame b sec)

/-- All that a fetch may change. -/
theorem State.fetchWords_frame (s : State) (b n pc : Nat) (two : Bool) (w x : DWord) :
    FetchFrame b s (s.fetchWords b n pc two w x).2 := by
  unfold State.fetchWords
  have h := s.translate_frame n pc .fetch b
  generalize s.translate n pc .fetch = a at *
  obtain ⟨a1, a2⟩ := a
  cases a1 with
  | ok pa nc =>
    dsimp only at h ⊢
    have h2 := h.trans (a2.textSector_frame b (pa / 32 * 32))
    generalize a2.textSector b (pa / 32 * 32) = l at *
    split
    · exact h2
    · split
      · exact h2
      · split
        · exact h2
        · have h3 := l.2.translate_frame n (pc + 8) .fetch b
          generalize l.2.translate n (pc + 8) .fetch = c at *
          obtain ⟨c1, c2⟩ := c
          cases c1 with
          | ok pb nc => exact (h2.trans h3).trans (c2.textSector_frame b (pb / 32 * 32))
          | _ => exact h2.trans h3
  | _ => exact h

theorem SameCell.refl (c : Cell) : SameCell c c := by constructor <;> simp

/-- The state at which an issued instruction has its effect, with a group put into its slot: nothing but that
group differs. -/
theorem issued_onlyGroup (s : State) (g : GRef) (v u : Group) (p : Port) (opc : Nat) (w x : DWord) :
    OnlyGroup s ((((s.fetchAt g v opc w x).2.movePtr g p)).setGroup g u) g := by
  have h : FetchFrame (cellBlock g.cell) (s.setGroup g v) (s.fetchAt g v opc w x).2 := State.fetchWords_frame ..
  generalize (s.fetchAt g v opc w x).2 = f at *
  have hc : ∀ j, f.cell j = (s.setGroup g v).cell j := fun j => by simp only [State.cell, h.cells]
  refine ⟨?_, ?_, ?_, ?_, ?_, ?_⟩
  · have h0 : SameOutside s (s.setGroup g v) := by
      constructor <;> first | exact ⟨rfl, rfl⟩ | exact ⟨rfl, rfl, rfl⟩ | exact fun a => State.byte_congr rfl rfl a | rfl
    have h1 : SameOutside f ((f.movePtr g p).setGroup g u) := by
      constructor <;> first | exact ⟨rfl, rfl⟩ | exact ⟨rfl, rfl, rfl⟩ | exact fun a => State.byte_congr rfl rfl a | rfl
    exact (h0.trans h.outside).trans h1
  · intro c hne
    simp [State.setGroup_cell, State.movePtr, hne, hc]
  · intro k hk
    obtain ⟨kc, ks⟩ := k
    obtain ⟨gc, gs⟩ := g
    by_cases e : kc = gc
    · subst e
      have : ks ≠ gs := by rintro rfl; exact hk rfl
      simp [State.group, State.setGroup_cell, State.movePtr, hc, this]
    · simp [State.group, State.setGroup_cell, State.movePtr, hc, e]
  · simp only [State.setGroup_cell, State.movePtr, State.setCell_cell, hc, if_true]
    constructor <;> simp
  · intro b hb
    simpa [State.movePtr] using h.blocks b hb
  · simpa [State.movePtr] using h.block

theorem drop_of_find_none {α : Type} {m : SMap α} {k : Nat} (h : find m k = none) : drop m k = m := by
  induction m with
  | nil => rfl
  | cons e r ih =>
    obtain ⟨a, v⟩ := e
    by_cases e : k = a
    · simp [find, e] at h
    · simp [find, e] at h; simp [drop, e, ih h]

theorem drop_place {α : Type} {m : SMap α} {k : Nat} (v : α) (h : find m k = none) : drop (place m k v) k = m := by
  induction m with
  | nil => simp [place, drop]
  | cons e r ih =>
    obtain ⟨a, w⟩ := e
    by_cases e : k = a
    · simp [find, e] at h
    · have hr : find r k = none := by simpa [find, e] using h
      by_cases hk : k < a
      · simp [place, hk, drop, e, drop_of_find_none hr]
      · simp [place, hk, drop, e, ih hr]

@[simp] theorem drop_insertD {α : Type} [DecidableEq α] (d : α) (m : SMap α) (k : Nat) (v : α) :
    drop (insertD d m k v) k = drop m k := by
  have hn : find (drop m k) k = none := by simp [find_drop]
  unfold insertD
  split
  · exact drop_of_find_none hn
  · exact drop_place v hn

@[simp] theorem insertD_insertD {α : Type} [DecidableEq α] (d : α) (m : SMap α) (k : Nat) (a b : α) :
    insertD d (insertD d m k a) k b = insertD d m k b := by
  show (if b = d then drop (insertD d m k a) k else place (drop (insertD d m k a) k) k b) = _
  rw [drop_insertD]
  rfl

@[simp] theorem put_put {α : Type} (m : SMap α) (k : Nat) (a b : α) : put (put m k a) k b = put m k b := by
  have hn : find (drop m k) k = none := by simp [find_drop]
  rw [put, put, put, drop_place a hn]

@[simp] theorem State.setGroup_setGroup (s : State) (g : GRef) (v u : Group) : (s.setGroup g v).setGroup g u = s.setGroup g u := by
  unfold State.setGroup State.setCell State.cell
  simp

/-- What an issued instruction reaches: its effect on its group, at the state its front leaves. -/
theorem issue_issues {s : State} {g : GRef} {p : Port} {opc : Nat} {w x : DWord} {sh : Shape} {chk room}
    {f : State → Group → Group} {P : Group → Group → Prop} {i : Instr}
    (hi : exec i s = issue s g p opc w x sh chk room (fun t v => t.setGroup g (f t v)))
    (h : canIssue s g opc w x sh chk room = true)
    (hP : ∀ t v, t.fuses = s.fuses → t.csr = s.csr →
      P v (f t { v with stepOne := false, bpPass := false })) :
    Issues i g s P := by
  obtain ⟨h0, v, hv, hf⟩ := front_go p h
  have hx := issued_onlyGroup s g v { v with stepOne := false, bpPass := false } p opc w x
  have hy := issued_onlyGroup s g v (f (((s.fetchAt g v opc w x).2.movePtr g p).setGroup g { v with stepOne := false, bpPass := false }) { v with stepOne := false, bpPass := false }) p opc w x
  refine ⟨_, by rw [hi]; simp only [issue, issueOut, h0, hf]; rfl, ?_, v, _, hv, by simp; rfl, ?_⟩
  · simpa using hy
  · exact hP _ v hx.outside.fuses hx.outside.csr.1

/-! lanes -/

theorem bitFold_vregs (mask : DWord) (f : Nat → Word) (r t : Nat) (ht : t < 64) (l : List Nat) (m : SMap Word)
    (hl : ∀ x ∈ l, x < 64) (q : Nat) :
    lookupD 0 (l.foldl (fun m t => if bit mask t then insertD 0 m (r * 64 + t) (f t) else m) m) (q * 64 + t) =
      if q = r ∧ bit mask t = true ∧ t ∈ l then f t else lookupD 0 m (q * 64 + t) := by
  induction l generalizing m with
  | nil => simp
  | cons a l ih =>
    have ha : a < 64 := hl a (by simp)
    simp only [List.foldl_cons]
    rw [ih _ (fun x hx => hl x (List.mem_cons_of_mem _ hx))]
    have step : lookupD 0 (if bit mask a then insertD 0 m (r * 64 + a) (f a) else m) (q * 64 + t) =
        if q = r ∧ bit mask t = true ∧ t = a then f t else lookupD 0 m (q * 64 + t) := by
      by_cases e : q = r ∧ t = a
      · obtain ⟨rfl, rfl⟩ := e
        by_cases hb : bit mask t = true <;> simp [hb]
      · have hk : q * 64 + t ≠ r * 64 + a := by omega
        have hn : ¬ (q = r ∧ bit mask t = true ∧ t = a) := fun h => e ⟨h.1, h.2.2⟩
        rw [if_neg hn]
        split
        · rw [lookupD_insertD, if_neg hk]
        · rfl
    rw [step]
    by_cases h1 : q = r ∧ bit mask t = true
    · obtain ⟨hq, hb⟩ := h1
      simp only [hq, hb, true_and, List.mem_cons]
      by_cases h3 : t ∈ l
      · simp only [h3, or_true, if_true]
      · by_cases h2 : t = a
        · simp only [h2, true_or, if_true, ite_self]
        · simp only [h3, h2, or_false, if_false]
    · rw [if_neg (fun h => h1 ⟨h.1, h.2.1⟩), if_neg (fun h => h1 ⟨h.1, h.2.1⟩), if_neg (fun h => h1 ⟨h.1, h.2.1⟩)]

theorem Group.setV_vreg (v : Group) (r : Nat) (mask : DWord) (f : Nat → Word) (q t : Nat) (ht : t < 64) :
    (v.setV r mask f).vreg q t = if q = r ∧ bit mask t = true then f t else v.vreg q t := by
  simp only [Group.vreg, Group.setV, writeLanes]
  rw [bitFold_vregs mask f r t ht _ _ (fun x hx => List.mem_range.mp hx)]
  simp only [List.mem_range, ht, and_true]

end Sys2Proof.Machine
end

