-- ==== Sys2Proof/Laws/Lane.lean ====
section
/-! SUPPORT. What a lane write and a register write of a group do: the value at the destination, every other register,
the sticky flags. -/

namespace Sys2Proof.Machine

theorem fold_fOr_testBit (f : Nat → Nat) (i : Nat) : ∀ (l : List Nat) (a : Nat),
    (l.foldl (fun a t => fOr a (f t)) a).testBit i = (a.testBit i || l.any (fun t => (f t).testBit i))
  | [], a => by simp
  | x :: l, a => by
    rw [List.foldl_cons, fold_fOr_testBit f i l, fOr, Nat.testBit_or, List.any_cons, Bool.or_assoc]

theorem raiseF_bit (v : Group) (n i : Nat) (h : i < 5) : bit (v.raiseF n).flags i = (bit v.flags i || n.testBit i) := by
  simp only [Group.raiseF, bit, BitVec.getLsbD_or, BitVec.getLsbD_ofNat, h, decide_true, Bool.true_and]

theorem laneWrite_vreg (v : Group) (w : DWord) (f : Nat → Word × Nat) (r t : Nat) (ht : t < 64) :
    (laneWrite v w f).vreg r t = if r = iDst w ∧ bit (v.active w) t = true then (f t).1 else v.vreg r t := by
  rw [← Group.setV_vreg v (iDst w) (v.active w) (fun t => (f t).1) r t ht]
  rfl

theorem laneWrite_same (v : Group) (w : DWord) (f : Nat → Word × Nat) :
    SameGroup v (laneWrite { v with stepOne := false, bpPass := false } w f) := by
  constructor <;> simp [laneWrite, Group.raiseF, Group.setV]

@[simp] theorem setS_sreg (v : Group) (n : Nat) (x : Word) (m : Nat) :
    (v.setS n x).sreg m = if m = n then x else v.sreg m := by
  simp [Group.setS, Group.sreg]

/-- p7 discards writes (R65). -/
@[simp] theorem setP_seven (v : Group) (m x : DWord) : v.setP 7 m x = v := rfl

/-- A predicate after a write in the bits of a mask. -/
theorem setP_pred (v : Group) (p : Nat) (m x : DWord) (q : Nat) :
    (v.setP p m x).pred q = if q = p ∧ p ≠ 7 then (v.pred p &&& ~~~m) ||| (x &&& m) else v.pred q := by
  unfold Group.setP
  by_cases h : p = 7
  · rw [if_pos h, if_neg (by simp [h])]
  · rw [if_neg h]
    unfold Group.pred
    simp only [lookupD_insertD]
    by_cases hq : q = p
    · subst hq; simp [h]
    · simp [hq]

/-- A scalar instruction leaves vector registers, predicates, masks and memory waits alone. -/
theorem setS_same (v : Group) (n : Nat) (x : Word) : SameGroup v (v.setS n x) := by
  constructor <;> simp [Group.setS]

end Sys2Proof.Machine
end

