-- ==== Sys2Proof/Laws/Memory.lean ====
section
/-! SUPPORT. The laws of memory: a read after a write, the bytes that a write leaves alone, and the canonical
form that every memory operation keeps. -/

namespace Sys2Proof.Machine

/-- A stored byte after a write: the byte written, or the byte from before. -/
theorem lookupD_rawWrite : ∀ (m : List Host.Cell) (pa : Nat) (bs : List Byte) (a : Nat),
    lookupD 0 (rawWrite m pa bs) a = if pa ≤ a ∧ a < pa + bs.length then bs.getD (a - pa) 0 else lookupD 0 m a
  | m, pa, [], a => by simp only [rawWrite, List.length_nil]; rw [if_neg (by omega)]
  | m, pa, b :: r, a => by
    simp only [rawWrite, lookupD_rawWrite, lookupD_insertD, List.length_cons]
    by_cases h : a = pa
    · subst h
      rw [if_neg (by omega), if_pos rfl, if_pos (by omega), Nat.sub_self]
      rfl
    · by_cases h2 : pa + 1 ≤ a ∧ a < pa + 1 + r.length
      · rw [if_pos h2, if_pos (by omega), show a - pa = (a - (pa + 1)) + 1 from by omega]
        rfl
      · rw [if_neg h2, if_neg h, if_neg (by omega)]

/-- The raw bytes of a range that a write does not touch. -/
theorem rawBytes_rawWrite (m : List Host.Cell) (pa : Nat) (bs : List Byte) : ∀ (n a : Nat),
    a + n ≤ pa ∨ pa + bs.length ≤ a → rawBytes (rawWrite m pa bs) a n = rawBytes m a n
  | 0, _, _ => rfl
  | n + 1, a, h => by
    simp only [rawBytes, lookupD_rawWrite]
    rw [if_neg (by omega), rawBytes_rawWrite m pa bs n (a + 1) (by omega)]

theorem memWf_rawWrite : ∀ (m : List Host.Cell) (pa : Nat) (bs : List Byte), memWf m = true → memWf (rawWrite m pa bs) = true
  | _, _, [], h => h
  | m, pa, b :: r, h => memWf_rawWrite (insertD 0 m pa b) (pa + 1) r (canonical_insertD 0 pa b h)

theorem memWf_filter (p : Host.Cell → Bool) {m : List Host.Cell} (h : memWf m = true) : memWf (m.filter p) = true :=
  canonical_filter 0 p h

theorem State.openSector_memWf (s : State) (pa : Nat) (h : memWf s.mem = true) : memWf (s.openSector pa).mem = true := by
  unfold State.openSector
  split
  · exact h
  · exact memWf_rawWrite _ _ _ h

theorem State.openSectors_memWf : ∀ (n k : Nat) (s : State), memWf s.mem = true → memWf (s.openSectors k n).mem = true
  | 0, _, _, h => h
  | n + 1, k, s, h => State.openSectors_memWf n (k + 1) _ (s.openSector_memWf _ h)

/-- Every store keeps the canonical form. -/
theorem State.store_memWf (s : State) (pa : Nat) (bs : List Byte) (h : memWf s.mem = true) : memWf (s.store pa bs).mem = true :=
  memWf_rawWrite _ _ _ (State.openSectors_memWf _ _ _ h)

theorem State.shutSector_memWf (s : State) (pa : Nat) (h : memWf s.mem = true) : memWf (s.shutSector pa).mem = true := by
  unfold State.shutSector
  split
  · split
    · dsimp only
      split
      · exact memWf_rawWrite _ _ _ h
      · exact h
    · exact h
  · exact h

theorem State.shutSectors_memWf : ∀ (n k : Nat) (s : State), memWf s.mem = true → memWf (s.shutSectors k n).mem = true
  | 0, _, _, h => h
  | n + 1, k, s, h => State.shutSectors_memWf n (k + 1) _ (s.shutSector_memWf (32 * k) h)

theorem State.storeRaw_memWf (s : State) (pa : Nat) (bs : List Byte) (h : memWf s.mem = true) : memWf (s.storeRaw pa bs).mem = true :=
  memWf_rawWrite _ _ _ (State.shutSectors_memWf _ _ s h)

/-- A store of an access, wherever it lands, keeps the memory's canonical form. -/
theorem State.storeAs_memWf (s : State) (n pa : Nat) (bs : List Byte) (h : memWf s.mem = true) : memWf (s.storeAs n pa bs).mem = true := by
  unfold State.storeAs
  split
  · exact s.storeRaw_memWf pa bs h
  · exact s.store_memWf pa bs h

theorem State.storePieces_memWf : ∀ (l : List (Nat × Nat)) (bs : List Byte) (s : State),
    memWf s.mem = true → memWf (s.storePieces l bs).mem = true
  | [], _, _, h => h
  | (pa, n) :: r, bs, s, h => State.storePieces_memWf r (bs.drop n) _ (s.store_memWf pa (bs.take n) h)

/-! ### What a master reads after a store (R205, R320) -/

/-- A sector lies in one place (R210). -/
theorem placeOf_sector {a b : Nat} (h : a / 32 = b / 32) : placeOf a = placeOf b := by
  have e1 : a < 8 * hbmSize ↔ b < 8 * hbmSize := by unfold hbmSize; omega
  have e2 : (lsBase ≤ a ∧ a < lsBase + 8 * lsSize) ↔ (lsBase ≤ b ∧ b < lsBase + 8 * lsSize) := by unfold lsBase lsSize; omega
  have e3 : (blkBase ≤ a ∧ a < blkBase + 640 * 0x200000) ↔ (blkBase ≤ b ∧ b < blkBase + 640 * 0x200000) := by unfold blkBase; omega
  have d1 : a / hbmSize = b / hbmSize := by unfold hbmSize; omega
  have d2 : (a - lsBase) / lsSize = (b - lsBase) / lsSize := by unfold lsBase lsSize; omega
  have d3 : (a - blkBase) / 0x200000 = (b - blkBase) / 0x200000 := by unfold blkBase; omega
  simp only [placeOf, e1, e2, e3, d1, d2, d3]

theorem State.sealedBy_sector (s : State) {a b : Nat} (h : a / 32 = b / 32) : s.sealedBy a = s.sealedBy b := by
  simp only [State.sealedBy, placeOf_sector h, h]

theorem mem_addMem (x y : Nat) : ∀ l : List Nat, y ∈ addMem l x ↔ y = x ∨ y ∈ l
  | [] => by simp [addMem]
  | z :: r => by
    unfold addMem
    split
    · simp
    · split
      · rename_i h; subst h; simp
      · simp only [List.mem_cons, mem_addMem x y r]; exact or_left_comm

theorem padTo_getD (n i : Nat) (l : List Byte) (h : i < n) : (padTo n l).getD i 0 = l.getD i 0 := by
  unfold padTo
  simp only [List.getD, List.getElem?_take, h, if_true]
  by_cases hi : i < l.length
  · rw [List.getElem?_append_left hi]
  · rw [List.getElem?_append_right (by omega), List.getElem?_eq_none (show l.length ≤ i by omega), List.getElem?_replicate]
    split <;> rfl

theorem padTo_length (n : Nat) (l : List Byte) : (padTo n l).length = n := by simp [padTo]; omega

/-- A cocoon after a sector of cocoon `c` is opened. -/
theorem State.openSector_cocoon {s : State} {pa c : Nat} (h : s.sealedBy pa = some c) (x : Nat) :
    (s.openSector pa).cocoon x = if x = c then { s.cocoon c with plain := addMem (s.cocoon c).plain (pa / 32) } else s.cocoon x := by
  simp only [State.openSector, h]
  exact lookupD_insertD _ _ _ _ _

theorem State.openSector_cocoonOf (s : State) (pa r : Nat) : (s.openSector pa).cocoonOf r = s.cocoonOf r := by
  cases h : s.sealedBy pa with
  | none => simp only [State.openSector, h]
  | some c =>
    simp only [State.cocoonOf, State.openSector_cocoon h]
    have : ∀ x, (if x = c then { s.cocoon c with plain := addMem (s.cocoon c).plain (pa / 32) } else s.cocoon x).st = (s.cocoon x).st ∧
        (if x = c then { s.cocoon c with plain := addMem (s.cocoon c).plain (pa / 32) } else s.cocoon x).regions = (s.cocoon x).regions := by
      intro x; split <;> simp_all
    simp only [this]

/-- What sealedBy says. -/
theorem State.sealedBy_some {s : State} {pa c : Nat} (h : s.sealedBy pa = some c) :
    ∃ p, placeOf pa = some p ∧ s.cocoonOf p.region = some c ∧ (s.cocoon c).plain.contains (pa / 32) = false := by
  unfold State.sealedBy at h
  cases hp : placeOf pa with
  | none => simp [hp] at h
  | some p =>
    cases hc : s.cocoonOf p.region with
    | none => simp [hp, hc] at h
    | some d =>
      simp only [hp, hc] at h
      split at h
      · cases h
      · cases h; exact ⟨p, rfl, hc, by rw [Bool.eq_false_iff]; assumption⟩

/-- Which sectors are sealed after one is opened: all that were, but that one. -/
theorem State.openSector_sealedBy (s : State) (pa a : Nat) :
    (s.openSector pa).sealedBy a = if a / 32 = pa / 32 then none else s.sealedBy a := by
  cases h : s.sealedBy pa with
  | none =>
    have : s.openSector pa = s := by simp only [State.openSector, h]
    rw [this]
    split
    · rw [State.sealedBy_sector s ‹_›, h]
    · rfl
  | some c =>
    obtain ⟨p, hp, hc, hn⟩ := State.sealedBy_some h
    unfold State.sealedBy
    simp only [State.openSector_cocoonOf]
    by_cases e : a / 32 = pa / 32
    · rw [if_pos e, placeOf_sector e, hp]
      simp only [hc, State.openSector_cocoon h, if_true]
      rw [if_pos]
      rw [e, List.contains_iff_mem, mem_addMem]; exact .inl rfl
    · rw [if_neg e]
      cases placeOf a with
      | none => rfl
      | some q =>
        cases hq : s.cocoonOf q.region with
        | none => simp only [hq]
        | some d =>
          simp only [hq, State.openSector_cocoon h]
          by_cases hd : d = c
          · subst hd
            have : (addMem (s.cocoon d).plain (pa / 32)).contains (a / 32) = (s.cocoon d).plain.contains (a / 32) := by
              rw [Bool.eq_iff_iff, List.contains_iff_mem, List.contains_iff_mem, mem_addMem]; simp [e]
            simp only [if_true, this]
          · simp only [hd, if_false]

/-- Opening a sector changes no byte that a master reads (R320). -/
theorem State.openSector_byte (s : State) (pa a : Nat) : (s.openSector pa).byte a = s.byte a := by
  cases h : s.sealedBy pa with
  | none => simp only [State.openSector, h]
  | some c =>
    have hm : (s.openSector pa).mem = rawWrite s.mem (pa / 32 * 32)
        (padTo 32 (Config.xtsOpen (s.cocoon c).key (pa / 32) (rawBytes s.mem (pa / 32 * 32) 32))) := by
      simp only [State.openSector, h]
    have hl := padTo_length 32 (Config.xtsOpen (s.cocoon c).key (pa / 32) (rawBytes s.mem (pa / 32 * 32) 32))
    unfold State.byte
    rw [State.openSector_sealedBy]
    by_cases e : a / 32 = pa / 32
    · rw [if_pos e, State.sealedBy_sector s e, h]
      simp only [State.raw, hm, lookupD_rawWrite, hl]
      rw [if_pos (by omega), padTo_getD _ _ _ (by omega), e, show a - pa / 32 * 32 = a % 32 by omega]
    · rw [if_neg e]
      cases hs : s.sealedBy a with
      | none =>
        simp only [State.raw, hm, lookupD_rawWrite, hl]
        rw [if_neg (by omega)]
      | some d =>
        simp only [hm]
        rw [rawBytes_rawWrite _ _ _ _ _ (by rw [hl]; omega)]
        have : ((s.openSector pa).cocoon d).key = (s.cocoon d).key := by
          rw [State.openSector_cocoon h]; split <;> simp_all
        rw [this]

theorem State.openSectors_byte : ∀ (n k : Nat) (s : State) (a : Nat), (s.openSectors k n).byte a = s.byte a
  | 0, _, _, _ => rfl
  | n + 1, k, s, a => by rw [State.openSectors, State.openSectors_byte n, State.openSector_byte]

theorem State.openSectors_sealedBy : ∀ (n k : Nat) (s : State) (a : Nat),
    (s.openSectors k n).sealedBy a = if k ≤ a / 32 ∧ a / 32 < k + n then none else s.sealedBy a
  | 0, k, s, a => by rw [if_neg (by omega)]; rfl
  | n + 1, k, s, a => by
    rw [State.openSectors, State.openSectors_sealedBy n, State.openSector_sealedBy]
    have : 32 * k / 32 = k := by omega
    rw [this]
    by_cases h : a / 32 = k
    · rw [if_neg (by omega), if_pos h, if_pos (by omega)]
    · rw [if_neg h]
      by_cases h2 : k + 1 ≤ a / 32 ∧ a / 32 < k + 1 + n
      · rw [if_pos h2, if_pos (by omega)]
      · rw [if_neg h2, if_neg (by omega)]

/-- A byte after a store: the byte stored, or as it was. -/
theorem State.store_byte (s : State) (pa : Nat) (bs : List Byte) (a : Nat) :
    (s.store pa bs).byte a = if pa ≤ a ∧ a < pa + bs.length then bs.getD (a - pa) 0 else s.byte a := by
  rw [← State.openSectors_byte (sectorSpan pa bs.length) (pa / 32) s a]
  have hs := fun x => State.openSectors_sealedBy (sectorSpan pa bs.length) (pa / 32) s x
  unfold State.store
  generalize hu : s.openSectors (pa / 32) (sectorSpan pa bs.length) = u at *
  have hc : ∀ x, ({ u with mem := rawWrite u.mem pa bs } : State).sealedBy x = u.sealedBy x := fun _ => rfl
  have hk : ∀ x, ({ u with mem := rawWrite u.mem pa bs } : State).cocoon x = u.cocoon x := fun _ => rfl
  unfold State.byte
  simp only [hc, hk, State.raw, lookupD_rawWrite]
  by_cases h : pa ≤ a ∧ a < pa + bs.length
  · have : u.sealedBy a = none := by
      rw [hs a, if_pos]
      unfold sectorSpan; rw [if_neg (by omega)]; omega
    rw [this]
  · rw [if_neg h]
    cases hb : u.sealedBy a with
    | none => simp only [if_neg h]
    | some d =>
      have hns : ¬(pa / 32 ≤ a / 32 ∧ a / 32 < pa / 32 + sectorSpan pa bs.length) := by
        intro hh; rw [hs a, if_pos hh] at hb; cases hb
      have hr : rawBytes (rawWrite u.mem pa bs) (a / 32 * 32) 32 = rawBytes u.mem (a / 32 * 32) 32 := by
        cases bs with
        | nil => rfl
        | cons b r =>
          refine rawBytes_rawWrite _ _ _ _ _ ?_
          simp only [sectorSpan, List.length_cons, Nat.add_one_ne_zero, if_false] at hns ⊢
          omega
      simp only [hr, if_neg h]

/-- Bytes that a store does not reach read as before. -/
theorem State.store_bytes_apart (s : State) (pa : Nat) (bs : List Byte) : ∀ (n a : Nat),
    a + n ≤ pa ∨ pa + bs.length ≤ a → (s.store pa bs).bytes a n = s.bytes a n
  | 0, _, _ => rfl
  | n + 1, a, h => by
    rw [State.bytes, State.bytes, State.store_byte, if_neg (by omega), State.store_bytes_apart s pa bs n (a + 1) (by omega)]

/-- Bytes that no piece of a store reaches read as before. -/
theorem State.storePieces_byte : ∀ (l : List (Nat × Nat)) (bs : List Byte) (s : State) (a : Nat),
    (∀ p ∈ l, a < p.1 ∨ p.1 + p.2 ≤ a) → (s.storePieces l bs).byte a = s.byte a
  | [], _, _, _, _ => rfl
  | (pa, n) :: r, bs, s, a, h => by
    rw [State.storePieces, State.storePieces_byte r _ _ _ (fun p hp => h p (List.mem_cons_of_mem _ hp)), State.store_byte, if_neg]
    have h0 : a < pa ∨ pa + n ≤ a := h (pa, n) List.mem_cons_self
    have : (bs.take n).length ≤ n := by rw [List.length_take]; omega
    omega


theorem State.eccWrite_mem (s : State) (pa n : Nat) : (s.eccWrite pa n).mem = s.mem := rfl

theorem reset_memWf : memWf State.reset.mem = true := rfl

end Sys2Proof.Machine
end

