-- ==== Sys2Proof/Laws/PerInstr.lean ====
section
/-! SUPPORT. Statements made per instruction. NoWord: no word of the table spells the command, for the table gives its
rows no bits. -/

namespace Sys2Proof.Laws

/-- No word spells the command. -/
def NoWord.Statement (i : Instr) : Prop := ∀ nbits w, decodeTableWord nbits w ≠ some i

theorem NoWord.iadd : ∀ a0 a1, NoWord.Statement (.iadd a0 a1) := by intros; nofun
theorem NoWord.isub : ∀ a0 a1, NoWord.Statement (.isub a0 a1) := by intros; nofun
theorem NoWord.imul : ∀ a0 a1, NoWord.Statement (.imul a0 a1) := by intros; nofun
theorem NoWord.imulhi : ∀ a0 a1, NoWord.Statement (.imulhi a0 a1) := by intros; nofun
theorem NoWord.imad : ∀ a0 a1, NoWord.Statement (.imad a0 a1) := by intros; nofun
theorem NoWord.imin : ∀ a0 a1, NoWord.Statement (.imin a0 a1) := by intros; nofun
theorem NoWord.imax : ∀ a0 a1, NoWord.Statement (.imax a0 a1) := by intros; nofun
theorem NoWord.iabs : ∀ a0 a1, NoWord.Statement (.iabs a0 a1) := by intros; nofun
theorem NoWord.iand : ∀ a0 a1, NoWord.Statement (.iand a0 a1) := by intros; nofun
theorem NoWord.ior : ∀ a0 a1, NoWord.Statement (.ior a0 a1) := by intros; nofun
theorem NoWord.ixor : ∀ a0 a1, NoWord.Statement (.ixor a0 a1) := by intros; nofun
theorem NoWord.andn : ∀ a0 a1, NoWord.Statement (.andn a0 a1) := by intros; nofun
theorem NoWord.shl : ∀ a0 a1, NoWord.Statement (.shl a0 a1) := by intros; nofun
theorem NoWord.shr : ∀ a0 a1, NoWord.Statement (.shr a0 a1) := by intros; nofun
theorem NoWord.popc : ∀ a0 a1, NoWord.Statement (.popc a0 a1) := by intros; nofun
theorem NoWord.clz : ∀ a0 a1, NoWord.Statement (.clz a0 a1) := by intros; nofun
theorem NoWord.brev : ∀ a0 a1, NoWord.Statement (.brev a0 a1) := by intros; nofun
theorem NoWord.isetp : ∀ a0 a1, NoWord.Statement (.isetp a0 a1) := by intros; nofun
theorem NoWord.sel : ∀ a0 a1, NoWord.Statement (.sel a0 a1) := by intros; nofun
theorem NoWord.iadd64 : ∀ a0 a1, NoWord.Statement (.iadd64 a0 a1) := by intros; nofun
theorem NoWord.mov : ∀ a0 a1, NoWord.Statement (.mov a0 a1) := by intros; nofun
theorem NoWord.bshuf : ∀ a0 a1, NoWord.Statement (.bshuf a0 a1) := by intros; nofun
theorem NoWord.fadd : ∀ a0 a1, NoWord.Statement (.fadd a0 a1) := by intros; nofun
theorem NoWord.fmul : ∀ a0 a1, NoWord.Statement (.fmul a0 a1) := by intros; nofun
theorem NoWord.ffma : ∀ a0 a1, NoWord.Statement (.ffma a0 a1) := by intros; nofun
theorem NoWord.fmin : ∀ a0 a1, NoWord.Statement (.fmin a0 a1) := by intros; nofun
theorem NoWord.fmax : ∀ a0 a1, NoWord.Statement (.fmax a0 a1) := by intros; nofun
theorem NoWord.fsetp : ∀ a0 a1, NoWord.Statement (.fsetp a0 a1) := by intros; nofun
theorem NoWord.frcp : ∀ a0 a1, NoWord.Statement (.frcp a0 a1) := by intros; nofun
theorem NoWord.frsq : ∀ a0 a1, NoWord.Statement (.frsq a0 a1) := by intros; nofun
theorem NoWord.fsqrt : ∀ a0 a1, NoWord.Statement (.fsqrt a0 a1) := by intros; nofun
theorem NoWord.fex2 : ∀ a0 a1, NoWord.Statement (.fex2 a0 a1) := by intros; nofun
theorem NoWord.flg2 : ∀ a0 a1, NoWord.Statement (.flg2 a0 a1) := by intros; nofun
theorem NoWord.fsin : ∀ a0 a1, NoWord.Statement (.fsin a0 a1) := by intros; nofun
theorem NoWord.fcos : ∀ a0 a1, NoWord.Statement (.fcos a0 a1) := by intros; nofun
theorem NoWord.hfma2 : ∀ a0 a1, NoWord.Statement (.hfma2 a0 a1) := by intros; nofun
theorem NoWord.cvt : ∀ a0 a1, NoWord.Statement (.cvt a0 a1) := by intros; nofun
theorem NoWord.cvtMx : ∀ a0 a1, NoWord.Statement (.cvtMx a0 a1) := by intros; nofun
theorem NoWord.tid : ∀ a0 a1, NoWord.Statement (.tid a0 a1) := by intros; nofun
theorem NoWord.shfl : ∀ a0 a1, NoWord.Statement (.shfl a0 a1) := by intros; nofun
theorem NoWord.vote : ∀ a0 a1, NoWord.Statement (.vote a0 a1) := by intros; nofun
theorem NoWord.readlane : ∀ a0 a1, NoWord.Statement (.readlane a0 a1) := by intros; nofun
theorem NoWord.lds : ∀ a0 a1, NoWord.Statement (.lds a0 a1) := by intros; nofun
theorem NoWord.sts : ∀ a0 a1, NoWord.Statement (.sts a0 a1) := by intros; nofun
theorem NoWord.ld : ∀ a0 a1, NoWord.Statement (.ld a0 a1) := by intros; nofun
theorem NoWord.st : ∀ a0 a1 a2, NoWord.Statement (.st a0 a1 a2) := by intros; nofun
theorem NoWord.atomAdd : ∀ a0 a1, NoWord.Statement (.atomAdd a0 a1) := by intros; nofun
theorem NoWord.atomMin : ∀ a0 a1, NoWord.Statement (.atomMin a0 a1) := by intros; nofun
theorem NoWord.atomMax : ∀ a0 a1, NoWord.Statement (.atomMax a0 a1) := by intros; nofun
theorem NoWord.atomSwap : ∀ a0 a1, NoWord.Statement (.atomSwap a0 a1) := by intros; nofun
theorem NoWord.atomCas : ∀ a0 a1, NoWord.Statement (.atomCas a0 a1) := by intros; nofun
theorem NoWord.silkLd : ∀ a0 a1 a2, NoWord.Statement (.silkLd a0 a1 a2) := by intros; nofun
theorem NoWord.silkSt : ∀ a0 a1 a2, NoWord.Statement (.silkSt a0 a1 a2) := by intros; nofun
theorem NoWord.silkAtom : ∀ a0 a1 a2, NoWord.Statement (.silkAtom a0 a1 a2) := by intros; nofun
theorem NoWord.silkInv : ∀ a0 a1 a2, NoWord.Statement (.silkInv a0 a1 a2) := by intros; nofun
theorem NoWord.silkPut : ∀ a0 a1 a2, NoWord.Statement (.silkPut a0 a1 a2) := by intros; nofun
theorem NoWord.silkGet : ∀ a0 a1 a2, NoWord.Statement (.silkGet a0 a1 a2) := by intros; nofun
theorem NoWord.rtrig : ∀ a0 a1 a2, NoWord.Statement (.rtrig a0 a1 a2) := by intros; nofun
theorem NoWord.mxTag : ∀ a0 a1 a2, NoWord.Statement (.mxTag a0 a1 a2) := by intros; nofun
theorem NoWord.mxZero : ∀ a0 a1 a2, NoWord.Statement (.mxZero a0 a1 a2) := by intros; nofun
theorem NoWord.mxLoadc : ∀ a0 a1 a2, NoWord.Statement (.mxLoadc a0 a1 a2) := by intros; nofun
theorem NoWord.mxLoad : ∀ a0 a1 a2, NoWord.Statement (.mxLoad a0 a1 a2) := by intros; nofun
theorem NoWord.mxWcast : ∀ a0 a1 a2, NoWord.Statement (.mxWcast a0 a1 a2) := by intros; nofun
theorem NoWord.mxStream : ∀ a0 a1 a2, NoWord.Statement (.mxStream a0 a1 a2) := by intros; nofun
theorem NoWord.mxDrain : ∀ a0 a1 a2, NoWord.Statement (.mxDrain a0 a1 a2) := by intros; nofun
theorem NoWord.actFwd : ∀ a0 a1 a2, NoWord.Statement (.actFwd a0 a1 a2) := by intros; nofun
theorem NoWord.actBwd : ∀ a0 a1 a2, NoWord.Statement (.actBwd a0 a1 a2) := by intros; nofun
theorem NoWord.sAdd : ∀ a0 a1, NoWord.Statement (.sAdd a0 a1) := by intros; nofun
theorem NoWord.sSub : ∀ a0 a1, NoWord.Statement (.sSub a0 a1) := by intros; nofun
theorem NoWord.sMul : ∀ a0 a1, NoWord.Statement (.sMul a0 a1) := by intros; nofun
theorem NoWord.sAnd : ∀ a0 a1, NoWord.Statement (.sAnd a0 a1) := by intros; nofun
theorem NoWord.sOr : ∀ a0 a1, NoWord.Statement (.sOr a0 a1) := by intros; nofun
theorem NoWord.sXor : ∀ a0 a1, NoWord.Statement (.sXor a0 a1) := by intros; nofun
theorem NoWord.sShl : ∀ a0 a1, NoWord.Statement (.sShl a0 a1) := by intros; nofun
theorem NoWord.sShr : ∀ a0 a1, NoWord.Statement (.sShr a0 a1) := by intros; nofun
theorem NoWord.sMov : ∀ a0 a1, NoWord.Statement (.sMov a0 a1) := by intros; nofun
theorem NoWord.sSetp : ∀ a0 a1, NoWord.Statement (.sSetp a0 a1) := by intros; nofun
theorem NoWord.sAdd64 : ∀ a0 a1, NoWord.Statement (.sAdd64 a0 a1) := by intros; nofun
theorem NoWord.sRdspr : ∀ a0 a1, NoWord.Statement (.sRdspr a0 a1) := by intros; nofun
theorem NoWord.sWrspr : ∀ a0 a1, NoWord.Statement (.sWrspr a0 a1) := by intros; nofun
theorem NoWord.nop : ∀ a0 a1, NoWord.Statement (.nop a0 a1) := by intros; nofun
theorem NoWord.bra : ∀ a0 a1, NoWord.Statement (.bra a0 a1) := by intros; nofun
theorem NoWord.jmpr : ∀ a0 a1, NoWord.Statement (.jmpr a0 a1) := by intros; nofun
theorem NoWord.call : ∀ a0 a1, NoWord.Statement (.call a0 a1) := by intros; nofun
theorem NoWord.ret : ∀ a0 a1, NoWord.Statement (.ret a0 a1) := by intros; nofun
theorem NoWord.exit : ∀ a0 a1, NoWord.Statement (.exit a0 a1) := by intros; nofun
theorem NoWord.bar : ∀ a0 a1, NoWord.Statement (.bar a0 a1) := by intros; nofun
theorem NoWord.fence : ∀ a0 a1, NoWord.Statement (.fence a0 a1) := by intros; nofun
theorem NoWord.wait : ∀ a0 a1, NoWord.Statement (.wait a0 a1) := by intros; nofun
theorem NoWord.trap : ∀ a0 a1, NoWord.Statement (.trap a0 a1) := by intros; nofun
theorem NoWord.loadDataReturn : ∀ a0 a1 a2, NoWord.Statement (.loadDataReturn a0 a1 a2) := by intros; nofun
theorem NoWord.memoryPathFault : ∀ a0 a1, NoWord.Statement (.memoryPathFault a0 a1) := by intros; nofun
theorem NoWord.waitPollRead : ∀ a0, NoWord.Statement (.waitPollRead a0) := by intros; nofun
theorem NoWord.waitReadReturn : ∀ a0, NoWord.Statement (.waitReadReturn a0) := by intros; nofun
theorem NoWord.fenceComplete : ∀ a0, NoWord.Statement (.fenceComplete a0) := by intros; nofun
theorem NoWord.groupSetAdmit : ∀ a0, NoWord.Statement (.groupSetAdmit a0) := by intros; nofun
theorem NoWord.mxEntryStart : ∀ a0, NoWord.Statement (.mxEntryStart a0) := by intros; nofun
theorem NoWord.mxEntryComplete : ∀ a0 a1, NoWord.Statement (.mxEntryComplete a0 a1) := by intros; nofun
theorem NoWord.wcastBeatGrant : ∀ a0 a1, NoWord.Statement (.wcastBeatGrant a0 a1) := by intros; nofun
theorem NoWord.wcastStall : ∀ a0 a1, NoWord.Statement (.wcastStall a0 a1) := by intros; nofun
theorem NoWord.accFoldGroup : ∀ a0 a1, NoWord.Statement (.accFoldGroup a0 a1) := by intros; nofun
theorem NoWord.scrubRead : ∀ a0 a1 a2 a3, NoWord.Statement (.scrubRead a0 a1 a2 a3) := by intros; nofun
theorem NoWord.tlbInvRange : ∀ a0, NoWord.Statement (.tlbInvRange a0) := by intros; nofun
theorem NoWord.tlbInvAll : ∀ a0, NoWord.Statement (.tlbInvAll a0) := by intros; nofun
theorem NoWord.tlbInvDone : NoWord.Statement .tlbInvDone := nofun
theorem NoWord.genWrite : ∀ a0 a1, NoWord.Statement (.genWrite a0 a1) := by intros; nofun
theorem NoWord.icacheInvalidate : ∀ a0 a1, NoWord.Statement (.icacheInvalidate a0 a1) := by intros; nofun
theorem NoWord.memEccClear : ∀ a0 a1, NoWord.Statement (.memEccClear a0 a1) := by intros; nofun
theorem NoWord.antClearAll : ∀ a0 a1, NoWord.Statement (.antClearAll a0 a1) := by intros; nofun
theorem NoWord.antClearOne : ∀ a0 a1, NoWord.Statement (.antClearOne a0 a1) := by intros; nofun
theorem NoWord.antEntryWord0Read : ∀ a0 a1, NoWord.Statement (.antEntryWord0Read a0 a1) := by intros; nofun
theorem NoWord.stepStart : ∀ a0, NoWord.Statement (.stepStart a0) := by intros; nofun
theorem NoWord.fwdTask : ∀ a0, NoWord.Statement (.fwdTask a0) := by intros; nofun
theorem NoWord.recompTask : ∀ a0, NoWord.Statement (.recompTask a0) := by intros; nofun
theorem NoWord.bwdTask : ∀ a0, NoWord.Statement (.bwdTask a0) := by intros; nofun
theorem NoWord.wprepTask : ∀ a0, NoWord.Statement (.wprepTask a0) := by intros; nofun
theorem NoWord.foldTask : ∀ a0, NoWord.Statement (.foldTask a0) := by intros; nofun
theorem NoWord.foldApply : ∀ a0, NoWord.Statement (.foldApply a0) := by intros; nofun
theorem NoWord.foldTimeout : ∀ a0, NoWord.Statement (.foldTimeout a0) := by intros; nofun
theorem NoWord.collTask : ∀ a0, NoWord.Statement (.collTask a0) := by intros; nofun
theorem NoWord.ringTask : ∀ a0, NoWord.Statement (.ringTask a0) := by intros; nofun
theorem NoWord.ringHopSend : ∀ a0 a1, NoWord.Statement (.ringHopSend a0 a1) := by intros; nofun
theorem NoWord.sendTask : ∀ a0, NoWord.Statement (.sendTask a0) := by intros; nofun
theorem NoWord.endTask : ∀ a0, NoWord.Statement (.endTask a0) := by intros; nofun
theorem NoWord.skipperTaskComplete : ∀ a0 a1 a2 a3, NoWord.Statement (.skipperTaskComplete a0 a1 a2 a3) := by intros; nofun
theorem NoWord.stepBoundary : ∀ a0, NoWord.Statement (.stepBoundary a0) := by intros; nofun
theorem NoWord.chrysalisShardSend : ∀ a0 a1, NoWord.Statement (.chrysalisShardSend a0 a1) := by intros; nofun
theorem NoWord.restore : ∀ a0, NoWord.Statement (.restore a0) := by intros; nofun
theorem NoWord.refetchGo : ∀ a0 a1, NoWord.Statement (.refetchGo a0 a1) := by intros; nofun
theorem NoWord.refetchTimeout : ∀ a0 a1, NoWord.Statement (.refetchTimeout a0 a1) := by intros; nofun
theorem NoWord.hello : ∀ a0 a1, NoWord.Statement (.hello a0 a1) := by intros; nofun
theorem NoWord.resumeFrame : ∀ a0 a1 a2, NoWord.Statement (.resumeFrame a0 a1 a2) := by intros; nofun
theorem NoWord.retryFrame : ∀ a0 a1 a2, NoWord.Statement (.retryFrame a0 a1 a2) := by intros; nofun
theorem NoWord.credit : ∀ a0 a1, NoWord.Statement (.credit a0 a1) := by intros; nofun
theorem NoWord.locked : ∀ a0 a1 a2, NoWord.Statement (.locked a0 a1 a2) := by intros; nofun
theorem NoWord.lockedRepeat : NoWord.Statement .lockedRepeat := nofun
theorem NoWord.replayTimeout : ∀ a0, NoWord.Statement (.replayTimeout a0) := by intros; nofun
theorem NoWord.blockLockLost : ∀ a0, NoWord.Statement (.blockLockLost a0) := by intros; nofun
theorem NoWord.linkReturn : ∀ a0, NoWord.Statement (.linkReturn a0) := by intros; nofun
theorem NoWord.linkDown : ∀ a0, NoWord.Statement (.linkDown a0) := by intros; nofun
theorem NoWord.pfcReceive : ∀ a0 a1 a2, NoWord.Statement (.pfcReceive a0 a1 a2) := by intros; nofun
theorem NoWord.frameForward : ∀ a0 a1, NoWord.Statement (.frameForward a0 a1) := by intros; nofun
theorem NoWord.foldEntryClose : ∀ a0 a1, NoWord.Statement (.foldEntryClose a0 a1) := by intros; nofun
theorem NoWord.routeHoldExpire : ∀ a0 a1, NoWord.Statement (.routeHoldExpire a0 a1) := by intros; nofun
theorem NoWord.load : ∀ a0 a1, NoWord.Statement (.load a0 a1) := by intros; nofun
theorem NoWord.store : ∀ a0 a1, NoWord.Statement (.store a0 a1) := by intros; nofun
theorem NoWord.atomic : ∀ a0 a1, NoWord.Statement (.atomic a0 a1) := by intros; nofun
theorem NoWord.inv : ∀ a0 a1, NoWord.Statement (.inv a0 a1) := by intros; nofun
theorem NoWord.rtrigRequest : ∀ a0 a1, NoWord.Statement (.rtrigRequest a0 a1) := by intros; nofun
theorem NoWord.put : ∀ a0 a1, NoWord.Statement (.put a0 a1) := by intros; nofun
theorem NoWord.get : ∀ a0 a1, NoWord.Statement (.get a0 a1) := by intros; nofun
theorem NoWord.coll : ∀ a0 a1, NoWord.Statement (.coll a0 a1) := by intros; nofun
theorem NoWord.permute : ∀ a0 a1, NoWord.Statement (.permute a0 a1) := by intros; nofun
theorem NoWord.resp : ∀ a0 a1, NoWord.Statement (.resp a0 a1) := by intros; nofun
theorem NoWord.inval : ∀ a0 a1, NoWord.Statement (.inval a0 a1) := by intros; nofun
theorem NoWord.invalAck : ∀ a0 a1, NoWord.Statement (.invalAck a0 a1) := by intros; nofun
theorem NoWord.epochDone : ∀ a0 a1, NoWord.Statement (.epochDone a0 a1) := by intros; nofun
theorem NoWord.e2eTimeout : ∀ a0, NoWord.Statement (.e2eTimeout a0) := by intros; nofun
theorem NoWord.completionCacheExpire : ∀ a0 a1, NoWord.Statement (.completionCacheExpire a0 a1) := by intros; nofun
theorem NoWord.ceFrameSend : ∀ a0 a1, NoWord.Statement (.ceFrameSend a0 a1) := by intros; nofun
theorem NoWord.reduceScatter : ∀ a0 a1, NoWord.Statement (.reduceScatter a0 a1) := by intros; nofun
theorem NoWord.allGather : ∀ a0 a1, NoWord.Statement (.allGather a0 a1) := by intros; nofun
theorem NoWord.allReduce : ∀ a0 a1, NoWord.Statement (.allReduce a0 a1) := by intros; nofun
theorem NoWord.allToAll : ∀ a0 a1, NoWord.Statement (.allToAll a0 a1) := by intros; nofun
theorem NoWord.permuteCollective : ∀ a0 a1, NoWord.Statement (.permuteCollective a0 a1) := by intros; nofun
theorem NoWord.silkPortQuarClear : ∀ a0, NoWord.Statement (.silkPortQuarClear a0) := by intros; nofun
theorem NoWord.quarForce : ∀ a0, NoWord.Statement (.quarForce a0) := by intros; nofun
theorem NoWord.portEnableWrite : ∀ a0 a1, NoWord.Statement (.portEnableWrite a0 a1) := by intros; nofun
theorem NoWord.jwinWrite : ∀ a0 a1 a2, NoWord.Statement (.jwinWrite a0 a1 a2) := by intros; nofun
theorem NoWord.csrRead : ∀ a0 a1, NoWord.Statement (.csrRead a0 a1) := by intros; nofun
theorem NoWord.csrWrite : ∀ a0 a1, NoWord.Statement (.csrWrite a0 a1) := by intros; nofun
theorem NoWord.memRead : ∀ a0 a1, NoWord.Statement (.memRead a0 a1) := by intros; nofun
theorem NoWord.memWrite : ∀ a0 a1, NoWord.Statement (.memWrite a0 a1) := by intros; nofun
theorem NoWord.quarClear : ∀ a0 a1, NoWord.Statement (.quarClear a0 a1) := by intros; nofun
theorem NoWord.commandStart : NoWord.Statement .commandStart := nofun
theorem NoWord.nopCommand : ∀ a0 a1, NoWord.Statement (.nopCommand a0 a1) := by intros; nofun
theorem NoWord.launch : ∀ a0 a1, NoWord.Statement (.launch a0 a1) := by intros; nofun
theorem NoWord.fenceWait : ∀ a0 a1, NoWord.Statement (.fenceWait a0 a1) := by intros; nofun
theorem NoWord.copy : ∀ a0 a1, NoWord.Statement (.copy a0 a1) := by intros; nofun
theorem NoWord.fill : ∀ a0 a1, NoWord.Statement (.fill a0 a1) := by intros; nofun
theorem NoWord.collective : ∀ a0 a1, NoWord.Statement (.collective a0 a1) := by intros; nofun
theorem NoWord.stepLoad : ∀ a0 a1, NoWord.Statement (.stepLoad a0 a1) := by intros; nofun
theorem NoWord.stepGo : ∀ a0 a1, NoWord.Statement (.stepGo a0 a1) := by intros; nofun
theorem NoWord.stepUnload : ∀ a0 a1, NoWord.Statement (.stepUnload a0 a1) := by intros; nofun
theorem NoWord.measureOpen : ∀ a0 a1, NoWord.Statement (.measureOpen a0 a1) := by intros; nofun
theorem NoWord.measureClose : ∀ a0 a1, NoWord.Statement (.measureClose a0 a1) := by intros; nofun
theorem NoWord.commandComplete : ∀ a0 a1, NoWord.Statement (.commandComplete a0 a1) := by intros; nofun
theorem NoWord.activate : ∀ a0, NoWord.Statement (.activate a0) := by intros; nofun
theorem NoWord.freeze : ∀ a0, NoWord.Statement (.freeze a0) := by intros; nofun
theorem NoWord.discard : ∀ a0, NoWord.Statement (.discard a0) := by intros; nofun
theorem NoWord.drain : ∀ a0, NoWord.Statement (.drain a0) := by intros; nofun
theorem NoWord.drainComplete : ∀ a0, NoWord.Statement (.drainComplete a0) := by intros; nofun
theorem NoWord.abandon : ∀ a0, NoWord.Statement (.abandon a0) := by intros; nofun
theorem NoWord.free : ∀ a0, NoWord.Statement (.free a0) := by intros; nofun
theorem NoWord.suspend : ∀ a0, NoWord.Statement (.suspend a0) := by intros; nofun
theorem NoWord.suspendComplete : ∀ a0, NoWord.Statement (.suspendComplete a0) := by intros; nofun
theorem NoWord.evict : ∀ a0, NoWord.Statement (.evict a0) := by intros; nofun
theorem NoWord.resume : ∀ a0, NoWord.Statement (.resume a0) := by intros; nofun
theorem NoWord.purge : ∀ a0, NoWord.Statement (.purge a0) := by intros; nofun
theorem NoWord.fenceAlloc : ∀ a0 a1, NoWord.Statement (.fenceAlloc a0 a1) := by intros; nofun
theorem NoWord.fenceSignal : ∀ a0 a1, NoWord.Statement (.fenceSignal a0 a1) := by intros; nofun
theorem NoWord.fenceFree : ∀ a0 a1, NoWord.Statement (.fenceFree a0 a1) := by intros; nofun
theorem NoWord.queueResume : ∀ a0 a1, NoWord.Statement (.queueResume a0 a1) := by intros; nofun
theorem NoWord.queueEnable : ∀ a0 a1, NoWord.Statement (.queueEnable a0 a1) := by intros; nofun
theorem NoWord.create : NoWord.Statement .create := nofun
theorem NoWord.bind : NoWord.Statement .bind := nofun
theorem NoWord.map : NoWord.Statement .map := nofun
theorem NoWord.unmap : NoWord.Statement .unmap := nofun
theorem NoWord.secUnseal : NoWord.Statement .secUnseal := nofun
theorem NoWord.unsealSectionsDone : NoWord.Statement .unsealSectionsDone := nofun
theorem NoWord.attest : NoWord.Statement .attest := nofun
theorem NoWord.remove : NoWord.Statement .remove := nofun
theorem NoWord.removeDrainDone : ∀ a0, NoWord.Statement (.removeDrainDone a0) := by intros; nofun
theorem NoWord.cocRemoved : ∀ a0, NoWord.Statement (.cocRemoved a0) := by intros; nofun
theorem NoWord.errorUnitFree : ∀ a0, NoWord.Statement (.errorUnitFree a0) := by intros; nofun
theorem NoWord.errClr : ∀ a0 a1, NoWord.Statement (.errClr a0 a1) := by intros; nofun
theorem NoWord.cellFence : ∀ a0 a1, NoWord.Statement (.cellFence a0 a1) := by intros; nofun
theorem NoWord.blockFence : ∀ a0, NoWord.Statement (.blockFence a0) := by intros; nofun
theorem NoWord.regionRetire : ∀ a0 a1, NoWord.Statement (.regionRetire a0 a1) := by intros; nofun
theorem NoWord.sharedFail : ∀ a0, NoWord.Statement (.sharedFail a0) := by intros; nofun
theorem NoWord.rootUnlock : NoWord.Statement .rootUnlock := nofun
theorem NoWord.railFault : ∀ a0, NoWord.Statement (.railFault a0) := by intros; nofun
theorem NoWord.inputSample : ∀ a0 a1, NoWord.Statement (.inputSample a0 a1) := by intros; nofun
theorem NoWord.powerCapTick : ∀ a0, NoWord.Statement (.powerCapTick a0) := by intros; nofun
theorem NoWord.thermalCapTick : ∀ a0, NoWord.Statement (.thermalCapTick a0) := by intros; nofun
theorem NoWord.clockStepPrepare : NoWord.Statement .clockStepPrepare := nofun
theorem NoWord.clockStepSwitch : NoWord.Statement .clockStepSwitch := nofun
theorem NoWord.resetAssert : ∀ a0 a1, NoWord.Statement (.resetAssert a0 a1) := by intros; nofun
theorem NoWord.resetRelease : ∀ a0, NoWord.Statement (.resetRelease a0) := by intros; nofun
theorem NoWord.bootPhaseEnd : ∀ a0, NoWord.Statement (.bootPhaseEnd a0) := by intros; nofun
theorem NoWord.hostBootDatagram : ∀ a0 a1, NoWord.Statement (.hostBootDatagram a0 a1) := by intros; nofun
theorem NoWord.enec : ∀ a0, NoWord.Statement (.enec a0) := by intros; nofun
theorem NoWord.disec : ∀ a0, NoWord.Statement (.disec a0) := by intros; nofun
theorem NoWord.rstdaa : NoWord.Statement .rstdaa := nofun
theorem NoWord.entdaa : ∀ a0, NoWord.Statement (.entdaa a0) := by intros; nofun
theorem NoWord.setdasa : ∀ a0, NoWord.Statement (.setdasa a0) := by intros; nofun
theorem NoWord.getpid : NoWord.Statement .getpid := nofun
theorem NoWord.getbcr : NoWord.Statement .getbcr := nofun
theorem NoWord.getdcr : NoWord.Statement .getdcr := nofun
theorem NoWord.getstatus : NoWord.Statement .getstatus := nofun
theorem NoWord.getmwl : NoWord.Statement .getmwl := nofun
theorem NoWord.getmrl : NoWord.Statement .getmrl := nofun
theorem NoWord.rstact : ∀ a0, NoWord.Statement (.rstact a0) := by intros; nofun
theorem NoWord.i3cCsrRead : ∀ a0 a1, NoWord.Statement (.i3cCsrRead a0 a1) := by intros; nofun
theorem NoWord.i3cCsrWrite : ∀ a0 a1, NoWord.Statement (.i3cCsrWrite a0 a1) := by intros; nofun
theorem NoWord.i3cMemoryRead : ∀ a0 a1, NoWord.Statement (.i3cMemoryRead a0 a1) := by intros; nofun
theorem NoWord.i3cMemoryWrite : ∀ a0 a1, NoWord.Statement (.i3cMemoryWrite a0 a1) := by intros; nofun
theorem NoWord.i3cPrivateRead : NoWord.Statement .i3cPrivateRead := nofun
theorem NoWord.bypass : NoWord.Statement .bypass := nofun
theorem NoWord.idcode : NoWord.Statement .idcode := nofun
theorem NoWord.samplePreload : ∀ a0, NoWord.Statement (.samplePreload a0) := by intros; nofun
theorem NoWord.extest : ∀ a0, NoWord.Statement (.extest a0) := by intros; nofun
theorem NoWord.clamp : NoWord.Statement .clamp := nofun
theorem NoWord.highz : NoWord.Statement .highz := nofun
theorem NoWord.debug : ∀ a0, NoWord.Statement (.debug a0) := by intros; nofun
theorem NoWord.jtagTrst : ∀ a0, NoWord.Statement (.jtagTrst a0) := by intros; nofun
theorem NoWord.dbgHalt : ∀ a0 a1, NoWord.Statement (.dbgHalt a0 a1) := by intros; nofun
theorem NoWord.dbgStep : ∀ a0 a1, NoWord.Statement (.dbgStep a0 a1) := by intros; nofun
theorem NoWord.registerWrite : ∀ a0 a1, NoWord.Statement (.registerWrite a0 a1) := by intros; nofun
theorem NoWord.corruptedFrame : ∀ a0 a1, NoWord.Statement (.corruptedFrame a0 a1) := by intros; nofun
theorem NoWord.protocolViolation : ∀ a0 a1 a2, NoWord.Statement (.protocolViolation a0 a1 a2) := by intros; nofun

end Sys2Proof.Laws
end

