-- ==== Sys2Proof/Laws/Rows.lean ====
section
/-! SUPPORT. What the shared operations behind whole families of rows do: for each, everything it can answer, and
when it carries its work out. -/

namespace Sys2Proof.Machine

/-- A store that meets no upset. -/
@[simp] theorem State.storeUpset_none (s : State) (g : GRef) (v : Group) (l : List (Nat × List Byte)) :
    s.storeUpset g v l .none = some s := rfl

/-! ### Frames at the home and at the source -/

/-- A request at the home is no request of the row, is turned away by its reception, breaks the protocol, fails a
check, or is served (R260). -/
theorem atHome_cases {l : Nat} {f : Frame} {op : BitVec 6} {s t : State} {work : State → Hit → State}
    (h : atHome l f op s work = .next t) :
    (linkOk l = true ∨ l = selfLink) ∧
    (t = s ∧ (f.tx.op ≠ op ∨ f.tx.rsp = true ∨ f.tx.dst ≠ s.node) ∨ s.receive l f = .error t ∨
     ∃ z, s.receive l f = .ok z ∧
      (reqBad f = true ∧ t = ((z.returnCredit l f).answer (linkSlice l) f nakBadreq []).violateAt l 0x08 ∨
       reqBad f = false ∧
        ((∃ e u, (z.returnCredit l f).homeCheck f = (.error e, u) ∧ t = u.answer (linkSlice l) f e []) ∨
         ∃ x u, (z.returnCredit l f).homeCheck f = (.ok x, u) ∧ t = work u x))) := by
  unfold atHome at h
  split at h
  · cases h
  · rename_i hl
    refine ⟨by revert hl; cases linkOk l <;> simp, ?_⟩
    split at h
    · cases h; exact .inl ⟨rfl, ‹_›⟩
    · split at h
      · cases h; exact .inr (.inl ‹_›)
      · rename_i z hz
        refine .inr (.inr ⟨z, hz, ?_⟩)
        simp only at h
        split at h
        · cases h; exact .inl ⟨‹_›, rfl⟩
        · refine .inr ⟨by rw [Bool.eq_false_iff]; assumption, ?_⟩
          generalize hc : (z.returnCredit l f).homeCheck f = c at h ⊢
          obtain ⟨r, u⟩ := c
          cases r with
          | error e => cases h; exact .inl ⟨e, u, rfl, rfl⟩
          | ok x => cases h; exact .inr ⟨x, u, rfl, rfl⟩

/-- A request that passes every check is served. -/
theorem atHome_served {l : Nat} {f : Frame} {op : BitVec 6} {s z u : State} {x : Hit} (work : State → Hit → State)
    (hl : linkOk l = true ∨ l = selfLink) (ho : f.tx.op = op) (hr : f.tx.rsp = false) (hd : f.tx.dst = s.node)
    (hz : s.receive l f = .ok z) (hb : reqBad f = false) (hc : (z.returnCredit l f).homeCheck f = (.ok x, u)) :
    atHome l f op s work = .next (work u x) := by
  have h1 : (!(linkOk l || l == selfLink)) = false := by rcases hl with h | h <;> simp [h]
  have h2 : ¬(f.tx.op ≠ op ∨ f.tx.rsp = true ∨ f.tx.dst ≠ s.node) := by simp [ho, hr, hd]
  simp only [atHome, h1, Bool.false_eq_true, if_false, if_neg h2, hz, hb, hc]

/-- A frame at the source is none of the row, is turned away, is stray, or does its work. -/
theorem atSource_cases {l : Nat} {f : Frame} {op : BitVec 6} {s t : State} {stray : State → Bool} {work : State → State}
    (h : atSource l f op s stray work = .next t) :
    (linkOk l = true ∨ l = selfLink) ∧
    (t = s ∧ (f.tx.op ≠ op ∨ f.tx.rsp = false ∨ f.tx.dst ≠ s.node) ∨ s.receive l f = .error t ∨
     ∃ z, s.receive l f = .ok z ∧
      (stray (z.returnCredit l f) = true ∧ t = (z.returnCredit l f).violateAt l 0x09 ∨
       stray (z.returnCredit l f) = false ∧ t = work (z.returnCredit l f))) := by
  unfold atSource at h
  split at h
  · cases h
  · rename_i hl
    refine ⟨by revert hl; cases linkOk l <;> simp, ?_⟩
    split at h
    · rename_i hn; cases h; exact .inl ⟨rfl, by simpa using hn⟩
    · split at h
      · cases h; exact .inr (.inl ‹_›)
      · rename_i z hz
        refine .inr (.inr ⟨z, hz, ?_⟩)
        simp only at h
        split at h
        · cases h; exact .inl ⟨‹_›, rfl⟩
        · cases h; exact .inr ⟨by rw [Bool.eq_false_iff]; assumption, rfl⟩

theorem atSource_works {l : Nat} {f : Frame} {op : BitVec 6} {s z : State} (stray : State → Bool) (work : State → State)
    (hl : linkOk l = true ∨ l = selfLink) (ho : f.tx.op = op) (hr : f.tx.rsp = true) (hd : f.tx.dst = s.node)
    (hz : s.receive l f = .ok z) (hs : stray (z.returnCredit l f) = false) :
    atSource l f op s stray work = .next (work (z.returnCredit l f)) := by
  have h1 : (!(linkOk l || l == selfLink)) = false := by rcases hl with h | h <;> simp [h]
  have h2 : ¬(f.tx.op ≠ op ∨ (!f.tx.rsp) = true ∨ f.tx.dst ≠ s.node) := by simp [ho, hr, hd]
  simp only [atSource, h1, Bool.false_eq_true, if_false, if_neg h2, hz, hs]

/-- A sound MGMT frame of a row, from a node with the right, is carried out. -/
theorem mgmtRow_works {mop l : Nat} {f : Frame} {s z : State} (work : State → State)
    (hl : linkOk l = true ∨ l = selfLink) (ho : f.tx.op = opMgmt) (hr : f.tx.rsp = false) (hd : f.tx.dst = s.node)
    (hm : leAt f.payload 0 1 = mop) (hz : s.receive l f = .ok z) (hb : reqBad f = false)
    (hp : (z.returnCredit l f).mgmtFrom l f.tx.src = true) (he : f.tx.enc = false) (hk : mgmtOk f.payload = true) :
    mgmtRow mop l f s work = .next (work (z.returnCredit l f)) := by
  have h1 : (!(linkOk l || l == selfLink)) = false := by rcases hl with h | h <;> simp [h]
  have h2 : ¬(f.tx.op ≠ opMgmt ∨ f.tx.rsp = true ∨ f.tx.dst ≠ s.node ∨
      (leAt f.payload 0 1 ≠ mop ∧ 1 ≤ leAt f.payload 0 1 ∧ leAt f.payload 0 1 ≤ 5)) := by simp [ho, hr, hd, hm]
  simp only [mgmtRow, h1, Bool.false_eq_true, if_false, if_neg h2, hz, hb, hp, he, hk, Bool.not_true, Bool.or_false]

/-! ### Queue commands, collectives, Skipper tasks -/

/-- A command's row begins a waiting command of its opcode in a queue that is not parked, or changes nothing (R294). -/
theorem runCmd_cases {opc q k : Nat} {s t : State} {work : State → Cmd → State} (h : runCmd opc q k s work = .next t) :
    q < 1024 ∧ (t = s ∨ ∃ c, s.cmd q k = some c ∧ (s.queue q).parked = false ∧ c.begun = false ∧ c.result.isNone = true ∧ leAt c.bytes 0 1 = opc ∧
      earlierBegun k (s.queue q).running = true ∧ t = work (s.begin q k) c) := by
  unfold runCmd at h
  split at h
  · cases h
  · refine ⟨by omega, ?_⟩
    split at h
    · cases h; exact .inl rfl
    · rename_i c hc
      split at h
      · cases h; exact .inl rfl
      · rename_i hn
        cases h
        refine .inr ⟨c, hc, ?_⟩
        simp only [Bool.or_eq_true, bne_iff_ne, Bool.not_eq_true', not_or, Bool.not_eq_true, Decidable.not_not] at hn
        obtain ⟨⟨⟨⟨h0, h1⟩, h2⟩, h3⟩, h4⟩ := hn
        refine ⟨h0, h1, ?_, h3, ?_, rfl⟩
        · cases hr : c.result <;> simp_all
        · cases he : earlierBegun k (s.queue q).running <;> simp_all

theorem runCmd_begins {opc q k : Nat} {s : State} {c : Cmd} (work : State → Cmd → State) (hq : q < 1024)
    (hc : s.cmd q k = some c) (h0 : (s.queue q).parked = false) (h1 : c.begun = false) (h2 : c.result = none) (h3 : leAt c.bytes 0 1 = opc)
    (h4 : earlierBegun k (s.queue q).running = true) : runCmd opc q k s work = .next (work (s.begin q k) c) := by
  simp only [runCmd, if_neg (show ¬1024 ≤ q by omega), hc, h0, h1, h2, h3, h4]
  simp

/-- A collective's row begins its channel's transfer, or changes nothing. -/
theorem startColl_cases {op r c : Nat} {s t : State} {work : State → Xfer → State} (h : startColl op r c s work = .next t) :
    r < 8 ∧ c < 16 ∧ (t = s ∨ ∃ x, (s.ceChan r c).xfer = some x ∧ x.op = op ∧ x.started = false ∧ (s.ceChan r c).frozen = false ∧
      s.host.ctxBusy ≠ some (x.ctx, 7) ∧
      t = ((work (s.modXfer r c (fun y => { y with started := true })) x).takeHeld r c).ceCheck r c) := by
  unfold startColl at h
  split at h
  · cases h
  · refine ⟨by omega, by omega, ?_⟩
    simp only at h
    split at h
    · cases h; exact .inl rfl
    · rename_i x hx
      split at h
      · cases h; exact .inl rfl
      · rename_i hn
        cases h
        simp only [not_or, Bool.not_eq_true, Decidable.not_not] at hn
        exact .inr ⟨x, hx, by simpa using hn.1, by simpa using hn.2.1, by simpa using hn.2.2.1, hn.2.2.2, rfl⟩

/-- A task's row starts the next run of its stream where it is of its kind and nothing holds it, or changes
nothing (R189, R191). -/
theorem startTask_cases {q kind r : Nat} {s u : State} {room : TaskId → TaskDesc → Bool}
    {work : State → Program → TaskId → TaskDesc → State} (h : startTask q kind r s room work = .next u) :
    r < 8 ∧ (u = s ∨ ∃ p d t m, s.nextRun r q = some (p, d, t, m) ∧ d.kind = kind ∧ s.mayRun r q = true ∧
      s.waitCode r p (q, t, m) d = 0 ∧ room (r, q, t, m) d = true ∧
      u = work (s.addRun r q t m (s.startRung r p d m)) p (r, q, t, m) d) := by
  unfold startTask at h
  split at h
  · cases h
  · refine ⟨by omega, ?_⟩
    split at h
    · cases h; exact .inl rfl
    · rename_i p d t m hp
      simp only at h
      split at h
      · cases h; exact .inl rfl
      · rename_i hn
        cases h
        simp only [Bool.or_eq_true, not_or, decide_eq_true_eq, Decidable.not_not, Bool.not_eq_true, Bool.not_eq_false'] at hn
        exact .inr ⟨p, d, t, m, hp, hn.1.1.1, by simpa using hn.1.1.2, by simpa using hn.1.2, by simpa using hn.2, rfl⟩

/-! ### Rows that are register writes, and the sideband -/

theorem ctxRow_writes {action n : Nat} {s : State} (h : n < 64) :
    ctxRow action n s = .next (s.writeWord (oHost 0x1800) (ctxWord n action)) := by
  simp only [ctxRow, if_neg (show ¬64 ≤ n by omega)]

theorem fenceRow_writes {op f : Nat} {cid : BitVec 16} {s : State} (h : f < 16384) :
    fenceRow op f cid s = .next (s.writeWord (oHost 0x3000) (fenceWord f op cid)) := by
  simp only [fenceRow, if_neg (show ¬16384 ≤ f by omega)]

theorem secRow_go {cmd : Nat} {s : State} (h : s.secIs cmd = true) : secRow cmd s = .next s.secGo := by
  simp only [secRow, h, if_true]

theorem sideRow_cases (s t : State) : sideRow s t = .next (if s.boot.inReset then s else t) := by
  unfold sideRow; split <;> rfl

theorem jtagRow_cases (s : State) (ir : Nat) (out hz : Bool) (work : State → State) :
    jtagRow s ir out hz work =
      .next (if s.side.tapReset then s else work (s.setSide { s.side with jtagIr := ir, bsrOut := out, highz := hz })) := by
  unfold jtagRow; split <;> rfl

end Sys2Proof.Machine
end

