-- ==== Sys2Proof/Machine/Wire.lean ====
section
/-! DEFINITION. The bytes of a frame on the wire (R9, R242–R248): Ethernet, IPv6, UDP and Silk headers, most
significant byte first. The checksums are those of the standards that R242 and R244 name (log entry 133). -/

namespace Sys2Proof.Machine

/-- The 8 bytes of a link header (Table 8-2). -/
def linkBytes (h : LinkHdr) : List Byte :=
  beBytes 8 (h.ver.toNat * 2 ^ 60 + h.ftype.toNat * 2 ^ 58 + h.lane.toNat * 2 ^ 55 + b2n h.ackv * 2 ^ 54 + b2n h.crv * 2 ^ 53 +
    h.crlane.toNat * 2 ^ 50 + h.rsv.toNat / 16 * 2 ^ 48 + h.lseq.toNat * 2 ^ 32 + h.ackseq.toNat * 2 ^ 16 + h.credits.toNat * 16 +
    h.rsv.toNat % 16)

/-- The bytes of a link control frame behind its link header (R248): an opcode, and what it carries. A HELLO gives each
lane's credits in two bytes, and its port in one (DESIGN CHOICE, log entry 133). -/
def ctlBytes (c : CtlOp) : List Byte :=
  match c with
  | .hello node port credits => 1 :: (beBytes 2 node.toNat ++ beBytes 1 port ++ credits.flatMap (beBytes 2))
  | .resume q => 2 :: beBytes 2 q.toNat
  | .retry q => 3 :: beBytes 2 q.toNat
  | .credit => [4]
  | .locked node => 5 :: beBytes 2 node.toNat

/-- The one's complement sum of 16-bit words. -/
def sum16 : List Byte → Nat → Nat
  | a :: b :: r, n =>
    let v := n + a.toNat * 256 + b.toNat
    sum16 r (v % 65536 + v / 65536)
  | [a], n => let v := n + a.toNat * 256; v % 65536 + v / 65536
  | [], n => n

/-- The UDP header in front of `body`, its checksum over the IPv6 pseudo-header (R244). -/
def udpBytes (i : IpUdp) (body : List Byte) : List Byte :=
  let n := 8 + body.length
  let ends := beBytes 2 i.sport.toNat ++ beBytes 2 i.dport.toNat
  let pseudo := beBytes 16 i.src.toNat ++ beBytes 16 i.dst.toNat ++ beBytes 4 n ++ beBytes 4 17
  let c := 65535 - sum16 (pseudo ++ ends ++ beBytes 2 n ++ [0, 0] ++ body) 0
  ends ++ beBytes 2 n ++ beBytes 2 (if c = 0 then 65535 else c)

/-- The IPv6 header in front of `n` bytes (R244). -/
def ipBytes (i : IpUdp) (n : Nat) : List Byte :=
  beBytes 4 (6 * 2 ^ 28 + i.tclass.toNat * 2 ^ 20 + i.flow.toNat) ++ beBytes 2 n ++ beBytes 1 i.nextHdr.toNat ++ beBytes 1 i.hops.toNat ++
  beBytes 16 i.src.toNat ++ beBytes 16 i.dst.toNat

/-- One bit of the frame check sequence. -/
def crcStep (c : Nat) : Nat := if c % 2 = 1 then c / 2 ^^^ 0xEDB88320 else c / 2

/-- The frame check sequence of IEEE 802.3. -/
def fcsBytes (bs : List Byte) : List Byte :=
  let c := bs.foldl (fun c b => (List.range 8).foldl (fun c _ => crcStep c) (c ^^^ b.toNat)) 0xFFFFFFFF
  leBytes 4 (c ^^^ 0xFFFFFFFF)

/-- The bytes of a frame whose Silk part is `silk`, in its envelope (R243, R244). -/
def envBytes (e : Envelope) (silk : List Byte) : List Byte :=
  let inner := match e.ip with
    | some i => let u := udpBytes i silk; ipBytes i (u.length + silk.length) ++ u ++ silk
    | none => silk
  let tag := if e.tagged then beBytes 2 0x8100 ++ beBytes 2 (e.pcp.toNat * 2 ^ 13 + b2n e.dei * 2 ^ 12 + e.vid.toNat) else []
  let bs := beBytes 6 e.dstMac.toNat ++ beBytes 6 e.srcMac.toNat ++ tag ++ beBytes 2 e.etherType.toNat ++ inner
  bs ++ fcsBytes bs

/-- A transaction frame on the wire (R243–R248). -/
def frameWire (f : Frame) : List Byte := envBytes f.env (linkBytes f.link ++ hdrBytes f.tx ++ f.payload ++ f.trailer)

/-- A link control frame on the wire. -/
def ctlWire (h : CtlHdr) (c : CtlOp) : List Byte := envBytes h.env (linkBytes h.link ++ ctlBytes c)

/-- What leaves the device by a port, as its bytes: a frame cut short ends with its check sequence inverted (R258). -/
def Out.wire : Out → List Byte
  | .frame _ f => frameWire f
  | .cut _ f =>
    let w := frameWire f
    w.take (w.length - 4) ++ (w.drop (w.length - 4)).map (fun b => ~~~b)
  | .control _ h c => ctlWire h c
  | _ => []

end Sys2Proof.Machine
end

