-- ==== Sys2Proof/Tests/Slice0.lean ====
section
/-! SUPPORT. Tests: well-formedness refuses ill-formed commands; states that meet the hypotheses of the statements, one witness for
each clause; and a few results taken from the manual's tables by hand. -/

namespace Sys2Proof.Tests

set_option Elab.async false

open Sys2Proof Sys2Proof.Machine

/-! ### A small device -/

/-- Slot 0 of cell 0. -/
def g0 : GRef := { cell := 0, slot := 0 }

/-- A base word from its fields (Table 3-1); the guard is p7 unless one is given. -/
def iw (opc dst a b c mod : Nat) (pred : Nat := 7) (neg : Nat := 0) : DWord :=
  BitVec.ofNat 64 (opc * 2 ^ 56 + pred * 2 ^ 53 + neg * 2 ^ 52 + dst * 2 ^ 44 + a * 2 ^ 36 + b * 2 ^ 28 + c * 2 ^ 20 + mod)

/-- An extended word: the complement of the opcode, and the other bits. -/
def xw (opc rest : Nat) : DWord := BitVec.ofNat 64 ((255 - opc) * 2 ^ 56 + rest)

/-- A group of one thread at address 0x10000 of context 0. -/
def grp : Group where
  gid := 1
  setId := 1
  ctx := 0
  cid := 1
  index := 0
  count := 1
  regs := 16
  scratchUnits := [0]
  slots := 0xFF
  bars := 1
  st := .running
  code := 0
  pc := 0x10000
  live := 1
  mask := 1
  stack := []
  vregs := []
  sregs := []
  preds := []
  flags := 0
  mcountHi := 0
  scratch := []
  halted := false
  stepOne := false
  bpPass := false
  pend := []
  fence := none
  wait := none
  mxq := []
  mute := false
  ticket := 0

/-- A ready device with context 0 active, whose pages 1 to 4 map HBM3E pages 1 to 4 for every access. One table at
0x1000 serves as every level: its entry 0 names the table itself. -/
def idle : State := { State.reset with
  mem := [(0x1000, 1), (0x1001, 0x10), (0x1008, 0x1F), (0x100A, 1), (0x1010, 0x1F), (0x1012, 2), (0x1018, 0x1F), (0x101A, 3),
    (0x1020, 0x1F), (0x1022, 4)]
  csr := [(oPtLo 0, 0x1000), (oPtHi 0, 0x01000000)]
  chip := { inService := 0xFF, released := 0xFF, trained := 0xFF, sharedOk := true }
  host := { ctxs := [(0, { st := 1 })], ctxBusy := none }
  boot := { phase := 8 } }

/-- The same with one group in slot 0 of cell 0. -/
def dev (v : Group) : State := { idle with cells := [(0, { groups := [(0, v)] })] }

/-- A state whose memory holds an instruction at the group's address: its word, and the extended word behind it. -/
def text (s : State) (w : DWord) (x : DWord := 0) : State := s.store 0x10000 (leBytes 8 w.toNat ++ leBytes 8 x.toNat)

/-- The device with that group and an instruction for it. -/
def devT (v : Group) (w : DWord) (x : DWord := 0) : State := text (dev v) w x

/-- A row whose instruction does not stand at the group's address leaves the device as it is. -/
theorem test_other_instruction : (match Machine.exec (.isub g0 (iw 0x02 1 2 3 0 0)) (devT grp (iw 0x01 1 2 3 0 0)) with
    | .next t => decide (t = devT grp (iw 0x01 1 2 3 0 0)) | _ => false) = true ∧ find (idle.block 0).icache 0x10000 = none := by decide +kernel

theorem test_dev_memory : memWf idle.mem = true := by decide

/-! ### Instructions issue -/

def goes (v : Group) (opc : Nat) (w : DWord) (sh : Shape) : Bool := canIssue (devT v w) g0 opc w 0 sh noCheck anyRoom

theorem test_integer_issue : ∀ o ∈ [0x01, 0x02, 0x03, 0x04, 0x06, 0x07, 0x09, 0x0A, 0x0B, 0x0C, 0x0D, 0x0E],
    goes grp o (iw o 1 2 3 0 0) (fmAB.shape (iw o 1 2 3 0 0)) = true := by decide +kernel
theorem test_integer_three : goes grp 0x05 (iw 0x05 15 2 3 4 0) (fmABC.shape (iw 0x05 15 2 3 4 0)) = true := by decide +kernel
theorem test_integer_one : ∀ o ∈ [0x08, 0x0F, 0x10, 0x11], goes grp o (iw o 1 2 0 0 0) (fmA.shape (iw o 1 2 0 0 0)) = true := by decide +kernel

theorem test_pair_sums_issue : goes grp 0x14 (iw 0x14 2 4 6 0 0) (({ dst := .v 2, a := 2, b := 2, c := 0, imm := true } : LaneForm).shape (iw 0x14 2 4 6 0 0)) = true ∧
    goes grp 0xEA (iw 0xEA 2 4 6 0 0) (scalShape (iw 0xEA 2 4 6 0 0) (shS 2 2) 2 false false) = true := by decide +kernel
theorem test_float_issue : (∀ o ∈ [0x40, 0x41], goes grp o (iw o 1 2 3 0 1) (fmFAB.shape (iw o 1 2 3 0 1)) = true) ∧
    (∀ o ∈ [0x43, 0x44], goes grp o (iw o 1 2 3 0 0) (fmAB.shape (iw o 1 2 3 0 0)) = true) ∧
    goes grp 0x42 (iw 0x42 1 2 3 4 1) (fmFABC.shape (iw 0x42 1 2 3 4 1)) = true ∧
    (∀ o ∈ [0x48, 0x49, 0x4A, 0x4B, 0x4C, 0x4D, 0x4E], goes grp o (iw o 1 2 0 0 0) (fmA.shape (iw o 1 2 0 0 0)) = true) ∧
    goes grp 0x50 (iw 0x50 1 2 3 4 2) (({ dst := .v 1, a := 1, b := 1, c := 1, fn := 2, imm := false } : LaneForm).shape (iw 0x50 1 2 3 4 2)) = true := by
  decide +kernel

/-- CVT from fp32 to bf16, CVT.MX from fp32 to an 8-bit format and back. -/
theorem test_conversions_issue :
    (let w := iw 0x80 1 2 0 0 0x100
     goes grp 0x80 w (cvtShape w 1 (decide (cFrom w < 9) && decide (cTo w < 9) && !(isIntCode (cFrom w) && isIntCode (cTo w)))) = true) ∧
    (let w := iw 0x81 1 2 0 0 0x3010; goes grp 0x81 w (cvtMxShape w) = true ∧ cFrom w ≠ 0) ∧
    (let w := iw 0x81 2 4 0 0 0x310; goes grp 0x81 w (cvtMxShape w) = true ∧ cFrom w = 0) := by decide +kernel

theorem test_moves_issue :
    (let k : LaneForm := { dst := .v 1, a := 1, b := 0, c := 0, imm := true, mov := true }
     goes grp 0x15 (iw 0x15 1 2 0 0 0) (k.shape (iw 0x15 1 2 0 0 0)) = true ∧
     goes grp 0x15 (iw 0x15 1 0 0 0 0x80FFF) (k.shape (iw 0x15 1 0 0 0 0x80FFF)) = true) ∧
    (let k : LaneForm := { dst := .v 1, a := 1, b := 1, c := 0, fn := 0xFFF, imm := false }
     goes grp 0x16 (iw 0x16 1 2 3 0 0xFFF) (k.shape (iw 0x16 1 2 3 0 0xFFF)) = true) ∧
    (let k : LaneForm := { dst := .v 1, a := 1, b := 1, c := 1, cPred := true, imm := true }
     goes grp 0x13 (iw 0x13 1 2 3 7 0) (k.shape (iw 0x13 1 2 3 7 0)) = true) ∧
    (let k : LaneForm := { dst := .v 1, a := 0, b := 0, c := 0, imm := false }
     goes grp 0x90 (iw 0x90 1 0 0 0 0) (k.shape (iw 0x90 1 0 0 0 0)) = true) ∧
    (let k : LaneForm := { dst := .v 1, a := 1, b := 1, c := 0, fn := 3, imm := false }
     goes grp 0x91 (iw 0x91 1 2 3 0 3) (k.shape (iw 0x91 1 2 3 0 3)) = true) := by decide +kernel

theorem test_compares_issue :
    (∀ c ∈ [0, 1, 2, 3, 4, 5], let w := iw 0x12 6 2 3 0 (c * 0x1000)
      goes grp 0x12 w ((({ dst := .p, a := 1, b := 1, c := 0, imm := true } : LaneForm).shape w).and (Shape.when (decide (mCmp w < 6)))) = true) ∧
    (∀ c ∈ [0, 6], let w := iw 0x45 0 2 3 0 c
      goes grp 0x45 w ((({ dst := .p, a := 1, b := 1, c := 0, fn := 7, imm := false } : LaneForm).shape w).and
        (Shape.when (decide (fld w 0 3 < 7)))) = true) := by decide +kernel

/-- VOTE in each mode, with the guard that leaves no thread active too; READLANE. -/
theorem test_votes_issue : (∀ m ∈ [0, 1, 2], goes grp 0x92 (iw 0x92 2 0 0 0 m) (voteShape (iw 0x92 2 0 0 0 m)) = true) ∧
    goes grp 0x92 (iw 0x92 2 0 0 0 1 7 1) (voteShape (iw 0x92 2 0 0 0 1 7 1)) = true ∧
    (let k : LaneForm := { dst := .s, a := 1, b := 1, c := 0, bScal := true, imm := true }
     goes grp 0x93 (iw 0x93 1 2 3 0 0x20000) (k.shape (iw 0x93 1 2 3 0 0x20000)) = true) := by decide +kernel

theorem test_scalars_issue :
    (∀ o ∈ [0xE0, 0xE1, 0xE2, 0xE3, 0xE4, 0xE5, 0xE6, 0xE7], goes grp o (iw o 1 2 3 0 0) (scalShape (iw o 1 2 3 0 0) (shS 1) 1 false false) = true) ∧
    goes grp 0xE8 (iw 0xE8 1 2 0 0 0) (scalShape (iw 0xE8 1 2 0 0 0) (shS 1) 1 true false) = true ∧
    goes grp 0xE9 (iw 0xE9 6 2 3 0 0x5000) (scalShape (iw 0xE9 6 2 3 0 0x5000) (shPd 6) 1 false true) = true := by decide +kernel

theorem test_special_registers_issue :
    (∀ n ∈ [0, 1, 2, 3, 4, 5, 6, 8, 9], let w := iw 0xEB 1 0 0 0 n
      goes grp 0xEB w (sprShape w (shS (iDst w)) (fun n => decide (n ≤ 9)) (fun _ => true) (iA w)) = true ∧ fld w 0 8 ≠ 7) ∧
    (let w := iw 0xEB 1 0 0 0 7
     goes grp 0xEB w (sprShape w (shS (iDst w)) (fun n => decide (n ≤ 9)) (fun _ => true) (iA w)) = true ∧ fld w 0 8 = 7) ∧
    (let w := iw 0xEC 0 1 0 0 6
     goes grp 0xEC w (sprShape w (shS (iA w)) (fun n => decide (n ≤ 9)) (fun n => decide (n = 6)) (iDst w)) = true) := by decide +kernel

/-! ### Control flow -/

/-- The shape of BRA. -/
def braShape (w : DWord) : Shape := ((shZ (iA w)).and (shZ (iB w))).and
  ((Shape.when (if iPred w == 7 && !iPneg w then roff w == 0 else decide (1 ≤ roff w))).and (shGuard w))

/-- Two threads, of which p0 holds for one. -/
def grpP : Group := { grp with live := 3, mask := 3, preds := [(0, 1)] }

/-- NOP; BRA that all, none or some threads take. -/
theorem test_branches_issue : goes grp 0xF0 (iw 0xF0 0 0 0 0 0) ((ctlShape (iw 0xF0 0 0 0 0 0) true).and (shWhole (iw 0xF0 0 0 0 0 0))) = true ∧
    [iw 0xF1 0 0 0 0 2, iw 0xF1 0 0 0 4 2 0 1, iw 0xF1 0 0 0 4 2 0].all (fun w => goes grpP 0xF1 w (braShape w) && decide ((devT grpP w).readyGroup g0 = some grpP)) = true ∧
    grpP.stack.length < 32 ∧
    grpP.guardBits (iw 0xF1 0 0 0 0 2) &&& 3 = 3 ∧ grpP.guardBits (iw 0xF1 0 0 0 4 2 0) &&& 3 = 1 ∧
    ({ grp with preds := [(0, 1)] } : Group).guardBits (iw 0xF1 0 0 0 4 2 0 1) &&& 1 = 0 := by decide +kernel

theorem test_jumps_issue : (∀ o ∈ [0xF2, 0xF4], goes grp o (iw o 0 2 0 0 0) (jumpShape (iw o 0 2 0 0 0)) = true ∧
      (devT grp (iw o 0 2 0 0 0)).readyGroup g0 = some grp) ∧ (grp.spair 2).toNat % 8 = 0 ∧
    (let w := iw 0xF3 2 0 0 0 0xFFFFF
     goes grp 0xF3 w (((shS (iDst w) 2).and ((shZ (iA w)).and ((shZ (iB w)).and (shZ (iC w))))).and (shWhole w)) = true) := by decide +kernel

/-- EXIT of one of two threads, and of all. -/
theorem test_exits_issue :
    (let w := iw 0xF5 0 0 0 0 0 0
     goes grpP 0xF5 w ((ctlShape w (iMod w == 0)).and (shGuard w)) = true ∧ (devT grpP w).readyGroup g0 = some grpP ∧
       grpP.live &&& ~~~(grpP.active w) ≠ 0) ∧
    (let w := iw 0xF5 0 0 0 0 0
     goes grpP 0xF5 w ((ctlShape w (iMod w == 0)).and (shGuard w)) = true ∧ grpP.live &&& ~~~(grpP.active w) = 0) := by decide +kernel

/-- TRAP with no thread active, and with one. -/
theorem test_traps_issue :
    (let w := iw 0xF9 0 0 0 0 3 7 1
     goes grp 0xF9 w ((ctlShape w true).and (shGuard w)) = true ∧ grp.active w = 0) ∧
    (let w := iw 0xF9 0 0 0 0 3
     goes grp 0xF9 w ((ctlShape w true).and (shGuard w)) = true ∧ grp.active w ≠ 0) := by decide +kernel

/-- A set of two groups with one barrier, counter 5. -/
def gset : GroupSet where
  id := 1
  ctx := 0
  cid := 1
  source := .command 0 0
  entry := 0x10000
  groups := 2
  regs := 16
  scratch := 1
  slots := 0
  bars := 1
  mute := false
  icinv := false
  ticket := 0
  params := []
  barIds := [5]
  placed := [(0, 0), (1, 0)]
  gids := [1, 2]
  exited := []
  left := []
  fault := 0

/-- The group in that set, with the counter at `n` arrivals of two. -/
def devBar (v : Group) (n : Nat) : State := { dev v with
  blocks := [(0, { sets := [gset], bars := [(5, { setId := 1, expected := 2, done := n, inUse := true })] })] }

/-- A BAR that is not the last arrival, and one that is. -/
theorem test_barrier_arrivals : ∀ n ∈ [0, 1],
    let w := iw 0xF6 0 0 0 0 0
    let s := text (devBar grp n) w
    canIssue s g0 0xF6 w 0 ((ctlShape w (decide (iMod w < 16))).and (shWhole w)) (barCheckIssue g0 w) anyRoom = true ∧
    s.readyGroup g0 = some grp ∧ s.setOf (cellBlock g0.cell) grp.setId = some gset ∧ gset.barIds[fld w 0 4]? = some 5 ∧
    g0 ∈ gset.refs (cellBlock g0.cell) ∧
    (let k := lookupD {} (s.block (cellBlock g0.cell)).bars 5
     (n = 0 → k.done + 1 < k.expected) ∧ (n = 1 → k.expected ≤ k.done + 1)) := by decide +kernel

/-- The first arrival of a set whose other group runs on, or whose block looks for no deadlock. -/
theorem test_barrier_waits : let w := iw 0xF6 0 0 0 0 0
    let h : GRef := { cell := 1, slot := 0 }
    let s := text (devBar grp 0) w
    let s' : State := { s with cells := s.cells ++ [(1, { groups := [(0, { grp with index := 1 })] })] }
    h ∈ gset.refs (cellBlock g0.cell) ∧ h ≠ g0 ∧ s'.group h = some { grp with index := 1 } ∧
    (({ s with csr := s.csr ++ [(oBlk 0 0xF0, 0)] } : State).csrF (oBlk (cellBlock g0.cell) 0xF0) 0 1 = 0) ∧
    canIssue s' g0 0xF6 w 0 ((ctlShape w (decide (iMod w < 16))).and (shWhole w)) (barCheckIssue g0 w) anyRoom = true := by decide +kernel

/-- Thirty-two entries of the reconvergence stack. -/
def fullStack : List StackEntry := List.replicate 32 { rpc := 0x40000, pendPc := 0, pendMask := 0, saved := 3, pendDone := true }

/-- DIV_OVERFLOW, BAR_PARTIAL and BAR_RANGE. -/
theorem test_branch_and_barrier_faults :
    (let w := iw 0xF1 0 0 0 4 2 0
     let v : Group := { grpP with stack := fullStack }
     canIssue (devT v w) g0 0xF1 w 0 (braShape w) noCheck anyRoom = true ∧ (devT v w).readyGroup g0 = some v ∧
     v.mask &&& v.guardBits w ≠ 0 ∧ v.mask &&& ~~~(v.guardBits w) ≠ 0 ∧ 32 ≤ v.stack.length) ∧
    (let w := iw 0xF6 0 0 0 0 0
     let v : Group := { grp with live := 3 }
     goes v 0xF6 w ((ctlShape w (decide (iMod w < 16))).and (shWhole w)) = true ∧ (devT v w).readyGroup g0 = some v ∧ v.mask ≠ v.live) ∧
    (let w := iw 0xF6 0 0 0 0 1
     let s := text (devBar grp 0) w
     canIssue s g0 0xF6 w 0 ((ctlShape w (decide (iMod w < 16))).and (shWhole w)) noCheck anyRoom = true ∧
     s.setOf (cellBlock g0.cell) grp.setId = some gset ∧ gset.bars ≤ fld w 0 4 ∧ grp.mask = grp.live) := by decide +kernel

/-- FENCE of each scope; the end of one that waits for nothing. -/
theorem test_fences : (∀ m ∈ [0, 1, 2, 3, 16, 19], let w := iw 0xF7 0 0 0 0 m
      goes grp 0xF7 w ((ctlShape w (decide (iMod w % 16 < 4) && decide (iMod w < 32))).and (shWhole w)) = true) ∧
    (∀ n ∈ [0, 1, 2, 3], let f : FenceRec := { scope := BitVec.ofNat 2 n, silk := true }
      let v : Group := { grp with fence := some f }
      (dev v).group g0 = some v ∧ v.st = .running ∧ (dev v).fenceReady v f = true) := by decide +kernel

/-- A group whose WAIT watches the word at 0x20000 for the value 7. -/
def wrec : WaitRec := { addr := 0x20000, value := 7, pd := 1, cond := 0, timeout := 1, made := 1, inFlight := [(0, 0)] }

theorem test_waits :
    (let v : Group := { grp with sregs := [(2, 0x20000)] }
     let w := iw 0xF8 1 2 4 0 1
     goes v 0xF8 w (((shPd (iDst w)).and ((shS (iA w) 2).and ((shS (iB w) 2).and (shZ (iC w))))).and
      ((Shape.when (decide (fld w 13 3 < 3) && decide (fld w 16 4 = 0) && !bit w 12)).and (shWhole w))) = true ∧
     (devT v w).readyGroup g0 = some v ∧ (v.spair (iA w)).toNat % 8 = 0 ∧
     ((((devT v w).issuedAt g0 .control v 0xF8 w 0).movePtr g0 .memory).translate v.ctx (v.spair (iA w)).toNat .load).1 = .ok 0x20000 false ∧
     (devT v w).eccHits 0x20000 8 = []) ∧
    (let v : Group := { grp with wait := some wrec }
     (dev v).group g0 = some v ∧ v.halted = false ∧ wrec.made < wrec.timeout * 4 + 1 ∧
     (((dev v).movePtr g0 .memory).translate v.ctx wrec.addr.toNat .load).1 = .ok 0x20000 false) ∧
    (waitMet wrec 0 = false ∧ waitMet wrec 7 = true ∧ ({ wrec with inFlight := [(4, 0)] } : WaitRec).timeout * 4 = 4) := by decide +kernel

/-! ### Memory instructions -/

/-- LDS and STS of a word, the last in the group's scratch. -/
theorem test_scratch : (∀ o ∈ [0xA0, 0xA1], let w := iw o (if o = 0xA0 then 1 else 0) 2 0 (if o = 0xA0 then 0 else 1) 0x10000
      let v : Group := { grp with sregs := [(2, 1020)] }
      goes v o w (memShape w 1 (o == 0xA0) (o == 0xA1) (loadOk w)) = true ∧ (devT v w).readyGroup g0 = some v ∧ loadOk w = storeOk w ∧
      bit (v.active w) 0 = true ∧ scratchAddr v w 0 % lBytes w = 0 ∧ scratchAddr v w 0 + lBytes w ≤ v.scratchUnits.length * 1024) ∧
    (dev grp).scratchEcc = [] := by decide +kernel

/-- LD, ST and each atomic on the word at 0x20000. -/
theorem test_memory : ∀ o ∈ [0xA2, 0xA3, 0xA4, 0xA5, 0xA6, 0xA7, 0xA8],
    let d := if o = 0xA3 then 0 else 1
    let c := if o = 0xA2 then 0 else 3
    let m : Mode := if o = 0xA2 then .load else if o = 0xA3 then .store else .atomic
    let w := iw o d 2 0 c 0x10000
    let v : Group := { grp with sregs := [(2, 0x20000)] }
    goes v o w (memShape w 2 (d == 1) (c == 3) true) = true ∧ (devT v w).readyGroup g0 = some v ∧ (devT v w).ecc = [] ∧
    ((((devT v w).issuedAt g0 .memory v o w 0).checkAccess v.ctx m (lBytes w)
      ((v.activeList w).map (fun t => (t, virtAddr v w t)))).1 = .ok [(0, 0x20000, 0x20000, false)]) ∧
    lSize w = 2 ∧ lSx w = false ∧ loadOk w = true ∧ storeOk w = true ∧ coldAt (devT v w) g0 0x20000 false = true := by decide +kernel

/-- A store's merge of the sector at 0x20000 meets each kind of upset. -/
theorem test_store_upset : (let w := iw 0xA3 0 2 0 3 0x10000
    let v : Group := { grp with sregs := [(2, 0x20000)] }
    let x := ((devT v w).issuedAt g0 .memory v 0xA3 w 0).checkAccess v.ctx .store (lBytes w) ((v.activeList w).map (fun t => (t, virtAddr v w t)))
    x.1 = .ok [(0, 0x20000, 0x20000, false)] ∧ (mergeWords [(0x20000, storeBytes v w 0)])[1]? = some 0x20008) ∧
    (let k (m : DWord) := upsetKind (match placeOf (eccUnit 0x20008).1 with | some (.hbm _) => true | _ => false) m
     k 0x5 = .corrected ∧ k 0x10001 = .uncorrected ∧ k 0x100010001 = .beyond) := by decide +kernel

/-- An access whose data is to return, and one whose check failed. -/
def acc0 : Access := { pc := 0x10000, regs := [1], writes := [(64, 9)], srcs := [(0x20000, 0)], size := 4, sx := false, scratch := false, hits := [], fault := none }

theorem test_memory_path : (let v : Group := { grp with pend := [acc0] }
     (dev v).group g0 = some v ∧ v.pend[0]? = some acc0 ∧ acc0.fault = none ∧ acc0.hits = [] ∧ v.exited = false ∧
     acc0.upsetWord 0 = some 0x20000 ∧
     upsetKind (!acc0.scratch && !acc0.cached.contains 0x20000 && (match placeOf 0x20000 with | some (.hbm _) => true | _ => false)) 0xFFFFFFFFFFFFFFFF = .beyond ∧
     acc0.cached.contains (acc0.unitOf 0x20000) = acc0.cached.contains 0x20000 ∧
     upsetKind (!acc0.scratch && !acc0.cached.contains 0x20000 && (match placeOf (eccUnit 0x20000).1 with | some (.hbm _) => true | _ => false)) 4 = .corrected) ∧
    (let a : Access := { acc0 with fault := some (0x010B, 0x30000) }
     let v : Group := { grp with pend := [a] }
     (dev v).group g0 = some v ∧ v.pend[0]? = some a ∧ v.st ≠ .exiting ∧ v.st ≠ .frozen) := by decide +kernel

/-! ### Silk instructions -/

/-- A group whose v2 and v3 of thread 0 hold the Silk address of node 0, window 1, offset 0x100. -/
def grpSilk : Group := { grp with vregs := [(2 * 64, 0x100), (3 * 64, 0x100)] }

def goes2 (v : Group) (opc : Nat) (w x : DWord) (sh : Shape) (room : State → Group → Bool) : Bool :=
  canIssue (devT v w x) g0 opc w x sh noCheck room

theorem test_silk_requests :
    (∀ o ∈ [0xB0, 0xB1, 0xB2, 0xB3], (devT grpSilk (iw o 1 2 0 4 0)).readyGroup g0 = some grpSilk) ∧
    (let w := iw 0xB0 1 2 0 0 0; let x := xw 0xB0 0
     goes2 grpSilk 0xB0 w x (silkShape w x true false (decide (xSize x ≤ 2) && decide (xAop x = 0)))
       (fun s v => s.tagsFree (cellRegion g0.cell) (silkRuns (silkAddrs v w x) (silkBytes x)).length) = true ∧
     silkAddrs grpSilk w x = [(0, 2 ^ 40 + 0x100)] ∧ (2 ^ 40 + 0x100) % silkBytes x = 0 ∧
     (devT grpSilk w x).readyGroup g0 = some grpSilk ∧ find ((devT grpSilk w x).region (cellRegion g0.cell)).lineCache (remoteKey 0 ((2 ^ 40 + 0x100) / 64 * 64)) = none) ∧
    (let w := iw 0xB1 0 2 0 1 0; let x := xw 0xB1 0
     goes2 grpSilk 0xB1 w x (silkShape w x false true (decide (xSize x ≤ 2) && decide (xAop x = 0)))
       (fun s v => s.tagsFree (cellRegion g0.cell) (silkRuns (silkAddrs v w x) (silkBytes x)).length) = true ∧
     silkAddrs grpSilk w x = [(0, 2 ^ 40 + 0x100)] ∧ (2 ^ 40 + 0x100) % silkBytes x = 0) ∧
    (let w := iw 0xB2 1 2 0 4 0; let x := xw 0xB2 0
     (match aopOf (xAop x) with
     | none => false
     | some op => goes2 grpSilk 0xB2 w x (silkShape w x true true (decide (xSize x ≤ 1) && decide (silkBytes x = op.frameBytes)))
         (fun s v => s.tagsFree (cellRegion g0.cell) (v.activeList w).length)) = true ∧ (2 ^ 40 + 0x100) % silkBytes x = 0) ∧
    (let w := iw 0xB3 0 2 0 0 0; let x := xw 0xB3 0
     goes2 grpSilk 0xB3 w x (silkShape w x false false (decide (xSize x = 0) && decide (xAop x = 0)))
       (fun s v => s.tagsFree (cellRegion g0.cell) (silkRegions (silkAddrs v w x)).length) = true) := by decide +kernel

/-- A group with a local address in s2, a Silk address in s4 and a length in s6; channel 1 of region 0 bound to context 0. -/
def grpBulk : Group := { grp with sregs := [(2, 0x20000), (5, 0x100), (6, 64)] }
def devBulk : State := { dev grpBulk with csr := [(oPtLo 0, 0x1000), (oPtHi 0, 0x01000000), (oCe 0 1, 1)] }

theorem test_bulk_transfers : ∀ o ∈ [0xB4, 0xB5], let w := iw o 0 2 4 6 0; let x := xw o (2 ^ 48); let d := text devBulk w x
    canIssue d g0 o w x (((shS (iA w) 2).and ((shS (iB w) 2).and ((shS (iC w)).and (shZ (iDst w))))).and
      ((Shape.when (iMod w == 0 && fld x 52 4 == 0)).and (shGuard w))) noCheck (fun s v => v.active w == 0 || (bulkBad v w).isSome ||
      !s.ceBound (cellRegion g0.cell) (fld x 48 4) v.ctx || !((s.ceChan (cellRegion g0.cell) (fld x 48 4)).busy || (s.ceChan (cellRegion g0.cell) (fld x 48 4)).frozen)) = true ∧
    d.readyGroup g0 = some grpBulk ∧ grpBulk.active w ≠ 0 ∧ bulkBad grpBulk w = none ∧
    d.ceBound (cellRegion g0.cell) (fld x 48 4) 0 = true := by decide +kernel

theorem test_remote_trigger : let w := iw 0xB8 0 1 16 0 0; let x := xw 0xB8 0x0203
    goes2 grp 0xB8 w x (((shS (iA w)).and ((shS (iB w) 16).and ((shZ (iC w)).and (shZ (iDst w))))).and
      ((Shape.when (iMod w == 0 && fld x 16 40 == 0)).and (shGuard w))) (fun s v => v.active w == 0 || s.tagsFree (cellRegion g0.cell) 1) = true ∧
    (devT grp w x).readyGroup g0 = some grp ∧ grp.active w ≠ 0 := by decide +kernel

/-! ### The array -/

/-- A problem of one row and four columns on base slot 0. -/
def tag0 : Tag := { owned := true, owner := 0, base := true, baseSlot := 0, pk := 2, qk := true, rows := 1, cols := 4, ld := 16 }

def devMx (v : Group) : State := { idle with cells := [(0, { groups := [(0, v)], tags := [(0, tag0)], itags := [(0, tag0)] })] }

/-- s3 of a quad from s0 names 32 positions, and a WCAST of one position to cell 0. -/
def grpMx : Group := { grp with sregs := [(3, 0x00010020)] }

/-- The same for MX.LOAD, whose s3 names positions alone. -/
def grpLd : Group := { grp with sregs := [(3, 0x20)] }

def goesMx (opc : Nat) (w x : DWord) (sh : Shape) (chk : State → Group → Option (BitVec 16)) (v : Group := grpMx) : Bool :=
  canIssue (text (devMx v) w x) g0 opc w x sh chk (fun _ v => decide (v.mxq.length < 4))

theorem test_array_issue :
    (let w := iw 0xC1 0 0 0 0 1; let x := xw 0xC1 0
     goesMx 0xC1 w x (mxShape w x 0 0 0 (some false) [] true) (mxCheck g0 (wSlots w) (basesMeet w (fun _ => true))) = true) ∧
    (let w := iw 0xC2 0 0 0 0 1; let x := xw 0xC2 0
     goesMx 0xC2 w x (mxShape w x 2 1 0 (some true) [(48, 4)] ([0, 2, 5].contains (xFmt x)))
       (mxCheck g0 (wSlots w) (basesMeet w (fun t => t.int == decide (xFmt x = 5)))) = true) ∧
    (let w := iw 0xC3 0 0 0 0 1; let x := xw 0xC3 0x2000000000000
     goesMx 0xC3 w x (mxShape w x 8 0 0 (some true) [(48, 4), (40, 1), (16, 13)] (!(wfmtsOf (xFmt x)).isEmpty))
       (whenRead [256 + iA w + 3] (fun s v => if fld (v.sreg (iA w + 3)) 13 19 ≠ 0 then some 0x0109
         else mxCheck g0 (wSlots w) (basesMeet w (passOk (xFmt x) (fld (v.sreg (iA w + 3)) 0 13) (xKoff x))) s v)) grpLd = true) ∧
    (let w := iw 0xC4 0 0 0 0 0; let x := xw 0xC4 0x2000000000000
     goesMx 0xC4 w x (mxShape w x 8 0 0 none [(48, 4), (44, 2), (40, 1)] (!(wfmtsOf (xFmt x)).isEmpty))
       (whenRead [256 + iA w + 3] (mxCheck g0 [] (fun _ v => decide (fld (v.sreg (iA w + 3)) 0 16 ≠ 0)))) = true) := by decide +kernel

theorem test_array_issue_more :
    (let w := iw 0xC5 0 0 0 0 1; let x := xw 0xC5 0x2200000000020
     goesMx 0xC5 w x (mxShape w x 0 0 0 (some false) [(48, 4), (44, 4), (42, 2), (40, 2), (16, 13), (0, 13)]
      ((wfmtsOf (xFmt x)).contains (xWfmt x) && decide (xRmode x < 2) && !(isInt8 (xFmt x) && decide (xRmode x = 1)) &&
        decide (xK x ≤ 4096))) (mxCheck g0 (wSlots w) (basesMeet w (passOk (xFmt x) (xK x) (xKoff x)))) = true) ∧
    (let w := iw 0xC6 0 0 0 0 1; let x := xw 0xC6 0
     goesMx 0xC6 w x (mxShape w x 2 1 0 (some true) [(48, 4), (40, 2), (37, 3)]
      ([0, 1, 2, 3, 4, 5, 7].contains (xFmt x) && decide (xRmode x < 2) &&
        !(decide (xFmt x = 5 ∨ xFmt x = 7) && decide (xRmode x = 1)) && (!xAcc x || decide (xFmt x = 0 ∨ xFmt x = 2))))
      (mxCheck g0 (wSlots w) (basesMeet w (fun t => t.int == decide (xFmt x = 5 ∨ xFmt x = 7)))) = true) ∧
    (let w := iw 0xD0 0 0 0 0 1; let x := xw 0xD0 0
     goesMx 0xD0 w x (mxShape w x 0 (if xFmt x = 1 then 1 else 0) 0 (some false) [(48, 4)] (decide (xFmt x ≤ 6)))
       (mxCheck g0 (wSlots w) (basesMeet w (fun t => !t.int))) = true) ∧
    (let w := iw 0xD1 0 0 0 0 1; let x := xw 0xD1 0
     goesMx 0xD1 w x (mxShape w x 2 1 (if xFmt x = 1 then 1 else 0) (some true) [(48, 4), (44, 4)]
      (decide (xFmt x ≤ 4) && decide (xWfmt x ≤ 4))) (mxCheck g0 (wSlots w) (basesMeet w (fun t => !t.int))) = true) ∧
    (let w := iw 0xC0 0 0 0 0 1; let x := xw 0xC0 (2 * 2 ^ 50 + 2 ^ 49 + 7 * 2 ^ 40 + 3 * 2 ^ 32)
     goesMx 0xC0 w x (mxShape w x 4 0 0 (some true) [(47, 5), (40, 4), (32, 4)] (tagOk w x))
       (mxCheck g0 ((wSlots w).flatMap (fun b => (tagOf x []).cover b)) (basesMeet w (fun _ => true))) = true ∧ (text (devMx grpMx) w x).readyGroup g0 = some grpMx ∧ wSlots w = [0]) := by decide +kernel

/-- An array entry of an opcode that has not started, with rows at 0x20000. -/
def ent (opc : Nat) (m : Nat) (rest : Nat) : MxEntry :=
  { pc := 0x10000, w := iw opc 0 0 0 0 m, x := xw opc rest, args := [0x20000, 0, 64, 0x00010020, 0x30000, 0, 64, 0], started := false, pieces := [],
    data := [], scales := [], kdone := 0 }

def grpEnt (e : MxEntry) : Group := { grp with mxq := [e] }

theorem test_entries_start :
    (∀ o ∈ [0xC0, 0xC1, 0xC5, 0xD0], let e := ent o 1 0
      (devMx (grpEnt e)).group g0 = some (grpEnt e) ∧ nextEntry (grpEnt e).mxq = some (0, e) ∧
      (devMx (grpEnt e)).mayStart g0 (grpEnt e) e = true ∧ (devMx (grpEnt e)).startTurn g0 e.eng = true ∧ e.opc = o) ∧
    (let e := ent 0xC4 0 0x2000000000000
     nextEntry (grpEnt e).mxq = some (0, e) ∧ (devMx (grpEnt e)).mayStart g0 (grpEnt e) e = true ∧ (devMx (grpEnt e)).startTurn g0 e.eng = true ∧ e.opc = 0xC4) ∧
    (∀ o ∈ [0xC2, 0xC3, 0xD1, 0xC6], let e := ent o 1 (if o = 0xC3 then 0x2000000000000 else 0)
      let s := devMx (grpEnt e)
      nextEntry (grpEnt e).mxq = some (0, e) ∧ s.mayStart g0 (grpEnt e) e = true ∧ s.startTurn g0 e.eng = true ∧ e.opc = o ∧ wSlots e.w = [0] ∧ s.ecc = [] ∧ xAcc e.x = false ∧
      (∃ rows ∈ [[[(0x20000, 16)]], [[(0x20000, 64)]]],
        ((s.moveEng g0 e.eng).entryChecks (grpEnt e) (lookupD {} (s.cell 0).tags 0) e).1 = .ok rows)) := by decide +kernel

/-- A started entry that has nothing left to do. -/
def done' (e : MxEntry) : MxEntry := { e with started := true, kdone := e.need, pieces := [[(0x20000, 16)]] }

theorem test_entries_complete :
    (∀ o ∈ [0xC0, 0xC1, 0xC2, 0xC3, 0xC5], let e := done' (ent o 1 (if o = 0xC3 then 0x2000000000000 else 0))
      let s := devMx (grpEnt e)
      s.group g0 = some (grpEnt e) ∧ (grpEnt e).st ≠ .exiting ∧ (grpEnt e).mxq[0]? = some e ∧ s.entryDone (grpEnt e) e = true ∧ e.opc = o ∧
      wSlots e.w = [0] ∧ tag0.xr = false ∧ xTr e.x = false ∧
      fitsArray 0 tag0 = true ∧
      (o = 0xC3 → partByte 0 tag0 + xKoff e.x * elemBits (xFmt e.x) / 8 + loadK e * elemBits (xFmt e.x) / 8 ≤ 2048)) := by decide +kernel

theorem test_drains_complete :
    (∀ o ∈ [0xC6, 0xD0, 0xD1], let e := done' (ent o 1 0)
      let s := devMx (grpEnt e)
      s.group g0 = some (grpEnt e) ∧ (grpEnt e).mxq[0]? = some e ∧ s.entryDone (grpEnt e) e = true ∧ e.opc = o ∧ wSlots e.w = [0] ∧
      fitsArray 0 tag0 = true ∧ s.ecc = [] ∧ s.inMem 0x20000 16 = true ∧ s.foreign 0 0x20000 = false ∧ e.pieces.flatten = [(0x20000, 16)] ∧ xAcc e.x = false ∧
      (outputs tag0).all (fun x => (tag0.cover 0).contains ((slotRow 0 + x.2.2.1) / 8 * 4 + (slotCol 0 + x.2.2.2) / 4)) = true) := by decide +kernel

/-- A drain whose page has become cocoon 1's since it was checked. -/
theorem test_foreign_drain : let e := done' (ent 0xC6 1 0)
    let s : State := { devMx (grpEnt e) with sec := { cocoons := [(1, { st := 1, regions := 1 })] } }
    s.entryDone (grpEnt e) e = true ∧ s.inMem 0x20000 (tag0.cols * outBytes (xFmt e.x)) = true ∧ s.foreign 0 0x20000 = true ∧ tag0.rows = 1 ∧
    e.pieces = [[(0x20000, tag0.cols * outBytes (xFmt e.x))]] := by decide +kernel

/-- A WCAST of one position to cell 0, at the head of channel 1 of block 0. -/
def wc : Wcast := { ctx := 0, cid := 1, cell := 0, slot := 0, fmt := 2, tr := false, addr := 0x20000, stride := 64, kw := 1, subs := 1, saddr := 0, sstride := 0, granted := 0 }

def devW (e : MxEntry) (subs : BitVec 16) : State := { devMx (grpEnt e) with
  blocks := [(0, { chans := [(1, { q := [{ wc with subs := subs }] })] })]
  csr := [(oPtLo 0, 0x1000), (oPtHi 0, 0x01000000), (oBlk 0 0x200, 1)] }

/-- A started STREAM of channel 1 that needs a position. -/
def strm : MxEntry := { ent 0xC5 1 (2 * 2 ^ 48 + 2 * 2 ^ 44 + 2 ^ 42 + 1) with started := true }

theorem test_weight_broadcast :
    (let s := devW strm 1
     (s.chan 0 1).q = [wc] ∧ s.grantTurn 0 = some 1 ∧ s.ecc = [] ∧ wc.tr = false ∧ isMx (xWfmt strm.x) = false ∧
     s.subscribers 0 wc = [0] ∧ s.taker 0 1 0 = some (0, 0, strm) ∧
     (∃ rows ∈ [[[(0x20000, 32)]]], ((s.setBlock 0 { s.block 0 with grantPtr := 1 }).checkRows wc.ctx .load (wcastAlign wc) wc.addr.toNat
       (beatRows wc ++ beatScales wc) (wc.tr && isMx wc.fmt) 0).1 = .ok rows)) ∧
    (let s := devW strm 3
     let w : Wcast := { wc with subs := 3 }
     (s.chan 0 1).q = [w] ∧ s.csrF (oBlk 0 0x200) 0 8 ≠ 0 ∧ (s.chan 0 1).frozen = false ∧ s.grantable 0 1 w = false ∧
     (s.subscribers 0 w).any (fun x => (s.taker x 1 0).isSome) = true) := by decide +kernel

/-! ### Admission, folds, memory units -/

theorem test_admission : let s : State := { idle with blocks := [(0, { launchQ := [gset] })] }
    (s.block 0).launchQ = [gset] ∧ (s.applyMaxGroups 0).blockUp 0 = true ∧ (s.applyMaxGroups 0).neverFits 0 gset = false ∧
    (s.applyMaxGroups 0).fitsNow 0 gset = true ∧ s.sideOk gset.ctx (blockRegion 0) = true ∧ (s.ctx gset.ctx).st = 1 ∧ s.host.ctxBusy ≠ some (gset.ctx, 7) := by decide +kernel

/-- An fp32 fold group, and a bf16 one with a residue. -/
def fold0 : FoldGroup := { g := g0, gid := 1, ctx := 0, ticket := 0, bf16 := false, addr := lsBase, resid := none, accum := none, vals := [0x3F800000] }

theorem test_folds : ∀ n ∈ [0, 1], let f : FoldGroup := if n = 0 then fold0 else { fold0 with bf16 := true, resid := some (lsBase + 64) }
    let s : State := { idle with regions := [(0, { accPort := [f] })] }
    s.nextFold (s.region 0).accPort [] = some f ∧ s.inMem f.addr 1 = true ∧ s.ecc = [] ∧ s.groupTask f.g = none ∧ s.sec.cocoons = [] ∧
    lsBase + 2 * 1 ≤ lsBase + 64 := by decide +kernel

theorem test_memory_units :
    (let s : State := { idle with csr := [(oReg 0 0x50000, 1)] }
     s.csrF (oReg 0 0x50000) 0 1 = 1 ∧ s.ecc = [] ∧ s.inMem 0 32 = true ∧ s.inMem (lsBase + 0) 8 = true ∧ s.inMem (hbmSize - 32) 32 = true ∧
     (s.region 0).err.busy = false) ∧
    (let s : State := { idle with chip := { idle.chip with tlbBusy := true, tlbCtx := 3 } }
     s.chip.tlbBusy = true ∧ s.sec.unmapping = none ∧ s.translated s.chip.tlbCtx = false) ∧
    (let s : State := { idle with sec := { busy := true, unmapping := some (3, 5, 1) } }
     s.chip.tlbBusy = false ∧ s.sec.unmapping = some (3, 5, 1) ∧ s.translated 3 = false) ∧ idle.regionUp 0 = true := by decide +kernel

/-- A control space word takes a write. -/
def takes (s : State) (off : Nat) : Bool :=
  !s.boot.inReset && decide (off % 4 = 0) && (match locate off with | some (u, _) => s.unitWrites u | none => false)

theorem test_memory_registers : idle.boot.inReset = false ∧ idle.chip.tlbBusy = false ∧
    (∀ o ∈ [oBlk 0 0x304, oBlk 639 0x304, oReg 0 0x50008, oReg 7 0x50008, oReg 0 0x10004, oReg 7 0x10004], takes idle o = true) := by decide +kernel

theorem test_register_classes :
    (∀ o ∈ [oReg 0 0x10000, oReg 7 0x10000, oCell 0 0, oCell 10239 0], takes idle o = true) ∧
    idle.boundTo 0 = none ∧ idle.rootIdle 0 = true ∧
    (dev grp).rootIdle 0 = false ∧ fld (0x01000001 : Word) 0 16 ≠ fld ((dev grp).csrRead (oPtHi 0)) 0 16 ∧ locate 0x600000 = none := by decide +kernel

theorem test_errors_and_debug :
    (∀ u ∈ [UnitRef.ceu 0, .beu 0, .geu 0, .chip], errUnitOk u = true ∧ takes idle (errClrOff u) = true) ∧
    takes (dev grp) (oCell 0 0x100) = true ∧ (dev grp).group g0 = some grp := by decide +kernel

theorem test_illegal_forms :
    (∀ o ∈ [0x12, 0x45, 0x92, 0xE9, 0xF8], let w := iw o 7 2 4 0 0
      iDst w = 7 ∧ fld w 0 2 ≠ 2 ∧ iOpc w = o ∧ ((devT grp w).fetchAt g0 grp o w 0).1.isNone = true ∧ (devT grp w).readyGroup g0 = some grp ∧
      ((devT grp w).setGroup g0 grp).breakAt 0 grp.pc = false) ∧
    grp.mayIssue = true ∧
    iPred (iw 0 0 0 0 0 0) = 7 ∧ iPneg (iw 0 0 0 0 0 0) = false ∧
    9 < fld (iw 0xEB 1 0 0 0 10) 0 8 ∧ fld (iw 0xEC 0 1 0 0 5) 0 8 ≠ 6 := by decide +kernel

/-! ### Contexts, fences and queue commands -/

/-- A queue entry of opcode `o`: sequence number 7, no SIGNAL, and bytes 16 on. -/
def qcmd (o : Nat) (rest : List Byte) (flags : Nat := 0) : List Byte :=
  [BitVec.ofNat 8 o, BitVec.ofNat 8 flags, 7, 0] ++ List.replicate 12 0 ++ rest ++ List.replicate (40 - rest.length) 0 ++ List.replicate 8 0

/-- Queue 0, enabled for CID 0 with its ring at page 1, and one started command. -/
def devQ (c : Cmd) : State := { idle with
  csr := [(oPtLo 0, 0x1000), (oPtHi 0, 0x01000000), (oQ 0 0, 1), (oQ 0 4, 0x10000)]
  host := { idle.host with queues := [(0, { running := [c], head := 1, tail := 1, parked := false })] } }

def cmd0 (b : List Byte) : Cmd := { k := 0, ctx := 0, bytes := b, begun := false, result := none }

/-- The idle device with its context 0 as given. -/
def devCtx (c : Ctx) : State := { idle with
  csr := [(oPtLo 0, 0x1000), (oPtHi 0, 0x01000000), (oHost 0x1804, 0x00100000), (oQ 0 0, 1), (oQ 0 4, 0x10000)]
  host := { ctxs := [(0, c)], ctxBusy := none, queues := [(0, { parked := false, tail := 0 })], fences := [(3, { st := 1 })] }
  cells := [(0, { groups := [(0, grp)] })] }

/-- An image of context 0 with the set of two groups, one of which is at hand. -/
def img : Image where
  id := 4
  addr := 0x100000
  content := []
  cid := 0
  cocoon := none
  valid := true
  evicted := false
  sets := [{ block := 0, gset := gset, groups := [(0, 0, grp)], bars := [] }]
  cells := []
  skips := []
  chans := []
  ces := []
  ants := []
  slotRegs := []
  pendStep := none

def devImg : State := { idle with
  csr := [(oPtLo 0, 0x1000), (oPtHi 0, 0x01000000), (oHost 0x1804, 0x00100000)]
  host := { ctxs := [(0, { st := 3, image := some 4 })], images := [img] } }

theorem test_context_slots :
    ctxIdle (devCtx {}) = true ∧ ((devCtx {}).ctx 63).st = 0 ∧ (devCtx {}).cidFree ((devCtx {}).cid 63) = true ∧
    (let s := devCtx { st := 1 }
     ctxIdle s = true ∧ (s.ctx 0).st = 1 ∧ s.saveOk 0 s.saveAddr 64 = true) ∧
    (ctxIdle devImg = true ∧ (devImg.ctx 0).st = 3 ∧ (∀ w ∈ devImg.winsOf 0, devImg.csrF (oJwin w 0) 0 1 = 0) ∧ devImg.ecc = [] ∧
     devImg.imageHere = some img ∧ devImg.resumeOk 0 img = true ∧
     (img.sets.flatMap (fun x => x.groups.map (fun z => (x.block * 16 + z.1, z.2.1)))).Nodup ∧
     ∀ x ∈ img.sets, x.gset.placed ≠ [] ∨ x.groups = []) := by decide +kernel

theorem test_suspend_completes :
    let s : State := { devImg with host := { ctxs := [(0, { st := 1, image := some 4 })], images := [{ img with valid := false }], ctxBusy := some (0, 7) } }
    s.host.ctxBusy = some (0, 7) ∧ (s.ctx 0).st = 1 ∧ s.ctxWork 0 = false ∧ s.started 0 = [] ∧ s.ecc = [] ∧
    s.host.images.find? (fun i => decide (some i.id = (s.ctx 0).image)) = some { img with valid := false } ∧
    (let b := s.imageBytes 0 (s.captureImage 0 4 0x100000); b.2.saveOk 0 0x100000 b.1.length = true) := by decide +kernel

theorem test_context_teardown :
    ((devCtx { st := 1 }).ctx 0).st ≠ 0 ∧ ctxIdle (devCtx { st := 1 }) = true ∧
    (∀ p ∈ [1, 2, 3, 5], ctxIdle (devCtx { st := 2, phase := BitVec.ofNat 3 p }) = true ∧
      (devCtx { st := 2, phase := BitVec.ofNat 3 p }).inPhase 0 p = true ∧ (devCtx { st := 2, phase := BitVec.ofNat 3 p }).inPhase 0 (p + 1) = false) ∧
    (∀ q ∈ (devCtx { st := 2 }).queuesOf ((devCtx { st := 2 }).cid 0), ((devCtx { st := 2 }).queue q).head = ((devCtx { st := 2 }).queue q).tail) ∧
    (let s : State := { devCtx { st := 2, phase := 2 } with host := { ctxs := [(0, { st := 2, phase := 2 })], ctxBusy := some (0, 4) } }
     s.host.ctxBusy = some (0, 4) ∧ s.ctxWork 0 = false ∧ s.started 0 = [] ∧ ∀ w ∈ s.winsOf 0, s.jwinInUse w = false) ∧
    (devCtx { st := 2, phase := 5 }).boundTo 0 = none := by decide +kernel

/-- A FENCE_WAIT on fence 3 for the value 5. -/
def waitCmd : Cmd := { cmd0 (qcmd 2 ([3, 0] ++ List.replicate 6 0 ++ [5])) with begun := true }

theorem test_fence_table :
    (let s : State := { idle with host := { idle.host with fences := [(3, { st := 1 }), (16383, { st := 2 })] } }
     s.boot.inReset = false ∧ (s.fence 4).st = 0 ∧ (s.fence 3).st = 1 ∧ (s.fence 16383).st ≠ 0 ∧ (s.fence 16383).waiters = 0 ∧ (s.fence 16383).st ≠ 1) ∧
    (let u : Queue := { running := [waitCmd], waiting := true, parked := false }
     let s : State := { idle with csr := idle.csr ++ [(oHost 0x3004, 9)], host := { idle.host with queues := [(0, u)], fences := [(3, { st := 1, waiters := 1 })] } }
     s.host.queues = [(0, s.queue 0)] ∧ (s.queue 0).running = [waitCmd] ∧ waitsOn 3 waitCmd = true ∧ (s.fence 3).st = 1 ∧ s.csrF (oFence 3 8) 16 1 = 0 ∧
     (let arg : BitVec 48 := BitVec.ofNat 48 (s.csrF (oHost 0x3004) 0 32 + s.csrF (oHost 0x3008) 0 16 * two32)
      (s.fence 3).value.toNat < arg.toNat ∧ leAt waitCmd.bytes 24 6 ≤ arg.toNat)) := by decide +kernel

/-- A LAUNCH of two groups of 16 registers and one barrier on block 0, entry 0x10000. -/
def launchCmd (groups regs slots : Nat) : Cmd :=
  cmd0 (qcmd 1 ([0, 0, 1, 0, 0, 0, 0, 0] ++ [0, 0] ++ leBytes 2 groups ++ [BitVec.ofNat 8 regs, 1, BitVec.ofNat 8 slots, 1]) 2 ++ List.replicate 64 0)

theorem test_launch_and_wait :
    (let c := cmd0 (qcmd 0 []); cmdWaits (devQ c) 0 0 0 c = true) ∧
    (let c := launchCmd 2 16 0; let s := devQ c
     cmdWaits s 0 0 1 c = true ∧ (s.ctx c.ctx).st = 1 ∧ declOk c.bytes = true ∧ s.blockUp (launchBlock c.bytes) = true ∧
     s.sideOk c.ctx (blockRegion (launchBlock c.bytes)) = true ∧
     (match (s.resolve c.ctx (.queue 0) (BitVec.ofNat 64 (leAt c.bytes 16 8)) 8).1 with | .ok va => va == 0x10000 | _ => false) = true ∧
     s.neverFits 0 (launchSet c.bytes s.nextId c.ctx (s.cid c.ctx) (.command 0 0) (BitVec.ofNat 64 0x10000) 0) = false) ∧
    (let c := launchCmd 17 16 255; let s := devQ c
     declOk c.bytes = true ∧ s.neverFits 0 (launchSet c.bytes s.nextId c.ctx (s.cid c.ctx) (.command 0 0) (BitVec.ofNat 64 0x10000) 0) = true) ∧
    (let c := launchCmd 257 16 0; cmdWaits (devQ c) 0 0 1 c = true ∧ ((devQ c).ctx c.ctx).st = 1 ∧ declOk c.bytes = false) ∧
    (let c := { waitCmd with begun := false }
     cmdWaits (devQ c) 0 0 2 c = true ∧ fenceVerdict { st := 1 } c = none ∧ fenceVerdict { st := 1, value := 5 } c = some stOk ∧
     fenceVerdict ((devQ c).fence 3) c = some stBadFence) := by decide +kernel

/-- A COPY of 32 bytes from page 1 to page 2, and a FILL of page 2. -/
def copyCmd : Cmd := cmd0 (qcmd 3 (leBytes 8 0x10000 ++ leBytes 8 0x20000 ++ leBytes 8 32))
def fillCmd : Cmd := cmd0 (qcmd 4 (leBytes 8 0x20000 ++ leBytes 8 32 ++ leBytes 4 0x01020304))

/-- A result that is one piece. -/
def oneAt (pa n : Nat) (x : Except (Tr × Nat) (List (Nat × Nat))) : Bool := match x with | .ok l => l == [(pa, n)] | _ => false

def isVa (v : Nat) (x : Except (BitVec 16) Nat) : Bool := match x with | .ok a => a == v | _ => false

theorem test_block_transfers :
    (let c := copyCmd; let s := devQ c
     cmdWaits s 0 0 3 c = true ∧ dmaReady s c 32 = true ∧ leAt c.bytes 32 8 = 32 ∧
     isVa 0x10000 (s.resolve c.ctx (.queue 0) (BitVec.ofNat 64 (leAt c.bytes 16 8)) 32).1 = true ∧ s.upperBad 0 0x10000 32 = false ∧
     isVa 0x20000 (s.resolve c.ctx (.queue 0) (BitVec.ofNat 64 (leAt c.bytes 24 8)) 32).1 = true ∧ s.ecc = [] ∧
     oneAt 0x10000 32 (s.range c.ctx 0x10000 32 .load).1 = true ∧
     oneAt 0x20000 32 ((s.range c.ctx 0x10000 32 .load).2.range c.ctx 0x20000 32 .store).1 = true ∧
     ((s.begin 0 0).dmaBeats c.ctx 0 [] 1 (some 0x10000) 0x20000).2 = none) ∧
    (let c := fillCmd; let s := devQ c
     cmdWaits s 0 0 4 c = true ∧ dmaReady s c 32 = true ∧ leAt c.bytes 24 8 = 32 ∧
     isVa 0x20000 (s.resolve c.ctx (.queue 0) (BitVec.ofNat 64 (leAt c.bytes 16 8)) 32).1 = true ∧ oneAt 0x20000 32 (s.range c.ctx 0x20000 32 .store).1 = true ∧
     ((s.begin 0 0).dmaBeats c.ctx 0 ((List.range 8).flatMap (fun _ => slice c.bytes 32 4)) 1 none 0x20000).2 = none ∧
     ((List.range 8).flatMap (fun _ => slice c.bytes 32 4)).length = 32) := by decide +kernel

/-- A MEASURE of the last two blocks. -/
def measCmd (op dump log : Nat) : Cmd := cmd0 (qcmd 9 (leBytes 2 638 ++ leBytes 2 2 ++ leBytes 4 op ++ leBytes 8 dump ++ leBytes 8 log ++ leBytes 4 (if log = 0 then 0 else 4)))

theorem test_measurement_windows :
    (∀ log ∈ [0, 0x10000], let c := measCmd 3 0 log; let s := devQ c
     cmdWaits s 0 0 9 c = true ∧ leAt c.bytes 20 1 % 2 = 1 ∧ measureBad c.bytes = false ∧ leAt c.bytes 32 8 = log ∧
     (measureBlocks c.bytes).any (fun b => (s.block b).win.opened && decide ((s.block b).win.ctx ≠ c.ctx)) = false ∧
     isVa log (s.resolve c.ctx (.queue 0) (BitVec.ofNat 64 log) (16 * 4 * 2)).1 = true ∧ s.upperBad 0 log 128 = false) ∧
    (let c := measCmd 3 0 0; let s : State := { devQ c with blocks := [(639, { win := { opened := true, ctx := 1 } })] }
     (measureBlocks c.bytes).any (fun b => (s.block b).win.opened && decide ((s.block b).win.ctx ≠ c.ctx)) = true) ∧
    (∀ dump ∈ [0, 0x10000], let c := measCmd 0 dump 0
     let s : State := { devQ c with blocks := [(638, { grantPtr := 0, win := { opened := true } }), (639, { grantPtr := 0, win := { opened := true } })] }
     cmdWaits s 0 0 9 c = true ∧ leAt c.bytes 20 1 % 2 = 0 ∧ measureBad c.bytes = false ∧ s.ecc = [] ∧ leAt c.bytes 24 8 = dump ∧
     (measureBlocks c.bytes).all (fun b => (s.block b).win.opened && decide ((s.block b).win.ctx = c.ctx)) = true ∧
     isVa dump (s.resolve c.ctx (.queue 0) (BitVec.ofNat 64 dump) 16).1 = true ∧
     (dump = 0 ∨ oneAt dump 16 ((s.closeWindows (measureBlocks c.bytes)).2.range c.ctx dump 16 .store).1 = true)) := by decide +kernel

/-- Queue 0 with a NOP in its first ring entry, on page 2; its HEAD lies on page 1. -/
def devRing : State := { devQ (cmd0 []) with
  mem := idle.mem ++ [(0x20002, 7)]
  csr := [(oPtLo 0, 0x1000), (oPtHi 0, 0x01000000), (oQ 0 0, 1), (oQ 0 4, 0x1FF80)]
  host := { idle.host with queues := [(0, { tail := 1, parked := false })] } }

theorem test_commands_start :
    let s0 := devRing.host.queues.foldl (fun t q => t.applyB (oQ q.1 0) 0x6) devRing
    (∀ p, p < 4 → s0.readyQueues p = if p = s0.csrF (oQ 0 0) 1 2 then [0] else []) ∧ s0.qCtx 0 = some 0 ∧
    (match s0.fetchCmd 0 0 with | .ok (some b, t) => b == qcmd 0 [] && t.startable 0 b && (t.startCheck 0 b 0).isNone | _ => false) = true ∧
    devRing.ecc = [] ∧ (match s0.fetchCmd 0 0 with
      | .ok (some b, t) =>
        let c : Cmd := { k := 0, ctx := 0, bytes := b, begun := false, result := none }
        let u := t.queue 0
        oneAt 0x1FFC0 8 ((({ t with host := { t.host with lastQueue := insertD 1023 t.host.lastQueue (s0.csrF (oQ 0 0) 1 2) 0 } } : State).setQueue 0
          { u with head := u.head + 1, running := u.running ++ [c], waiting := u.waiting || c.holds }).range 0 (t.qRing 0 + 64) 8 .store).1
      | _ => false) = true := by decide +kernel

theorem test_commands_complete :
    (let c : Cmd := { cmd0 (qcmd 0 []) with begun := true, result := some (stOk, 0) }; let s := devQ c
     s.cmd 0 0 = some c ∧ (s.ctx 0).st ≠ 2 ∧ (s.ctx 0).noSignal = false ∧ s.mayComplete 0 = true ∧ s.ecc = [] ∧
     oneAt 0x100B8 8 (s.range 0 (s.qEntry 0 0 + 56) 8 .store).1 = true) ∧
    (let c : Cmd := { cmd0 (qcmd 0 []) with bytes := (qcmd 0 []).take 8 ++ leBytes 8 0x58003 ++ (qcmd 0 []).drop 16, result := some (stOk, 0) }
     let s : State := { devQ c with host := { (devQ c).host with fences := [(3, { st := 1 })] } }
     bit (cmdSignal c.bytes) 15 = true ∧ fld (cmdSignal c.bytes) 0 14 = 3 ∧ (s.fence 3).owner = s.qCid 0 ∧ (s.fence 3).st = 1 ∧ fld (cmdSignal c.bytes) 16 48 = 5) := by
  decide +kernel

theorem test_queue_registers :
    devRing.boot.inReset = false ∧ fld (1 : Word) 0 1 = devRing.csrF (oQ 0 0) 0 1 ∧ fld (1 : Word) 16 16 = (devRing.qCid 0).toNat ∧
    fld (0 : Word) 16 16 = (devRing.qCid 0).toNat ∧ bit (0 : Word) 0 = false ∧
    devRing.csrF (oQ 1023 0) 0 1 = 0 ∧ bit (1 : Word) 0 = true ∧ bit (1 : Word) 3 = false ∧ devRing.ctxOfCid 0 = some 0 ∧ (devRing.ctx 0).st = 1 := by
  decide +kernel

/-! ### Security, Chrysalis, failures, power, boot -/

/-- The bytes of a list that are not zero, with their addresses. -/
def cellsAt (a : Nat) (l : List Byte) : List Host.Cell :=
  ((l.mapIdx (fun i b => (a + i, b))).filter (fun x => decide (x.2 ≠ 0)))

/-- The idle device with a security descriptor at 0x40000. -/
def devSec (d : List Byte) (more : List Host.Cell) (c : Cocoon) (bound : Option Nat) : State := { idle with
  mem := idle.mem ++ cellsAt 0x40000 d ++ more
  csr := idle.csr ++ [(0x200000, 0x40000)]
  host := {}
  sec := { cocoons := if c.st = 0 then [] else [(1, c)], bound := match bound with | some b => [(0, some b)] | none => [] } }

def secD (cmd : Nat) (rest : List Byte) : List Byte := padTo 64 ([BitVec.ofNat 8 cmd, 1] ++ rest)

/-- Cocoon 1 over region 7. -/
def coc : Cocoon := { st := 1, regions := 0x80 }

theorem test_cocoon_commands :
    (let d := secD 1 [0x80]; let s := devSec d [] {} none
     secReady s 1 d = true ∧ (s.cocoon (leAt d 1 1)).st = 0 ∧ maskBits 8 (leAt d 2 1) = [7] ∧ s.regionUp 7 = true ∧ s.cocoonOf 7 = none ∧ s.regionIdle 7 = true) ∧
    (let d := secD 2 []; let s := devSec d [] coc none
     secReady s 2 d = true ∧ (s.cocoon (leAt d 1 1)).st = 1 ∧ (s.ctx (leAt d 3 1)).st = 0 ∧ s.boundTo (leAt d 3 1) = none) ∧
    (∀ k ∈ [1, 2], let d := secD 3 ([0, 0, 0, 0, 0, 0] ++ leBytes 8 0x50000 ++ leBytes 8 0x60000 ++ leBytes 4 k ++ [3]); let s := devSec d [] coc (some 1)
     secReady s 3 d = true ∧ s.boundTo (leAt d 3 1) = some (leAt d 1 1) ∧ (∀ i, i < leAt d 24 4 → s.mapTarget (leAt d 16 8 + 65536 * i) = true) ∧
     s.sec.lower.any (inPages (leAt d 3 1) (leAt d 8 8 / 65536) (leAt d 24 4)) = false) ∧
    (let d := secD 4 ([0, 0, 0, 0, 0, 0] ++ leBytes 8 0x50000 ++ leBytes 8 0 ++ leBytes 4 65536); let s := devSec d [] coc (some 1)
     secReady s 4 d = true ∧ s.boundTo (leAt d 3 1) = some (leAt d 1 1) ∧ s.translated (leAt d 3 1) = false ∧
     ({ s with cells := [(0, { groups := [(0, grpEnt { ent 0xC6 1 0 with started := true })] })] } : State).translated (leAt d 3 1) = true) := by
  decide +kernel

/-- A sealed bundle at 0x50000: one device entry of this package, one zeroed section of one page. -/
def bundle : List Host.Cell :=
  cellsAt 0x50000 (leBytes 4 0x42565041 ++ leBytes 2 1 ++ leBytes 2 1 ++ leBytes 4 1 ++ leBytes 4 0 ++ leBytes 8 5380) ++
  [(0x50000 + 1506, 8)] ++ cellsAt (0x50000 + 1680) (leBytes 8 State.reset.fuses.serial.toNat) ++
  [(0x50000 + 2832, 4), (0x50000 + 2835, 1), (0x50000 + 2858, 1)]

theorem test_sealed_bundles :
    let d := secD 5 ([0, 0, 0, 0, 0, 0] ++ leBytes 8 0x50000)
    (let s := devSec d [] coc none
     secReady s 5 d = true ∧ (s.cocoon (leAt d 1 1)).st = 1 ∧ s.outside 0x50000 64 = true ∧ bundleHeaderOk (s.bytes 0x50000 64) = false ∧ s.errBusy .chip = false) ∧
    (let s := devSec d bundle coc none
     let h := s.bytes 0x50000 64
     let b := s.bytes 0x50000 5380
     secReady s 5 d = true ∧ bundleHeaderOk h = true ∧ leAt h 16 8 = 5380 ∧ s.outside 0x50000 5380 = true ∧ (s.cocoon 1).signer = none ∧
     s.policyOk (slice b 1376 256) 1 = true ∧ (bundleEntry s.fuses.serial.toNat b (bundleDevs h)).isSome = true ∧
     s.jobSlot 1 (BitVec.ofNat 16 (leAt b 1508 2)) 0 = some 0 ∧
     (match s.sectsOf 1 5380 b (1680 + 1152 * bundleDevs h) 0 (bundleSecs h) [] with | .ok l => l.length == 1 | .error _ => false) = true) := by
  decide +kernel

def unsealRec : Unsealing := { cocoon := 1, sects := [], fails := none, signer := 0, bundle := 0, job := 0, jobKey := 0, slot := 0 }

theorem test_cocoon_ends :
    (∀ f ∈ [none, some 3], let s : State := { devSec (secD 1 []) [] coc none with sec := { cocoons := [(1, coc)], busy := true, unsealing := some { unsealRec with fails := f } } }
     (∃ u ∈ [{ unsealRec with fails := f }], s.sec.unsealing = some u ∧ u.fails = f) ∧ s.errBusy .chip = false) ∧
    (let d := secD 6 ([0, 0, 0, 0, 0, 0] ++ leBytes 8 0x50000); let s := devSec d [] coc none
     secReady s 6 d = true ∧ s.outside (leAt d 8 8) 6532 = true) ∧
    (let d := secD 7 []; let s := devSec d [] coc (some 1); secReady s 7 d = true ∧ (s.cocoon (leAt d 1 1)).st = 1 ∧ s.boundTo 0 = some 1) ∧
    (∀ k ∈ [1, 2], let s := devSec (secD 7 []) [] { coc with st := 2, step := k } (some 1)
     (s.cocoon 1).st = 2 ∧ (s.cocoon 1).step = k ∧ s.drainCount 1 = 0 ∧ s.errBusy .chip = false) := by decide +kernel

/-- A shard of 4,096 elements: 12 KiB, its master at page 1 and its residue at page 2. -/
def shard (sent : Nat) : Shard where
  region := 0
  index := 0
  tensor := 1
  instar := 1
  buf := false
  master := 0x10000
  resid := 0x20000
  elems := 4096
  offset := 128
  sent := sent
  hash := none

def chry (l : List Shard) : Chry := { busy := true, shards := l }

def someLen {α : Type} (n : Nat) (x : Except State (List α × State)) : Bool := match x with | .ok r => r.1.length == n | .error _ => false

theorem test_chrysalis_shards :
    (∀ sent ∈ [0, 8192], let s : State := { idle with chip := { idle.chip with chry := chry [shard sent] } }
     s.chip.chry.busy = true ∧ s.tagsFree 0 1 = true ∧
     s.chip.chry.shards.find? (fun x => decide (x.region = 0) && decide (x.index = 0) && x.hash.isNone) = some (shard sent) ∧
     someLen 4096 (s.shardBytes 0 (shard sent) sent 4096) = true ∧ (sent = 0 → sent + 4096 < 3 * 4096) ∧ (sent = 8192 → sent + 4096 = 3 * 4096)) ∧
    (let s : State := { idle with chip := { idle.chip with chry := chry [{ shard 12288 with hash := some 0 }] } }
     s.chip.chry.shards.all (fun x => x.hash.isSome) = true ∧ s.chip.chry.manSent < s.chip.chry.manLen ∧ s.chryAnyOpen = false) := by
  decide +kernel

/-- A shard of one element: the last frame's bytes and the whole are in hand. -/
theorem test_chrysalis_last : let x := { shard 0 with elems := 1 }
    let s : State := { idle with chip := { idle.chip with chry := chry [x] } }
    (match s.shardBytes 0 x 0 3 with | .ok (b, t) => b.length == 3 && (b == [0, 0, 0]) && t.mem == s.mem | .error _ => false) = true ∧
    x.sent + min 4096 (3 * x.elems - x.sent) = 3 * x.elems := by decide +kernel

/-- A program of one weight record in region 0. -/
def tensor1 : TensorRec where
  id := 1
  kind := 1
  mode := 0
  instar := 1
  elems := 32
  a := 0x10000
  b := 0x10100
  c := 0x10200
  d := 0x10300
  copies := 0
  mask := 0

def prog (mbs : Nat) (ts : List TensorRec) (streams : List (List TaskDesc)) : Program where
  addr := 0x10000
  mbCount := mbs
  inFlight := 2
  tensors := ts
  mbTable := 0x20000
  report := 0x20000
  keepBase := 0x20000
  keepHbm := 0
  hbmUnits := 0
  repList := 0
  repCount := 0
  streams := streams

/-- A RESTORE descriptor at 0x40000 with its manifest, of no entry, at 0x50000. -/
def devRestore (flags checks : Nat) : State := { idle with
  mem := idle.mem ++ cellsAt 0x40000 ([1, 0, BitVec.ofNat 8 flags, 0] ++ leBytes 4 checks ++ leBytes 8 0x50000 ++ leBytes 8 0x60000) ++
    cellsAt 0x50000 (leBytes 4 0x59524843 ++ leBytes 2 1)
  csr := idle.csr ++ [(0x8154, 0x40000)]
  regions := [(0, { skip := { st := 1, ctx := 0, prog := some (prog 1 [tensor1] []) } })] }

theorem test_restore : ∀ flags ∈ [0, 1], ∀ checks ∈ [0, 1], let s := devRestore flags checks
    let a := s.csrF 0x8154 6 26 * 64 + s.csrF 0x8158 0 16 * two32
    let b := s.bytes a 64
    s.boot.inReset = false ∧ s.chip.chry.cmdBusy = false ∧ s.inDram a 64 = true ∧ leAt b 0 1 = 1 ∧ leAt b 1 1 < 64 ∧ leAt b 2 1 = flags ∧ leAt b 3 1 = 0 ∧
    allZero ((b.drop 24).take 40) = true ∧ s.inDram (leAt b 16 8) (16 * leAt b 4 4) = true ∧ (s.ctx (leAt b 1 1)).st = 1 ∧ s.chip.chry.busy = false ∧
    s.progRegions (leAt b 1 1) = [0] ∧
    (match s.manifestAt (leAt b 8 8) with
     | some m => m.entries.isEmpty && m.magic && m.agrees && (s.firstMismatch m 0 (leAt b 4 4) (s.bytes (leAt b 16 8) (16 * leAt b 4 4)) == if checks = 0 then none else some 0)
     | none => false) = true := by decide +kernel

theorem test_failures :
    (∀ u ∈ [UnitRef.ceu 0, .beu 639, .geu 7, .chip], errUnitOk u = true) ∧
    (let s : State := { idle with cells := [(0, { err := { busy := true } })] }
     (s.errUnit (.ceu 0)).busy = true ∧ (s.errUnit (.ceu 0)).queue = []) ∧
    (let e : Event := { level := 0, hlevel := 0, sev := sevD, esc := false, qfull := false, reclass := false, code := 0, unit := 0, ext := 0, seq := 0, cseq := 0, master := 0, cid := 0, addr := 0 }
     let s : State := { idle with chip := { idle.chip with err := { busy := true, queue := [e] } } }
     (s.errUnit .chip).busy = true ∧ s.chip.errs.halted = false ∧ (s.errUnit .chip).queue = [e] ∧ e.sev ≠ sevC) ∧
    idle.cellUp 0 = true ∧ idle.cellUp 10239 = true ∧ idle.regionUp (blockRegion 639) = true ∧ (idle.block 639).fenced = false ∧
    (∀ r, r < 8 → idle.released r = true) ∧ idle.boot.inReset = false ∧ idle.chip.errs.halted = false ∧
    (dev grp).group g0 = some grp ∧ grp.st ≠ .exiting ∧ grp.st ≠ .frozen := by decide +kernel

/-- The limits as boot leaves them. -/
def devLim : State := { idle with csr := idle.csr ++ [(oPwrCfg, 4400), (oThermCfg, 0x64)] }

theorem test_power :
    (devLim.boot.inReset = false ∧ devLim.boot.phase = 8 ∧
     let lim := min ((devLim.applyB oPwrCfg).csrF oPwrCfg 0 13) devLim.rating
     0 < lim ∧ lim < 20000 ∧ ¬ lim < 0) ∧
    (let lim := 2 * (devLim.applyB oThermCfg).csrF oThermCfg 0 8
     120 ≤ lim ∧ lim ≤ 210 ∧ (hottest (List.replicate 16 60 ++ [lim - 1])).2 < lim ∧
     (hottest (List.replicate 16 60 ++ [lim])).2 = lim ∧ 220 ≤ (hottest (List.replicate 16 60 ++ [220])).2 ∧ (List.replicate 16 60 ++ [lim]).length = 17) ∧
    (({ idle with mon := { lowRun := 9 } } : State).mon.lowRun = 9) ∧
    (let s : State := { idle with mon := { root := 420 } }
     s.mon.pending = false ∧ s.mon.root ≠ s.effectiveRoot) ∧
    (let s : State := { idle with mon := { root := 420, pending := true } }
     s.mon.pending = true ∧ s.blocks.all (fun b => !b.2.win.opened) = true) := by decide +kernel

/-- What a boot phase finds when nothing fails. -/
def bootOk : BootInput := { sharedFail := false, relFail := [], trainFail := [], cellFail := [], hostTimeout := false, flash := none }

theorem test_boot :
    (∀ p ∈ [1, 2, 4, 5, 6, 7], ({ idle with boot := { phase := BitVec.ofNat 4 p } } : State).boot.inReset = false ∧ bootOk.sharedFail = false) ∧
    (let s : State := { idle with boot := { rstN := false, inReset := true } }
     s.boot.rstN = false ∧ s.boot.inReset = true ∧ s.boot.pwrGood = true ∧ s.boot.held = false ∧ s.boot.inputBad = false) ∧
    (let s : State := { idle with boot := { phase := 3, hostBoot := true } }
     let x : State := { s with boot := { phase := 7 }, chip := { idle.chip with released := 0xDD } }
     s.boot.hostBoot = true ∧ s.boot.phase = 3 ∧ ({ x with chip := { x.chip with inService := x.chip.released } } : State).cutOff = [2, 3, 6, 7] ∧
     ({ x with chip := { x.chip with released := 0xFF, inService := 0xFF } } : State).cutOff = []) ∧
    ({ idle with boot := { phase := 2, straps := { bootMode := 1, hostPhy := 2 } } } : State).boot.straps.bootMode = 1 := by decide +kernel

/-- A flash whose slot A holds three images without payload, signed by the key of the erased bytes behind each header. -/
def slotA : List (Nat × List Byte) := [1, 2, 3].map (fun k => (65536 * (k - 1), leBytes 4 0x31574647 ++ [BitVec.ofNat 8 k] ++ List.replicate 59 0))
def slotKey : List Byte := List.replicate 1312 0xFF
def slotFuses : Fuses := { Fuses.default with fwKey := Config.sha3 slotKey }

theorem slot_images : ∀ k ∈ [1, 2, 3], let b := flashBytes slotA (65536 * (k - 1)) 3796
    imageLen k (flashBytes slotA (65536 * (k - 1)) 64) = some 3796 ∧ imageLen k b = some 3796 ∧ slice b 64 1312 = slotKey ∧ b.length = 3796 := by
  decide +kernel

theorem slot_image (h : ∀ k d s, Config.mlDsaVerify k d s = true) (k : Nat) (hk : k ∈ [1, 2, 3]) :
    ∃ d, (readImage slotFuses slotA 0x4000000 k (65536 * (k - 1))).2 = .ok (d, 65536 * (k - 1) + 65536) := by
  obtain ⟨h1, h2, h3, h4⟩ := slot_images k hk
  refine ⟨Config.sha3 ((flashBytes slotA (65536 * (k - 1)) 3796).take (3796 - 2420)), ?_⟩
  have hs : ¬0x4000000 < 65536 * (k - 1) + 3796 ∧ (65536 * (k - 1) + 3796 + 65535) / 65536 * 65536 = 65536 * (k - 1) + 65536 := by
    simp only [List.mem_cons, List.not_mem_nil, or_false] at hk
    omega
  simp [readImage, h1, hs.1, checkImage, h2, h3, h4, slotFuses, h]
  omega

theorem slot_next {f : Fuses} {fl : List (Nat × List Byte)} {stop k a a' : Nat} {ks : List Nat} {d : BitVec 256}
    (h : (readImage f fl stop k a).2 = .ok (d, a')) :
    (∃ l, (readSlot f fl stop ks a').2 = .ok l) → ∃ l, (readSlot f fl stop (k :: ks) a).2 = .ok l := by
  rintro ⟨l, hl⟩
  exact ⟨d :: l, by simp only [readSlot, thenRest, h, hl]⟩

/-- Where the signatures check, the slot is taken whole. -/
theorem test_slot (h : ∀ k d s, Config.mlDsaVerify k d s = true) : ∃ l, (checkSlot slotFuses slotA 0).2 = .ok l :=
  (slot_image h 1 (by decide)).elim fun _ ha => (slot_image h 2 (by decide)).elim fun _ hb => (slot_image h 3 (by decide)).elim fun _ hc =>
    slot_next (a := 0) (a' := 65536) ha (slot_next (a := 65536) (a' := 131072) hb (slot_next (a := 131072) (a' := 196608) hc ⟨[], rfl⟩))

theorem test_host_boot_part : let s : State := { idle with boot := { phase := 3, hostBoot := true } }
    let d : List Byte := [1, 0, 0, 0, 64] ++ List.replicate 67 0
    let i : IpUdp := { dst := linkLocal s.fuses.hostMac, dport := 0x4742 }
    romTakes s.fuses i d = true ∧ leAt d 0 1 = s.boot.images + 1 ∧ firstBytes (putBytes s.boot.image (leAt d 4 4) (d.drop 8)) 64 = none := by decide +kernel

theorem test_sideband :
    idle.boot.inReset = false ∧ idle.side.i3cDyn = none ∧
    (∀ n ∈ [1, 16], inCsr (csrBase + 0x2000) n = true) ∧ (∀ n ∈ [1, 64], idle.debugRange 0x40000 (4 * n) = true) ∧ idle.ecc = [] ∧
    idle.touchesCocoon 0x40000 4 = false ∧ (devSec (secD 1 []) [] coc none).touchesCocoon (7 * hbmSize) 4 = true ∧
    (devSec (secD 1 []) [] coc none).debugRange (7 * hbmSize) 4 = true ∧
    (List.range 1024).all (fun q => !idle.qEnabled q) = true ∧
    (let s : State := { idle with side := { tapReset := false } }
     s.side.tapReset = false) ∧ idle.side.tapReset = true ∧
    (∀ c ∈ [1, 2], let dr : BitVec 96 := BitVec.ofNat 96 (c + (csrBase + 0x2000) * 256)
     fld dr 0 8 = c ∧ fld dr 8 48 % 4 = 0 ∧ inCsr (fld dr 8 48) 1 = true) := by decide +kernel

/-! ### Links, frames, the home and the source -/

/-- The idle device with links 0 and 1 up, port 0 enabled and a window (job 0, window 3) of one page over page 1. -/
def devL (l0 : Link) (rs : SMap Region) : State := { idle with
  csr := [(oPtLo 0, 0x1000), (oPtHi 0, 0x01000000), (oPort 0, 1), (oJwin 0 0, 0x1F01), (oJwin 0 4, 0x103), (oJwin 0 8, 0x10000)]
  regions := rs
  silk := { links := [(0, l0), (1, { up := true, credits := [(1, 512), (3, 512), (5, 512)] })] } }

def link0 : Link := { up := true }

def isOk {α : Type} (x : Except State α) (p : α → Bool) : Bool := match x with | .ok a => p a | .error _ => false

/-- A request from node 5 at an offset of window 3. -/
def ask (op : BitVec 6) (off len : Nat) (data : List Byte) (aop : BitVec 4 := 0) (status : BitVec 8 := 0) : Frame :=
  mkFrame { reqHdr op 0 5 9 0 3 (BitVec.ofNat 40 off) len 8 with aop := aop, status := status } data

theorem test_link_control :
    linkOk 0 = true ∧ linkOk 63 = true ∧ (devL {} []).portOn 0 = true ∧ (devL {} []).envBad 0 true {} = none ∧ ctlHdrBad ctlLink = false ∧
    (devL {} []).envBad 0 true { dstMac := broadcastMac } = none ∧
    (let f := ask opLoad 0 64 []
     let h : CtlHdr := { link := { ctlLink with ackv := true, ackseq := 0, crv := true, crlane := 1, credits := 9 } }
     let s := devL { up := true, replay := [f, f], txNext := 2 } []
     ctlTaken s 0 h = true ∧ replayHas (headerTaken (s.link 0) h.link) 1 = true ∧ (replayFrom (headerTaken (s.link 0) h.link) 1).length = 1 ∧
     (headerTaken (s.link 0) h.link).credits = [(1, 9)] ∧ (s.link 0).replay ≠ [] ∧ (s.link 0).txq = [] ∧ (s.link 0).retrySent = false) ∧
    (let f := ask opLoad 0 64 []
     let h : CtlHdr := { link := { ctlLink with crv := true, crlane := 1, credits := 9 } }
     let s := devL { up := true, txq := [(selfLink, f)] } []
     ctlTaken s 0 h = true ∧ s.silk.slices = [] ∧ f.link.lane ≠ 7 ∧ (s.link 0).txq = [(selfLink, f)] ∧
     s.mayTransmit 0 f = false ∧ (s.setLink 0 (headerTaken (s.link 0) h.link)).mayTransmit 0 f = true) ∧
    (let s := devL { lost := true } []; (s.link 0).lost = true) ∧
    (let s : State := { idle with chip := { idle.chip with errs := { locked := true } } }; s.chip.errs.locked = true) ∧ bit (0x7F : BitVec 8) 7 = false := by decide +kernel

/-- A frame for node 7, whose route's one hop is port 1. -/
theorem test_frames_pass :
    (let f := mkFrame (reqHdr opLoad 7 5 9 0 3 0 64 8) []
     let s : State := { devL link0 [] with csr := [(oPtLo 0, 0x1000), (oPtHi 0, 0x01000000), (oSilk 0x10, 0), (oPort 0, 1), (oRoute 7, 0x101)] }
     f.tx.dst ≠ s.node ∧ 1 < f.tx.ttl.toNat ∧
     isOk (s.receive 0 f) (fun u => !u.chip.errs.locked && (u.csrF (oSilk 0x10) 16 1 == 0) &&
       (match (u.route (linkSlice 0) { f with tx := { f.tx with ttl := f.tx.ttl - 1 } }).1 with | .out l _ => l == 1 | _ => false)) = true) ∧
    (let f := ask opLoad 0 64 []
     let r : Combine := { frame := { f with tx := { f.tx with tag := 8 } }, isLoad := true, closed := false, sent := true, joined := [] }
     let g := { f with tx := { f.tx with op := opResp, rsp := true } }
     let s : State := { idle with silk := { slices := [(0, { recs := [r], waiting := [(1, f), (1, g)] })] } }
     (s.slice 0).recs[0]? = some r ∧ r.isLoad = true ∧ (s.slice 0).waiting[0]? = some (1, f) ∧ isRequest f = true ∧
     r.frame.tx.tag ≠ f.tx.tag ∧ (s.slice 0).waiting[1]? = some (1, g) ∧ isRequest g = false) := by decide +kernel

theorem test_ports :
    (idle.boot.inReset = false ∧ idle.csrF (oPort 23) 0 1 = 0 ∧ idle.regionUp (23 / 3) = true ∧ fld (1 : Word) 0 1 = 1 ∧ fld (1 : Word) 16 2 = 0) ∧
    ((devL link0 []).csrF (oPort 0) 0 1 = 1 ∧ fld (0 : Word) 1 3 = fld ((devL link0 []).csrAt (oPort 0)) 1 3) ∧
    (∀ p ∈ [0, 24], ((devL link0 []).link p).quar = false ∧ bit ((devL link0 []).csrRead (oPort p)) 17 = false) ∧
    (let s := devL link0 []
     s.csrF (oJwin 255 0) 0 1 = 0 ∧ s.jwinInUse 255 = false ∧ s.csrPend = [] ∧
     (List.range 256).all (fun i => decide (i = 255) || decide (s.csrF (oJwin i 0) 0 1 ≠ 1) ||
       !(decide (s.csrF (oJwin i 0) 16 16 = fld (1 : Word) 16 16) && decide (s.csrF (oJwin i 4) 0 8 = s.csrF (oJwin 255 4) 0 8))) = true) ∧
    (let s : State := { devL link0 [] with csr := (devL link0 []).csr ++ [(oJwin 1 4, 3)] }
     s.csrF (oJwin 1 0) 0 1 = 0 ∧ s.csrF (oJwin 0 0) 0 1 = 1 ∧ s.csrF (oJwin 0 0) 16 16 = fld (1 : Word) 16 16 ∧ s.csrF (oJwin 0 4) 0 8 = s.csrF (oJwin 1 4) 0 8) := by
  decide +kernel

/-- A frame received and checked at the home: what it hits. -/
def served (s : State) (f : Frame) (p : Hit → State → Bool) : Bool :=
  linkOk 0 && !f.tx.rsp && decide (f.tx.dst = s.node) && !reqBad f &&
  isOk (s.receive 0 f) (fun z => match (z.returnCredit 0 f).homeCheck f with | (.ok x, u) => p x u | (.error _, _) => false)

/-- Node 6 shares the 4 KiB region of page 1. -/
def sharing : SMap Region := [(0, { sharers := [(16, { nodes := [6] })] })]

def noDoorbells (u : State) : Bool := (List.range 1024).all (fun q => !u.qEnabled q)

theorem test_remote_reads :
    served (devL link0 []) (ask opLoad 0x40 64 []) (fun x u => u.ecc.isEmpty && (x.ps == [(0x10040, 64)])) = true ∧
    served (devL link0 []) (ask opGet 0x40 4096 []) (fun x u => u.ecc.isEmpty && (x.ps == [(0x10040, 4096)])) = true ∧
    served (devL link0 []) (ask opInv 0 1 []) (fun x u => (kiRegions 0 x.ps).all (fun k => (u.sharers k.1).nodes.isEmpty && (u.sharers k.1).pending.isEmpty)) = true ∧
    served (devL link0 sharing) (ask opInv 0 1 []) (fun x u => (kiRegions 0 x.ps == [(16, 0)]) && !(u.sharers 16).nodes.isEmpty && (u.sharers 16).pending.isEmpty) = true := by
  decide +kernel

theorem test_remote_refusals :
    (let f := mkFrame (reqHdr opLoad 0 5 9 0 4 0 64 8) []
     isOk ((devL link0 []).receive 0 f) (fun z => ((z.returnCredit 0 f).findWin f.tx.job f.tx.window).isNone) = true ∧ reqBad f = false) ∧
    (∀ o ∈ [0xFFC0, 0x10000], let f := ask opLoad o 64 []
     isOk ((devL link0 []).receive 0 f) (fun z => (z.returnCredit 0 f).findWin f.tx.job f.tx.window == some 0) = true ∧ reqBad f = false ∧
     (devL link0 []).csrF (oJwin 0 4) 8 24 = 1 ∧ (o = 0x10000 ↔ 65536 < o + f.tx.len.toNat + 1)) ∧
    (let s : State := { devL link0 [] with csr := [(oPtLo 0, 0x1000), (oPtHi 0, 0x01000000), (oJwin 0 0, 1), (oJwin 0 4, 0x103), (oJwin 0 8, 0x10000)] }
     s.csrF (oJwin 0 0) 8 1 = 0 ∧ s.csrF (oJwin 0 4) 8 24 = 1) := by decide +kernel

theorem test_remote_writes :
    (∀ rs ∈ [[], sharing],
     served (devL link0 rs) (ask opStore 0x40 4 [1, 2, 3, 4]) (fun x u => u.ecc.isEmpty && (x.ps == [(0x10040, x.data.length)]) && noDoorbells u) = true ∧
     served (devL link0 rs) (ask opPut 0 32 (List.replicate 32 1)) (fun x u => u.ecc.isEmpty && (x.ps == [(0x10000, x.data.length)]) && noDoorbells u &&
       decide ((u.region x.r).done.length < 16384)) = true) ∧
    served (devL link0 []) (ask opAtomic 8 4 [1, 0, 0, 0]) (fun x u => u.ecc.isEmpty && (x.ps == [(0x10008, 4)]) && noDoorbells u &&
      decide ((u.region x.r).done.length < 16384)) = true ∧
    (aopOf 0).map (·.bytes) = some 4 ∧
    (∀ i ∈ [0, 1], let f := if i = 0 then ask opPut 0 32 (List.replicate 32 1) 0 0x40 else ask opAtomic 8 4 [1, 0, 0, 0] 0 0x40
     let a := mkFrame (reqHdr opResp 5 0 9 0 3 0 1 8) []
     served (devL link0 [(0, { done := [{ src := 5, tag := 9, resp := a }] })]) f (fun x u => bit f.tx.status 6 && (u.doneOf x.r f == some a) && !u.isHeld a) = true) := by
  decide +kernel

/-- A PUT that finds the completion cache of its region full. -/
theorem test_full_cache : let d : Done := { src := 4, tag := 1, resp := ask opLoad 0 64 [] }
    (served (devL link0 []) (ask opPut 0 32 (List.replicate 32 1)) (fun x _ => x.r == 0) = true) ∧
    ∀ n, n ≤ ({ done := List.replicate n d } : Region).done.length :=
  ⟨by decide +kernel, fun _ => Nat.le_of_eq List.length_replicate.symm⟩

/-- Handler 0 of context 0: its table at page 2, its launch template at page 3. -/
def devH : State := { devL link0 [] with
  mem := idle.mem ++ [(0x20002, 3), (0x20008, 1)] ++ cellsAt 0x30000 ((launchCmd 2 16 0).bytes)
  host := { idle.host with ht := [(0, 0x20000)] } }

theorem test_remote_triggers :
    served devH (ask opRtrig 0 64 (List.replicate 64 1)) (fun x u => u.ecc.isEmpty && decide ((u.region x.r).done.length < 16384) && ((u.trigger x (ask opRtrig 0 64 (List.replicate 64 1))).1 == 0)) = true ∧
    served devH (ask opRtrig 1 64 (List.replicate 64 1)) (fun x u => u.ecc.isEmpty && ((u.trigger x (ask opRtrig 1 64 (List.replicate 64 1))).1 == nakNohandler)) = true := by
  decide +kernel

/-- A gather, of context 1, of two members, 64 bytes each, in progress on channel 0 of region 0. -/
def gather : Xfer := { Xfer.blank 2 1 0 with fmt := 0xFF, rank := 0, members := [(0, 3), (5, 3)], len := 64, src := 0x20000, dst := 0x30000, started := true, queue := [ask opColl 0 64 (List.replicate 64 1)] }

def coll (e : BitVec 16) (off : Nat) : Frame := mkFrame { reqHdr opColl 0 5 9 0 3 (BitVec.ofNat 40 off) 64 8 with epoch := e } (List.replicate 64 1)

theorem test_collective_data :
    (let g := coll 0 64
     let f := { g with tx := { g.tx with status := 0x40 } }
     served (devL link0 [(0, { seen := [seenKey f.tx] })]) f (fun x u => u.wasSeen x.r f.tx) = true) ∧
    (let f := coll 0 64
     served (devL link0 []) f (fun x u => !u.wasSeen x.r f.tx && decide ((u.region x.r).molt = 0) && (rangeOf (u.region x.r).came f.tx).isNone &&
       decide (f.tx.epoch = (u.region x.r).epoch) && (u.collReady x.r 0 { f with payload := x.data, trailer := [] }).isNone) = true) ∧
    (let f := coll 0 64
     served { devL link0 [(0, { ce := [(0, { busy := true, xfer := some gather })] })] with csr := (oPtLo 0, 0x1000) :: (oPtHi 0, 0x01000000) :: (oPtLo 1, 0x1000) :: (oPtHi 1, 0x01000000) :: (devL link0 []).csr.drop 2 } f (fun x u =>
       (rangeOf (u.leaving x.r) f.tx).isNone && !u.wasSeen x.r f.tx && u.ecc.isEmpty &&
       ((u.collReady x.r 0 { f with payload := x.data, trailer := [] }) == some gather) && oneAt 0x10040 64 (u.range 1 x.va x.data.length .store).1) = true ∧
     gather.roff.toNat ≤ f.tx.offset.toNat ∧ gather.chunk ≠ 0) ∧
    (let f := coll 5 64
     served (devL link0 []) f (fun x u => decide (f.tx.epoch ≠ (u.region x.r).epoch) && decide (f.tx.epoch + 1 ≠ (u.region x.r).epoch) && decide (f.tx.epoch ≠ (u.region x.r).epoch + 1)) = true) ∧
    (let f := { coll 0 64 with tx := { (coll 0 64).tx with op := opPermute } }
     served (devL link0 []) f (fun x u => !u.wasSeen x.r f.tx && u.ecc.isEmpty && (x.ps == [(0x10040, 64)]) && (List.range 8).all (fun r => decide ((u.region r).molt = 0))) = true) := by
  decide +kernel

/-- An answer from node 5. -/
def reply (op : BitVec 6) (status : BitVec 8) (data : List Byte) : Frame :=
  mkFrame { reqHdr op 0 5 9 0 3 0 (max 1 data.length) 8 with rsp := true, status := status } data

def devReq (w : Waiter) (v : Group) : State := { dev v with
  csr := idle.csr
  silk := { links := [(0, link0)], reqs := [(9, { frame := ask opLoad 0 64 [], ctx := 0, waiter := w, resends := 0 })] } }

theorem test_frames_at_source :
    (∀ st ∈ [(0 : BitVec 8), nakPerm], let f := reply opResp st [1, 2, 3, 4]
     let s := devReq (.load g0 1 0x10000 [(64, 0)] false) grp
     isOk (s.receive 0 f) (fun _ => true) = true ∧ f.tx.rsp = true ∧ f.tx.dst = s.node ∧ s.silk.slices = [] ∧ (find s.silk.reqs f.tx.tag.toNat).isSome = true ∧
     f.tx.enc = false ∧ s.boundTo 0 = none ∧ s.group g0 = some grp ∧ grp.gid = 1 ∧ grp.exited = false ∧ grp.st ≠ .frozen ∧ f.tx.status = st ∧ st ≠ nakBusy) ∧
    (let f := reply opInval 0 []; isOk ((devL link0 sharing).receive 0 f) (fun _ => true) = true ∧ f.tx.dst = (devL link0 sharing).node) ∧
    (let h := reqHdr opInval 5 0 9 0 3 0 1 8
     let f := reply opInvalAck 0 []
     let a := mkFrame (reqHdr opResp 7 0 9 0 3 0 1 8) []
     ∀ m ∈ [1, 2], let s := devL link0 [(0, { sharers := [(16, { pending := List.replicate m (5, h), held := [a] })] })]
     isOk (s.receive 0 f) (fun z => let y := z.returnCredit 0 f
       (y.ackKey f == some 16) && ((removeFirst (ackOf f) (y.sharers 16).pending).isEmpty == decide (m = 1)) &&
       !(y.setSharers 16 { y.sharers 16 with pending := [], held := [] }).isHeld a) = true) ∧
    (let f := mkFrame (reqHdr opEpochDone 0 5 9 0 0 0 2 8) [0, 0]
     isOk ((devL link0 []).receive 0 f) (fun _ => true) = true ∧
     (List.range 8).all (fun r => decide (((devL link0 []).region r).molt = 0) && decide (((devL link0 []).region r).epoch = BitVec.ofNat 16 (leAt f.payload 0 2))) = true) := by
  decide +kernel

theorem test_timeouts :
    (let s : State := { devReq .notify grp with csr := idle.csr ++ [(oSilk 0x14, 0x100)] }
     0 < s.csrF (oSilk 0x14) 8 2 ∧ (find s.silk.reqs (9 : BitVec 16).toNat).isSome = true ∧ s.boundTo 0 = none ∧ s.chip.chry.busy = false ∧ s.silk.outbox = []) ∧
    (let s : State := { devReq (.group g0 1 0x10000) grp with csr := idle.csr, silk := { reqs := [(9, { frame := ask opStore 0 4 [], ctx := 0, waiter := .group g0 1 0x10000, resends := 3 })] } }
     s.csrF (oSilk 0x14) 8 2 ≤ 3 ∧ s.group g0 = some grp) ∧
    ((devL link0 []).link 0).up = true ∧
    (let f := ask opLoad 0 64 []
     (devL link0 []).envBad 0 false f.env = none ∧ linkHdrBad { f.link with ver := 0 } = true ∧ linkHdrBad f.link = false ∧ frameTooLong f = false ∧ frameTooLong { f with payload := List.replicate 4097 0 } = true ∧
     f.link.lseq = ((devL { up := true, owed := [(f.link.lane.toNat, 1024)] } []).link 0).rxNext ∧
     laneBuffer f.link.lane.toNat < lookupD 0 ((devL { up := true, owed := [(f.link.lane.toNat, 1024)] } []).link 0).owed f.link.lane.toNat + frameCredits f ∧
     (let b := { f with tx := { f.tx with op := 0x3F } }; isOk ((devL link0 []).receive 0 b) (fun _ => true) = true ∧ txBad b = true) ∧
     (let r := reply opResp 0 []; isOk ((devL link0 []).receive 0 r) (fun _ => true) = true ∧ (devL link0 []).stray r = true)) := by decide +kernel

/-- A transfer on channel 1 of region 0, sending from page 2 to window 3 of node 5. -/
def devX (x : Xfer) : State := { devL link0 [(0, { ce := [(1, { busy := true, xfer := some x })] })] with
  csr := [(oPtLo 0, 0x1000), (oPtHi 0, 0x01000000), (oJwin 0 0, 0x1F01), (oJwin 0 4, 0x103), (oJwin 0 8, 0x10000), (oCe 0 1, 1)] }

def xf (op len : Nat) (started : Bool) : Xfer := { Xfer.blank op 0 0 with fmt := 0xFF, rank := 0, members := [(5, 3)], len := len, src := 0x20000, dst := 0x30000, started := started }

/-- The bytes that a context reads at an address, where it can. -/
def readsAt (s : State) (n va len : Nat) : Bool := s.ecc.isEmpty && (match (s.range n va len .load).1 with | .ok _ => true | .error _ => false)

theorem test_channel_frames :
    (∀ op ∈ [xfPut, xfGet], ∀ len ∈ [64, 8192], let x := xf op len true; let s := devX x
     (s.ceChan 0 1).xfer = some x ∧ (s.ceChan 0 1).frozen = false ∧ s.ceMay 0 x = true ∧ s.boundTo x.ctx = none ∧ x.sent < x.len ∧
     readsAt s 0 0x20000 (min 4096 len) = true) ∧
    (let x := { xf 2 64 true with queue := [ask opColl 0 64 []] }; (devX x).ceMay 0 x = true ∧ x.op ≠ xfPut ∧ x.op ≠ xfGet) := by decide +kernel

theorem test_collectives :
    (∀ op ∈ [1, 3], let x := { xf op 64 false with fmt := 2, members := [(0, 3), (5, 3)] }; let s := devX x
     (s.ceChan 0 1).xfer = some x ∧ (s.ceChan 0 1).held = [] ∧ x.chunk = 128 ∧ readsAt (begun s 0 1) 0 (0x20000 + 128) 128 = true ∧ s.host.ctxBusy ≠ some (0, 7)) ∧
    (∀ op ∈ [2, 4], let x := { xf op 64 false with members := [(0, 3), (5, 3)] }; let s := devX x
     x.members.length = 2 ∧ x.rank = 0 ∧ (match (begun s 0 1).range 0 0x20000 64 .load with
      | (.ok ps, t) => (t.pieces ps).length == 64 && isOk (t.ceWrite 0 1 0 0x30000 (t.pieces ps)) (fun _ => true)
      | _ => false) = true ∧ readsAt s 0 (0x20000 + (if op = 4 then 64 else 0)) 64 = true) ∧
    (∀ fmt ∈ [0xFF, 2], ∀ sent ∈ [0, 1], let x := { xf 5 64 true with fmt := fmt, members := [(0, 3), (5, 3), (6, 3)], hopSent := sent, hops := sent, consVa := 0x10000 }
     let s := devX x
     x.hopSent ≤ x.hops ∧ x.hopSent + 1 < x.members.length ∧ readsAt s 0 0x10000 8 = true ∧ readsAt s 0 (0x30000 + 1 % 2 * x.chunk) x.chunk = true ∧
     readsAt s 0 0x20000 x.chunk = true) := by decide +kernel

/-- A consumed word of 1 lets a ring's second hop go. -/
theorem test_ring_word : let s : State := { idle with mem := idle.mem ++ [(0x10000, 1)] }
    (match s.range 0 0x10000 8 .load with | (.ok ps, t) => leNat (t.pieces ps) == 1 | _ => false) = true := by decide +kernel

/-- A permute whose map ends page 3, with its one entry, a range that comes here from node 5, on page 4. -/
def xperm : Xfer := { xf 6 64 false with members := [(0, 3), (5, 3)], map := 0x3FFF8 }
def devPerm : State := { devX xperm with mem := idle.mem ++ [(0x3FFF8, 1), (0x40000, 5), (0x40004, 3), (0x40010, 64)] }

theorem test_permute_starts :
    (devPerm.region 0).molt = 0 ∧ (List.range 16).all (fun k => k == 1 || (devPerm.ceChan 0 k).xfer.isNone && (devPerm.ceChan 0 k).held.isEmpty) = true ∧
    (begun devPerm 0 1).ecc = [] ∧ (devPerm.region 0).fwd.length ≤ 256 ∧
    (devPerm.ceChan 0 1).xfer = some xperm ∧ (devPerm.ceChan 0 1).held = [] ∧ devPerm.findWin 0 3 = some 0 ∧
    isOk ((begun devPerm 0 1).readMap 0 1 xperm) (fun p => decide (p.1.length = 1) && p.1.all (fun e => decide (e.from' ≠ devPerm.node)) &&
      !devPerm.allDue { xperm with due := (p.1.filter (fun e => decide (e.dest = devPerm.node))).map (fun e => (e.win, e.noff, e.len)) }) = true := by
  decide +kernel

/-- A COLLECTIVE command with its descriptor at page 2 and its member list at page 3. -/
def collCmd : Cmd := cmd0 (qcmd 5 (leBytes 8 0x20000))
def desc (op : Nat) : List Byte := padTo 128 ([BitVec.ofNat 8 op, 0xFF, 1, 0, 2, 0, 0, 0] ++ leBytes 8 0x30000)
def devColl (op : Nat) : State := { devQ collCmd with
  mem := idle.mem ++ cellsAt 0x20000 (desc op)
  csr := [(oPtLo 0, 0x1000), (oPtHi 0, 0x01000000), (oQ 0 0, 1), (oQ 0 4, 0x10000), (oCe 0 1, 1)] }

theorem test_collective_command : ∀ op ∈ [2, 4, 5, 6], let s := devColl op
    let c := leAt (desc op) 2 1 % 16
    cmdWaits s 0 0 5 collCmd = true ∧ (s.ctx 0).st = 1 ∧ s.regionUp (leAt collCmd.bytes 24 1) = true ∧ s.sideOk 0 (leAt collCmd.bytes 24 1) = true ∧ s.boundTo 0 = none ∧
    isVa 0x20000 ((s.begin 0 0).resolve 0 (.queue 0) (BitVec.ofNat 64 (leAt collCmd.bytes 16 8)) 128).1 = true ∧ (desc op).length = 128 ∧
    (match (s.begin 0 0).range 0 0x20000 128 .load with
     | (.ok ps, u) => (u.pieces ps == desc op) && u.holdOk 0 (desc op) && readsAt u 0 (leAt (desc op) 8 8) 16
     | _ => false) = true ∧ s.ceBound 0 c 0 = true ∧ (s.ceChan 0 c).busy = false ∧ (s.ceChan 0 c).frozen = false ∧ descOk (desc op) = true := by decide +kernel

/-- A management endpoint: node 5. -/
def devM : State := { devL link0 [] with csr := (oPtLo 0, 0x1000) :: (oPtHi 0, 0x01000000) :: (oHost 0, 0x10000) :: (oEp 0, 0x50003) :: [(oPort 0, 1)] }

def mgmt (mop n : Nat) (a : Nat) (data : List Byte) : Frame :=
  let b := leBytes 1 mop ++ leBytes 1 0 ++ leBytes 2 n ++ leBytes 4 0 ++ leBytes 8 a ++ data
  mkFrame (reqHdr opMgmt 0 5 9 0 0 0 b.length 8) b

def taken (s : State) (f : Frame) (p : State → Bool) : Bool :=
  decide (f.tx.dst = s.node) && !reqBad f && isOk (s.receive 0 f) (fun z => p (z.returnCredit 0 f))

theorem test_management :
    (∀ mop ∈ [1, 2, 3, 4, 5], taken (devL link0 []) (mgmt mop 0 0 []) (fun y => !y.mgmtFrom 0 5) = true ∧
      (mop ≠ 5 → mgmtOk (mgmt mop 0 0 []).payload = false)) ∧
    (∀ n ∈ [1, 64], taken devM (mgmt 1 n (csrBase + 0x2000) []) (fun y => y.mgmtFrom 0 5) = true ∧ mgmtOk (mgmt 1 n (csrBase + 0x2000) []).payload = true ∧
      inCsr (csrBase + 0x2000) n = true ∧ inCsr (csrBase + 0xFFFFFFFC) 1 = true ∧ inCsr (csrBase + 0x100000000) 1 = false) ∧
    mgmtOk (mgmt 2 1 (csrBase + 0x2000) [1, 0, 0, 0]).payload = true ∧ mgmtOk (mgmt 3 4080 0x10000 []).payload = true ∧ devM.debugRange 0x10000 4080 = true ∧
    mgmtOk (mgmt 4 4 0x10000 [1, 0, 0, 0]).payload = true ∧ devM.touchesCocoon 0x10000 4 = false ∧ noDoorbells devM = true ∧
    mgmtOk (mgmt 5 0 24 []).payload = true ∧ mgmtOk (mgmt 5 0 25 []).payload = false := by decide +kernel

/-! ### The step machinery -/

/-- The idle device whose context 0 has its pages 1 to 14 on the HBM3E pages of their number, with a Skipper at work in region 0. -/
def devS (k : Skipper) (more : List Host.Cell) (rest : List (Nat × Word)) (ins : SMap Instar := []) : State := { idle with
  mem := [(0x1000, 1), (0x1001, 0x10)] ++ (List.range 14).flatMap (fun i => [(0x1008 + 8 * i, 0x1F), (0x100A + 8 * i, BitVec.ofNat 8 (i + 1))]) ++ more
  csr := [(oPtLo 0, 0x1000), (oPtHi 0, 0x01000000)] ++ rest
  regions := [(0, { skip := k, instars := ins })] }

/-- A task of a kind in the prologue. -/
def tk (kind : Nat) : TaskDesc where
  kind := kind
  rung := 0
  overlap := false
  final := false
  sect := 0
  layer := 0
  mbsel := 0xFFFF
  keepb := 0xFFFF
  dep0 := 0
  dep1 := 0
  watch := [0, 0, 0, 0]
  launch := 0x30000
  nlaunch := 0
  xfmt := 0xB
  wfmt := 0xB
  ofmt := 3
  tensor := 1023
  accum := 1023
  bind := 0x40000
  arg := 0x20000

/-- A step of one stream with one task. -/
def skipOf (q : Nat) (d : TaskDesc) (ts : List TensorRec) : Skipper :=
  { st := 2, ctx := 0, prog := some (prog 1 ts ((List.range 4).map (fun i => if i = q then [d] else []))) }

def accum1 : TensorRec := { tensor1 with kind := 2, a := 0x50000, b := 0x60000, c := 0x70000, d := 0x80000 }

/-- What `taskReady` asks, for the one task of a step. -/
def readyTask (s : State) (q : Nat) (d : TaskDesc) : Bool :=
  (match s.nextRun 0 q with | some (p, e, k, m) => decide (e = d) && (k == 0) && (m == 0) && (s.waitCode 0 p (q, 0, 0) d == 0) && (s.startRung 0 p d 0 == d.rung) | none => false) &&
  s.mayRun 0 q && (s.runOf (0, q, 0, 0)).isNone && decide (q < (s.region 0).skip.streams.length)

theorem test_layer_tasks :
    (∀ k ∈ [1, 2, 3], readyTask (devS (skipOf 0 (tk k) []) [] []) 0 (tk k) = true) ∧
    readyTask (devS (skipOf 2 (tk 4) []) [] []) 2 (tk 4) = true ∧
    (∀ k ∈ [1, 2], let d := { tk k with nlaunch := 1 }
     let s := devS (skipOf 0 d []) (cellsAt 0x30000 ((launchCmd 2 16 0).bytes)) []
     readyTask s 0 d = true ∧
     (match s.program 0 with
      | some p => isOk ((launchState s 0 k 0 0 d).skipWrite 0 0 0x40000 ((launchState s 0 k 0 0 d).bindRecord 0 p d 0 0)) (fun u =>
        match u.range 0 0x30000 128 .load with
        | (.ok ps, v) => let rec' := (v.pieces ps).take 112 ++ leBytes 4 0 ++ leBytes 4 0 ++ leBytes 8 0x40000
          isVa 0x10000 (v.resolve 0 (.stream 0 0) (BitVec.ofNat 64 (leAt rec' 16 8)) 8).1 && declOk rec' && (blockRegion (launchBlock rec') == 0) && v.blockUp 0 &&
          !v.neverFits 0 (launchSet rec' v.nextId 0 (v.cid 0) (.skipper 0 0 0 0) 0x10000 0)
        | _ => false)
      | none => false) = true) := by decide +kernel

theorem test_copies :
    (let d := { tk 3 with accum := 0 }
     let s := devS (skipOf 0 d [accum1]) [] []
     readyTask s 0 d = true ∧ (s.program 0).any (fun p => (p.accumulator 0 == some accum1) && !p.fromLast 0 0 0) = true ∧
     isOk ((s.addRun 0 0 0 0 0).skipCopy (0, 0, 0, 0) 0x60000 0x50000 64) (fun u => isOk (u.skipCopy (0, 0, 0, 0) 0x80000 0x70000 32) (fun _ => true)) = true) ∧
    (let w := { tensor1 with a := 0x50000, copies := 0x60000 }
     let d := { tk 4 with tensor := 0 }
     let s := devS (skipOf 2 d [w]) [] [] [(0, { tensor := 1, current := 1, valid := true })]
     readyTask s 2 d = true ∧ d.wfmt ≠ 2 ∧ (s.program 0).any (fun p => p.weight 0 == some w) = true ∧
     (match (s.addRun 0 2 0 0 0).range 0 (copyAddr w false 2) 64 .load with
      | (.ok ps, u) => ((u.pieces ps).length == 64) && isOk (u.skipWrite 0 2 (copyAddr w false d.wfmt) (narrow d.wfmt (bf16Vals (u.pieces ps)))) (fun _ => true)
      | _ => false) = true) := by decide +kernel

theorem test_exchange_tasks :
    (∀ k ∈ [6, 7], let d := tk k
     let b := desc (if k = 6 then 2 else 5)
     let s := devS (skipOf 1 d []) (cellsAt 0x20000 b) [(oCe 0 1, 1)]
     readyTask s 1 d = true ∧ s.collRoom (0, 1, 0, 0) d = true ∧ b.length = 128 ∧ descOk b = true ∧ s.ceBound 0 1 0 = true ∧ (s.ceChan 0 1).frozen = false ∧
     (match (s.addRun 0 1 0 0 0).range 0 0x20000 128 .load with
      | (.ok ps, u) => (u.pieces ps == b) && u.holdOk 0 b && readsAt u 0 0x30000 16
      | _ => false) = true) ∧
    (let d := { tk 8 with accum := 0 }
     let s := devS (skipOf 3 d [accum1]) [] [(oCe 0 1, 1)]
     readyTask s 3 d = true ∧ s.idleChannel 0 0 = some 1 ∧
     (match (s.addRun 0 3 0 0 0).range 0 0x60000 64 .load with | (.ok ps, u) => ((u.pieces ps).length == 64) && readsAt u 0 0x80000 32 | _ => false) = true) ∧
    (∀ back ∈ [false, true], let d := { tk 5 with tensor := 0 }
     let s := devS (skipOf 2 d [tensor1]) [] [] [(0, { tensor := 1, current := 1, valid := true, prevValid := back, prevRefs := if back then 1 else 0 })]
     readyTask s 2 d = true ∧ s.bufferFree 0 0 = !back) := by decide +kernel

/-- A FOLD that waits, its header at the end of page 1, its payload and ready word on page 2, its pairs on pages 3 to 6. -/
def wfold : TensorRec := { tensor1 with a := 0x30000, b := 0x50000, c := 0x40000, d := 0x60000 }
def devFold (cur : BitVec 16) (timeout : Nat) : State :=
  devS { skipOf 2 { tk 5 with tensor := 0, arg := 0x1FFE0 } [wfold] with runs := [{ q := 2, t := 0, m := 0, rung := 0, waiting := true }] }
    (cellsAt 0x1FFE0 (leBytes 4 1 ++ leBytes 4 7 ++ leBytes 2 0 ++ [2, 0] ++ leBytes 2 1 ++ leBytes 2 0 ++ leBytes 8 0 ++ leBytes 4 32) ++ cellsAt 0x20028 (leBytes 8 0x80000007))
    [(oReg 0 0x11000, BitVec.ofNat 32 (timeout * 2 ^ 16))] [(0, { tensor := 1, current := cur, valid := true })]

theorem test_folds_apply : ∀ cur ∈ [1, 2], let s := devFold (BitVec.ofNat 16 cur) 0
    s.mayRun 0 2 = true ∧ (s.program 0).any (fun p => (p.weight 0 == some wfold) &&
      (match s.nextFoldTask 0 (s.waitingFolds 0 p) [] with | some (y, _) => decide (s.runOf (0, y.q, y.t, y.m) = some y) | none => false)) = true ∧
    (match s.range 0 0x1FFE0 32 .load with
     | (.ok ps, u1) => let h := u1.pieces ps
       (leAt h 10 1 == 2) && (leAt h 0 4 == 1) && ((leAt h 12 2 == cur) == decide (cur = 1)) && (payloadLen h == 33) &&
       (match u1.range 0 0x20000 33 .load with
        | (.ok qs, u2) => (match u2.range 0 0x30000 64 .load with
          | (.ok rs, u3) => (match u3.range 0 0x40000 32 .load with
            | (.ok ts, u4) => let z := foldPairs false 0 (u3.pieces rs) (u4.pieces ts) (sentElems wfold [] h (u2.pieces qs))
              isOk (u4.skipMask (0, 2, 0, 0) wfold) (fun x => x.1.isEmpty && decide (x.2 = u4)) &&
              (z.2.2.1 == 0) && isOk (u4.skipWrite 0 2 0x50000 z.1) (fun u5 => isOk (u5.skipWrite 0 2 0x60000 z.2.1) (fun _ => true))
            | _ => false)
          | _ => false)
        | _ => false)
     | _ => false) = true := by decide +kernel

theorem test_fold_timeout : let s := devFold 1 255
    s.mayRun 0 2 = true ∧ s.csrF (oReg 0 0x11000) 16 8 ≠ 0 ∧ (s.program 0).any (fun p => !(s.waitingFolds 0 p).isEmpty) = true := by decide +kernel

theorem test_refetches :
    (∀ r ∈ [0, 7], takes idle (oReg r 0x60040) = true) ∧ bit (0x80000000 : Word) 31 = true ∧
    (let f : Refetch := { tensor := 1023, line := 0, task := none }
     let s : State := { idle with csr := idle.csr ++ [(oErrCfg, 0x10000)], regions := [(0, { refetch := [f] })] }
     f.copies = [] ∧
     s.csrF oErrCfg 16 8 ≠ 0 ∧ (s.region 0).refetch.find? (fun f => decide (f.tensor = 1023)) = some f ∧ f.task = none ∧ (s.region 0).skip.streams.length = 4) := by
  decide +kernel

/-- A step that may begin: its table names 64 tokens; a forward task keeps its input where `keep` is set. -/
def devGo (keep : Bool) : State :=
  devS { skipOf 0 { tk 1 with keepb := if keep then 0 else 0xFFFF } [{ tensor1 with kind := 3 }] with st := 1, goCmds := [(0, 0)] } [(0x20000, 64)] [(oReg 0 0x11000, 1)]

theorem test_step_starts : ∀ keep ∈ [false, true], let s := devGo keep
    s.mayBegin 0 = true ∧ (s.progRegions 0).headD 8 = 0 ∧ s.ecc = [] ∧
    (match s.program 0, (s.applyB (oReg 0 0x11000) 0xFFFF).range 0 0x20000 8 .load with
     | some p, (.ok ps, u) => let b := u.pieces ps
       let part := u.csrF (oReg 0 0x11000) 0 16 * 0x100000 / p.inFlight / 65536 * 65536
       b.length == 8 && (match placeAll p part 0 (tableOf b) with
        | .ok (kept, used) => isOk ((u.setSkip 0 { (s.region 0).skip with st := 2, mbs := tableOf b, kept := kept, keepMax := used / 65536 }).zeroAccums 0 p.tensors) (fun _ => true)
        | .error _ => false)
     | _, _ => false) = true := by decide +kernel

theorem test_inputs_do_not_fit :
    (match placeAll (prog 1 [{ tensor1 with kind := 3, elems := 65536 }] [[{ tk 1 with keepb := 0 }]]) 0 0 [(64, 0)] with | .ok _ => false | .error m => m == 0) = true := by
  decide +kernel

def run0 (q : Nat) : TaskRun := { q := q, t := 0, m := 0, rung := 0 }

theorem test_tasks_complete :
    (∀ x ∈ [(0, 1), (0, 2), (2, 4), (1, 6), (3, 8)], let s := devS { skipOf x.1 (tk x.2) [] with runs := [run0 x.1] } [] []
     s.runOf (0, x.1, 0, 0) = some (run0 x.1) ∧ s.taskDesc (0, x.1, 0, 0) = some (tk x.2) ∧ s.mayRun 0 x.1 = true ∧ s.ecc = [] ∧
     (run0 x.1).tainted = false ∧ (run0 x.1).copied = [] ∧ (tk x.2).arg ≠ 0 ∧ (x.2 ≤ 3 → oneAt 0x20000 32 ((s.applyB (oReg 0 0x10100) 0x05FFFFFF).free.2.free.2.free.2.range 0 0x20000 32 .store).1 = true) ∧
     (s.program 0).any (fun p => (p.weight 1023).isNone && (p.accumulator 1023).isNone) = true) ∧
    (let d := { tk 1 with watch := [5, 0, 0, 0] }
     let s0 := devS { skipOf 0 d [] with runs := [run0 0] } [] [(oReg 0 0x10100, 0x04000001)]
     let s : State := { s0 with regions := [(0, { s0.region 0 with ant := { entries := [(5, { id := 5, valid := true, written := 100, sats := 50 })] } })] }
     let z := s.applyB (oReg 0 0x10100) 0x05FFFFFF
     s.runOf (0, 0, 0, 0) = some (run0 0) ∧ (s.region 0).ladder.log.length < 64 ∧
     (s.program 0).any (fun p => let w := z.watchOf 0 0 p [] d.watch; w.fails.isNone && trips (z.csrAt (oReg 0 0x10100)) w) = true) := by decide +kernel

theorem test_step_ends :
    (let d := { tk 9 with sect := 2 }
     let s := devS (skipOf 3 d []) [] []
     (match s.nextRun 0 3 with
      | some (p, e, k, m) => decide (e = d) && (k == 0) && (m == 1) && (s.waitCode 0 p (3, 0, 1) d == 0) && s.allDone 0 p && s.mayRun 0 3 && (s.runOf (0, 3, 0, 1)).isNone &&
         isOk ((s.addRun 0 3 0 1 (s.startRung 0 p d 1)).writeReport 0 0) (fun _ => true)
      | none => false) = true ∧ s.ecc = []) ∧
    (let s := devS { skipOf 3 (tk 9) [] with st := 3, goCmds := [(0, 0)] } [] [(oChryCfg, 1)]
     s.stepRegions 0 = [0] ∧ (s.region 0).skip.st = 3 ∧ (s.ctx 0).st = 1 ∧ s.csrF oChryCfg 0 6 ≠ 0 ∧ s.csrPend = [] ∧ s.progRegions 0 = [0]) := by decide +kernel

theorem test_step_commands :
    (let c := cmd0 (qcmd 7 (List.replicate 8 0 ++ [1])); let s : State := { devQ c with regions := [(0, { skip := { skipOf 0 (tk 1) [] with st := 1 } })] }
     cmdWaits s 0 0 7 c = true ∧ maskRegions (leAt c.bytes 24 1) = [0] ∧ s.holdsProgram c.ctx 0 = true ∧ (devQ c).holdsProgram c.ctx 0 = false) ∧
    (let c := cmd0 (qcmd 8 (List.replicate 8 0 ++ [1])); let s : State := { devQ c with regions := [(0, { skip := { skipOf 0 (tk 1) [] with st := 1 } })] }
     cmdWaits s 0 0 8 c = true ∧ s.holdsProgram c.ctx 0 = true ∧ (s.region 0).skip.st ≠ 2 ∧ (s.region 0).skip.st ≠ 3) := by decide +kernel

/-! ### A program that is loaded -/

/-- What a read of one page by queue 0 asks and finds: the page walked, or found in a TLB that may or may not still hold it. -/
def readOk (s t : State) (va len : Nat) (b : List Byte) : Bool :=
  decide (va < 2 ^ 48) && decide (s.csrF (oPtHi 0) 24 1 ≠ 0) && decide (pageSpan va len = [va / 0x10000]) &&
  (match s.tlbFind 0 (s.csrF (oPtHi 0) 16 8) va with
    | none => decide (s.walkTo 0 va .load = (.ok va false, t))
    | some e => decide ((leafResult s e va .load, s.held.2) = s.held.2.walkTo 0 va .load) &&
      decide (s.held.2.walkTo 0 va .load = (.ok va false, t))) &&
  (t.eccHits va len).isEmpty && decide (t.bytes va len = b)

theorem translate_at {s t : State} {va len : Nat} {b : List Byte} (h : readOk s t va len b = true) :
    s.translate 0 va .load = (.ok va false, t) := by
  simp only [readOk, Bool.and_eq_true, decide_eq_true_eq] at h
  obtain ⟨⟨⟨⟨⟨h1, h2⟩, -⟩, h3⟩, -⟩, -⟩ := h
  unfold State.translate State.translateW
  rw [if_neg (by omega)]
  cases hf : s.tlbFind 0 (s.csrF (oPtHi 0) 16 8) va with
  | none => rw [hf] at h3; simp [of_decide_eq_true h3]
  | some e =>
    rw [hf] at h3
    simp only [Bool.and_eq_true, decide_eq_true_eq] at h3
    have h4 : leafResult s e va .load = .ok va false ∧ s.held.2 = t := by
      have := h3.1.trans h3.2
      exact ⟨congrArg Prod.fst this, congrArg Prod.snd this⟩
    have h5 := h3.2
    cases hh : s.held.1 <;> simp [hh, h5, h4.1] <;> exact h4.2

theorem cmdRead_at {s t : State} {va len : Nat} {b : List Byte} (h : readOk s t va len b = true) :
    s.cmdRead 0 0 0 va len = .ok (b, t) := by
  have ht := translate_at h
  simp only [readOk, Bool.and_eq_true, decide_eq_true_eq, List.isEmpty_iff] at h
  obtain ⟨⟨⟨⟨⟨-, -⟩, hp⟩, -⟩, he⟩, hb⟩ := h
  have hm : max va (va / 0x10000 * 0x10000) = va := by omega
  have hl : min (va + len) ((va / 0x10000 + 1) * 0x10000) = va + len ∧ len ≠ 0 := by
    unfold pageSpan at hp
    split at hp
    · cases hp
    · have := congrArg List.length hp
      simp at this
      omega
  have hr : s.range 0 va len .load = (.ok [(va, len)], t) := by
    have h1 : va / 0x10000 * 0x10000 + va % 0x10000 = va := by omega
    have h2 : va + len - va = len := by omega
    simp only [State.range, hp, State.translatePages, hm, ht, List.map_cons, List.map_nil, hl.1, h1, h2]
  unfold State.cmdRead
  simp only [hr, List.any_cons, List.any_nil, he, List.isEmpty_nil, Bool.not_true, Bool.or_false, State.pieces,
    List.flatMap_cons, List.flatMap_nil, List.append_nil, hb]
  rfl

theorem cmdReadAt_eq (s : State) (o len : Nat) : s.cmdReadAt 0 0 0 0x1FFC0 o len = s.cmdRead 0 0 0 (0x1FFC0 + o) len := rfl

theorem cmdRead_none (s : State) (va : Nat) : s.cmdRead 0 0 0 va 0 = .ok ([], s) := rfl

/-- An END task. -/
def endTask : List Byte := [9, 0x80] ++ List.replicate 62 0

/-- A program of one tensor that ends its step: header at the end of page 1, four streams on page 2, its tensor on page 3;
page 4 maps the Layer Store. -/
def loadCmd : Cmd := cmd0 (qcmd 6 (leBytes 8 0x1FFC0 ++ [1]))
def loadHdr : List Byte := [1, 0, 1, 0, 1, 0, 0, 0] ++ leBytes 8 0x30000 ++ List.replicate 16 0 ++ leBytes 8 0x40000 ++ List.replicate 24 0

/-- Region 0 with no program, or with one that has been loaded. -/
def devLoad (x : Nat) : State := let s := devQ loadCmd; { s with
  mem := s.mem.dropLast ++ [(0x1025, 1)] ++ cellsAt 0x1FFC0 loadHdr ++ cellsAt 0x2000C ([1] ++ List.replicate 3 0 ++ endTask) ++ cellsAt 0x30000 [7, 0, 0, 0, 3]
  regions := if x = 0 then [] else [(0, { skip := { st := 1 } })] }

def loadWalk (s : State) (va : Nat) : State := (s.walkTo 0 va .load).2
def loadAgain (s : State) (va : Nat) : State := (s.held.2.walkTo 0 va .load).2
def ld0 (x : Nat) : State := (devLoad x).begin 0 0
def ld1 (x : Nat) : State := loadWalk (ld0 x) 0x1FFC0
def ld2 (x : Nat) : State := loadWalk (ld1 x) 0x30000
def ld3 (x : Nat) : State := loadWalk (ld2 x) 0x20000
def ld4 (x : Nat) : State := loadAgain (ld3 x) 0x20004
def ld5 (x : Nat) : State := loadAgain (ld4 x) 0x20008
def ld6 (x : Nat) : State := loadAgain (ld5 x) 0x2000C
def ld7 (x : Nat) : State := loadAgain (ld6 x) 0x20010
def loadTens : List Byte := [7, 0, 0, 0, 3] ++ List.replicate 59 0
def loadProg : Program := programOf 0x1FFC0 loadHdr ((records64 1 loadTens).map parseTensor) [[], [], [], (records64 1 endTask).map parseTask]

theorem load_reads : ∀ x ∈ [0, 1], (readOk (ld0 x) (ld1 x) 0x1FFC0 64 loadHdr && readOk (ld1 x) (ld2 x) 0x30000 64 loadTens &&
    readOk (ld2 x) (ld3 x) 0x20000 4 [0, 0, 0, 0] && readOk (ld3 x) (ld4 x) 0x20004 4 [0, 0, 0, 0] &&
    readOk (ld4 x) (ld5 x) 0x20008 4 [0, 0, 0, 0] && readOk (ld5 x) (ld6 x) 0x2000C 4 [1, 0, 0, 0] &&
    readOk (ld6 x) (ld7 x) 0x20010 64 endTask) = true := by decide +kernel

theorem load_numbers : headerOk loadHdr = true ∧ leAt loadHdr 8 8 = 0x30000 ∧ leAt loadHdr 4 4 = 1 ∧ leNat ([0, 0, 0, 0] : List Byte) = 0 ∧
    leNat ([1, 0, 0, 0] : List Byte) = 1 := by decide +kernel

theorem program_of_reads {t0 t1 t2 t3 t4 t5 t6 t7 : State} {z o : List Byte} {h d e : List Byte}
    (h1 : readOk t0 t1 0x1FFC0 64 h = true) (h2 : readOk t1 t2 0x30000 64 d = true) (h3 : readOk t2 t3 0x20000 4 z = true)
    (h4 : readOk t3 t4 0x20004 4 z = true) (h5 : readOk t4 t5 0x20008 4 z = true) (h6 : readOk t5 t6 0x2000C 4 o = true)
    (h7 : readOk t6 t7 0x20010 64 e = true) (n1 : headerOk h = true) (n2 : leAt h 8 8 = 0x30000) (n3 : leAt h 4 4 = 1)
    (n4 : leNat z = 0) (n5 : leNat o = 1) :
    t0.loadProgram 0 0 0 0x1FFC0 0x1FFC0 = .ok (some (programOf 0x1FFC0 h ((records64 1 d).map parseTensor) [[], [], [], (records64 1 e).map parseTask]), t7) := by
  have r0 : (records64 0 ([] : List Byte)).map parseTask = [] := rfl
  simp only [State.loadProgram, cmdRead_at h1, n1, n2, n3, Bool.not_true, Bool.false_eq_true, if_false, Nat.mul_one, cmdRead_at h2,
    State.loadStreams, cmdReadAt_eq, Nat.reduceAdd, cmdRead_at h3, n4, Nat.mul_zero, Nat.not_lt_zero, Nat.reduceLT, cmdRead_none, cmdRead_at h4, cmdRead_at h5,
    cmdRead_at h6, n5, cmdRead_at h7, r0]

theorem test_program_reads (x : Nat) (hx : x ∈ [0, 1]) : (ld0 x).loadProgram 0 0 0 0x1FFC0 0x1FFC0 = .ok (some loadProg, ld7 x) := by
  have h := load_reads x hx
  simp only [Bool.and_eq_true] at h
  obtain ⟨⟨⟨⟨⟨⟨h1, h2⟩, h3⟩, h4⟩, h5⟩, h6⟩, h7⟩ := h
  obtain ⟨n1, n2, n3, n4, n5⟩ := load_numbers
  exact program_of_reads h1 h2 h3 h4 h5 h6 h7 n1 n2 n3 n4 n5

/-- STEP_LOAD of a program that may be loaded, and of one whose region holds another. -/
theorem test_step_load : ∀ x ∈ [0, 1], let s := devLoad x
    cmdWaits s 0 0 6 loadCmd = true ∧ (s.ctx 0).st = 1 ∧ maskRegions (leAt loadCmd.bytes 24 1) = [0] ∧ s.regionUp 0 = true ∧ s.sideOk 0 0 = true ∧
    isVa 0x1FFC0 (((s.begin 0 0).resolve 0 (.queue 0) (BitVec.ofNat 64 (leAt loadCmd.bytes 16 8)) 64).1) = true ∧ s.ecc = [] ∧
    (ld7 x).loadReason 0 [0] loadProg = if x = 0 then none else some 9 := by decide +kernel

/-! ### Ill-formed commands: one for each check -/

theorem test_wf_groups : (Instr.nop { cell := 10240, slot := 0 } 0).wf = false ∧ (Instr.nop { cell := 0, slot := 16 } 0).wf = false ∧
    (Instr.nop { cell := 10239, slot := 15 } 0).wf = true := by decide

theorem test_wf_blocks : (Instr.groupSetAdmit 640).wf = false ∧ (Instr.blockFence 640).wf = false ∧ (Instr.icacheInvalidate 640 0).wf = false ∧
    (Instr.wcastStall 640 0).wf = false ∧ (Instr.wcastBeatGrant 0 4).wf = false ∧ (Instr.wcastBeatGrant 639 3).wf = true := by decide

theorem test_wf_regions : (Instr.stepStart 8).wf = false ∧ (Instr.accFoldGroup 8 .none).wf = false ∧ (Instr.ringHopSend 0 16).wf = false ∧
    (Instr.skipperTaskComplete 0 4 0 0).wf = false ∧ (Instr.chrysalisShardSend 0 1024).wf = false ∧ (Instr.completionCacheExpire 0 16384).wf = false ∧
    (Instr.antEntryWord0Read 0 4096).wf = false ∧ (Instr.regionRetire 8 0).wf = false ∧ (Instr.railFault (.region 8)).wf = false ∧
    (Instr.stepStart 7).wf = true := by decide

theorem test_wf_scrub : (Instr.scrubRead 8 true 0 .none).wf = false ∧ (Instr.scrubRead 0 true 0x001200000000 .none).wf = false ∧
    (Instr.scrubRead 0 true 16 .none).wf = false ∧ (Instr.scrubRead 0 false 0x40000000 .none).wf = false ∧ (Instr.scrubRead 0 false 4 .none).wf = false ∧
    (Instr.scrubRead 7 false 0x3FFFFFF8 .none).wf = true := by decide

/-- 24 is the host port as a whole: it has no frames, and may be locked. -/
theorem test_wf_links : (∀ l ∈ [24, 31, 64, 65], (Instr.corruptedFrame l {}).wf = false) ∧ (Instr.blockLockLost 25).wf = false ∧ (Instr.blockLockLost 24).wf = true ∧
    (Instr.credit 24 {}).wf = false ∧ (Instr.portEnableWrite 25 0).wf = false ∧ (Instr.foldEntryClose 8 0).wf = false ∧
    (Instr.routeHoldExpire 8 0).wf = false ∧ (∀ l ∈ [0, 23, 32, 63], (Instr.corruptedFrame l {}).wf = true) := by decide

theorem test_wf_host : (Instr.activate 64).wf = false ∧ (Instr.genWrite 64 0).wf = false ∧ (Instr.nopCommand 1024 0).wf = false ∧
    (Instr.fenceAlloc 16384 0).wf = false ∧ (Instr.removeDrainDone 8).wf = false ∧ (Instr.jwinWrite 256 0 0).wf = false ∧ (Instr.jwinWrite 0 4 0).wf = false ∧
    (Instr.cellFence 10240 0).wf = false ∧ (Instr.dbgHalt 10240 0).wf = false ∧ (Instr.errorUnitFree (.ceu 10240)).wf = false ∧
    (Instr.errorUnitFree (.beu 640)).wf = false ∧ (Instr.errorUnitFree (.geu 8)).wf = false ∧ (Instr.thermalCapTick [25]).wf = false := by decide

/-- An ill-formed command stops with its fault. -/
theorem test_wf_fault : (match Machine.exec (.stepStart 8) idle with | .fault .noSuchUnit => true | _ => false) = true := by decide +kernel

/-! ### The queue -/

/-- The front command of two goes first; a device without commands idles; the table gives no row bits. -/
theorem test_queue : (match step { idle with pending := [.getdcr, .bypass] } with | .next t => decide (t.pending = [.bypass]) | _ => false) = true ∧
    (match step idle with | .next t => decide (t = idle) | _ => false) = true ∧ memWf State.reset.mem = true ∧
    decodeTableWord 64 0x40 = none ∧ State.reset.withFetchWord 64 0x40 = State.reset := by decide +kernel

/-! ### Results that the manual works out -/

/-- Chapter 3, "Encoding example": FFMA v12 = v4 × s3 + v12 under p2. -/
theorem test_ffma_word : iw 0x42 12 4 3 12 0x20000 2 = 0x4240C04030C20000 := by decide

/-- Chapter 3, after Table 3-8: BSHUF with FN = 0xFE0 takes byte 0 of a and byte 0 of b. -/
theorem test_bshuf : bshufW 0xFE0 0x44332211 0x88776655 = 0x00005511 := by decide

/-- IADD of −1 wraps below zero; the program counter moves on one word. -/
theorem test_iadd_wraps : (match Machine.exec (.iadd g0 (iw 0x01 1 2 0 0 0x80FFF)) (devT grp (iw 0x01 1 2 0 0 0x80FFF)) with
    | .next t => (match t.group g0 with | some u => u.vreg 1 0 == 0xFFFFFFFF && u.pc == 0x10008 | none => false)
    | _ => false) = true := by decide +kernel

/-- A sum half a unit above 1 rounds to the even neighbour, and is inexact: 1 + 2^−24. -/
theorem test_fadd_tie : (fadd32 .near 0x3F800000 0x33800000).1 = 0x3F800000 ∧ (fadd32 .near 0x3F800001 0x33800000).1 = 0x3F800002 := by decide +kernel

/-- Chapter 5, "four small updates": the pair after each fold of 1.25 × 2^−10. -/
theorem test_small_updates : let d := mxValue e4m3 0x3A 0x75
    resFold 0x3F80 0 d = (0x3F80, 0x28, 0) ∧ resFold 0x3F80 0x28 d = (0x3F80, 0x50, 0) ∧ resFold 0x3F80 0x50 d = (0x3F80, 0x78, 0) ∧
    resFold 0x3F80 0x78 d = (0x3F81, 0xA0, 0) := by decide +kernel

/-- Chapter 7, "locating one address". -/
theorem test_location : placeOf 0x002523456780 = some (.hbm 2) := by decide +kernel

/-- Chapter 11, "choosing K". -/
theorem test_chrysalis_interval : chryK 13889 32 12000000 959800 128 256 0 4 14 = some 11 := by decide +kernel

/-- Chapter 4, "cross-read under stochastic rounding": 1 + 1.5 × 2^−24 rounds up to nearest. -/
theorem test_array_sum : (ffma32 .near 0x3FC00000 0x33800000 0x3F800000).1 = 0x3F800001 := by decide +kernel

end Sys2Proof.Tests
end

namespace Sys2Proof.Machine

/-! ### Writes that take effect -/

/-- The word at offset `o` of a cell's window is that cell's (Table 12-1). -/
theorem locate_oCell {c o : Nat} (hc : c < 10240) (ho : o < 0x200) : locate (oCell c o) = some (.cell c, o) := by
  have hblock : (oCell c o - 0x1000000) / 0x4000 = c / 16 := by unfold oCell; omega
  have hwithin : (oCell c o - 0x1000000) % 0x4000 = 0x2000 + (c % 16 * 0x200 + o) := by unfold oCell; omega
  have hlow : 0x1000000 ≤ oCell c o := by unfold oCell; omega
  have hhigh : oCell c o < 0x1000000 + 640 * 0x4000 := by unfold oCell; omega
  have hcell : c / 16 * 16 + (c % 16 * 0x200 + o) / 0x200 = c := by omega
  have hoff : (c % 16 * 0x200 + o) % 0x200 = o := by omega
  unfold locate
  simp only [hblock, hwithin]
  rw [if_neg (by omega), if_neg (by omega), if_neg (by omega), if_neg (by omega), if_neg (by omega), if_neg (by omega),
    if_neg (by omega), if_pos hhigh, if_neg (by omega), Nat.add_sub_cancel_left, hcell, hoff]

/-- A word that takes a write hands it to its unit (R368, R383). -/
theorem writeWord_of_takesWrite {s : State} {off o : Nat} {u : UnitAt} (v : Word)
    (hloc : locate off = some (u, o)) (htakes : takesWrite s off = true) : s.writeWord off v = s.writeUnit u o off v := by
  simp only [takesWrite, hloc, Bool.and_eq_true, Bool.not_eq_true', decide_eq_true_eq] at htakes
  obtain ⟨⟨hreset, halign⟩, hunit⟩ := htakes
  simp [State.writeWord, hloc, hreset, halign, hunit]

/-- DBG_HALT is a write of CELL_DBG_CTL with no STEP bit (R394). -/
theorem exec_dbgHalt {s : State} {c : Nat} (v : Word) (hc : c < 10240) (htakes : takesWrite s (oCell c 0x100) = true) :
    exec (.dbgHalt c v) s = .next (s.dbgWrite c (setFld v 16 16 0)) := by
  have hcell : ¬ nCells ≤ c := by unfold nCells; omega
  have harm : exec (.dbgHalt c v) s = execDbgHalt c v s := rfl
  simp [harm, execDbgHalt, hcell, writeWord_of_takesWrite _ (locate_oCell hc (by decide)) htakes, State.writeUnit,
    State.writeCell]

/-! ### The release of a halt that uncovers a barrier deadlock (R51, R394) -/

/-- A set of two groups with two barriers, launched by an RTRIG handler, its groups in slot 0 of cells 0 and 1 (R36). -/
def twoBarrierSet : GroupSet where
  id := 1
  ctx := 0
  cid := 1
  source := .handler 0 0 0
  entry := 0x10000
  groups := 2
  regs := 16
  scratch := 1
  slots := 0
  bars := 2
  mute := false
  icinv := false
  ticket := 0
  params := []
  barIds := [0, 1]
  placed := [(0, 0), (1, 0)]
  gids := [1, 2]
  exited := []
  left := []
  fault := 0

/-- Group `i` of the set, which stands in slot 0 of cell `i` and waits at barrier `i`. -/
def barrierWaiter (i : Nat) (halted : Bool) : Group :=
  { newGroup twoBarrierSet (i + 1) i 0 i 0 [0] with st := .atBarrier i, halted := halted }

/-- A device in service on which the two groups wait at different barriers while debug halts the first: R51 does not
count a halted group as waiting (R394), so the set is in no deadlock yet. -/
def haltedWaiterDevice : State := { State.reset with
  cells := [(0, { groups := [(0, barrierWaiter 0 true)] }), (1, { groups := [(0, barrierWaiter 1 false)] })]
  blocks := [(0, {
    sets := [twoBarrierSet]
    bars := [(0, { setId := 1, expected := 2, done := 1, inUse := true }),
             (1, { setId := 1, expected := 2, done := 1, inUse := true })] })]
  chip := { inService := 0xFF, released := 0xFF, trained := 0xFF, sharedOk := true }
  host := { ctxs := [(0, { st := 1, handlers := [(0, 1)] })] }
  boot := { phase := 8 } }

/-- The same device once the write has cleared HALT of slot 0 of cell 0, before the barrier unit looks at the set. -/
def releasedWaiterDevice : State :=
  haltedWaiterDevice.setGroup { cell := 0, slot := 0 } (barrierWaiter 0 false)

theorem haltedWaiterDevice_takesWrite : takesWrite haltedWaiterDevice (oCell 0 0x100) = true := by decide +kernel

theorem haltedWaiterDevice_group :
    haltedWaiterDevice.group { cell := 0, slot := 0 } = some (barrierWaiter 0 true) := rfl

/-- With the halt gone, both live groups of the set count as waiting, at two barriers (R51). -/
theorem releasedWaiterDevice_deadlocked : releasedWaiterDevice.deadlocked 0 twoBarrierSet = true := by decide +kernel

/-- HALT written zero clears the first group's debug halt and changes nothing else of the cell. -/
theorem dbgGroups_haltedWaiterDevice :
    (List.range 16).foldl (fun t i => t.dbgGroup 0 i 0) haltedWaiterDevice = releasedWaiterDevice := by decide +kernel

/-- After the release the barrier unit looks at the one set of the block. -/
theorem dbgWrite_haltedWaiterDevice :
    haltedWaiterDevice.dbgWrite 0 0 = releasedWaiterDevice.deadlockCheck 0 1 := by
  have hsets : (releasedWaiterDevice.block (cellBlock 0)).sets = [twoBarrierSet] := rfl
  simp only [State.dbgWrite, dbgGroups_haltedWaiterDevice, hsets, List.foldl_cons, List.foldl_nil]
  rfl

/-- The deadlock that the release uncovers freezes the released group (R51, R52). -/
theorem deadlockCheck_freezes_releasedWaiter :
    ((releasedWaiterDevice.deadlockCheck 0 1).group { cell := 0, slot := 0 }).map (·.st) = some .frozen := by
  have hset : releasedWaiterDevice.setOf 0 1 = some twoBarrierSet := rfl
  simp only [State.deadlockCheck, hset, releasedWaiterDevice_deadlocked, if_true]
  decide +kernel

/-- Refutes O24: DBG_HALT's clause has the written group keep all but its debug bits, but where clearing HALT leaves
every live group of a set waiting, at two or more barriers, the write ends with the group frozen by R51. -/
theorem not_registerClasses : ¬ Obligations.RegisterClasses := by
  unfold Obligations.RegisterClasses ErrorClearsAndDebug
  rintro ⟨-, -, debugControl⟩
  obtain ⟨⟨t, hexec, hgroup, -⟩, -⟩ :=
    debugControl 0 0 haltedWaiterDevice 0 (barrierWaiter 0 true) (by decide) haltedWaiterDevice_takesWrite (by decide)
      haltedWaiterDevice_group
  have hword : setFld (0 : Word) 16 16 0 = 0 := by decide
  rw [exec_dbgHalt 0 (by decide) haltedWaiterDevice_takesWrite, hword, dbgWrite_haltedWaiterDevice,
    Host.Outcome.next.injEq] at hexec
  have frozen := deadlockCheck_freezes_releasedWaiter
  rw [hexec, hgroup] at frozen
  exact absurd frozen (by decide)

end Sys2Proof.Machine

namespace Sys2Proof.Machine

/-! ### The latched MAX_GROUPS applied: only control words change (R371) -/

/-- The boundary of a word's B fields changes control words alone. -/
theorem State.applyB_eq (s : State) (off : Nat) (mask : Word) :
    ∃ words latched, s.applyB off mask = { s with csr := words, csrPend := latched } := by
  unfold State.applyB
  split
  · exact ⟨s.csr, s.csrPend, rfl⟩
  · dsimp only
    split
    · exact ⟨_, _, rfl⟩
    · exact ⟨_, s.csrPend, rfl⟩

/-- Class B fields of several words applied, one word after the other, change control words alone. -/
theorem State.foldl_applyB_eq (offset : Nat → Nat) (l : List Nat) (s : State) :
    ∃ words latched, l.foldl (fun t c => t.applyB (offset c)) s = { s with csr := words, csrPend := latched } := by
  induction l generalizing s with
  | nil => exact ⟨s.csr, s.csrPend, rfl⟩
  | cons c l ih =>
    obtain ⟨words, latched, hhead⟩ := s.applyB_eq (offset c) 0xFFFFFFFF
    rw [List.foldl_cons, hhead]
    exact ih _

/-- The latched MAX_GROUPS of a block's cells applied changes control words alone (Table 2-8). -/
theorem State.applyMaxGroups_eq (s : State) (b : Nat) :
    ∃ words latched, s.applyMaxGroups b = { s with csr := words, csrPend := latched } :=
  State.foldl_applyB_eq _ _ s

@[simp] theorem State.applyMaxGroups_block (s : State) (b j : Nat) : (s.applyMaxGroups b).block j = s.block j := by
  obtain ⟨words, latched, h⟩ := s.applyMaxGroups_eq b
  rw [h]; rfl

@[simp] theorem State.applyMaxGroups_host (s : State) (b : Nat) : (s.applyMaxGroups b).host = s.host := by
  obtain ⟨words, latched, h⟩ := s.applyMaxGroups_eq b
  rw [h]

@[simp] theorem State.applyMaxGroups_ctx (s : State) (b n : Nat) : (s.applyMaxGroups b).ctx n = s.ctx n := by
  simp only [State.ctx, State.applyMaxGroups_host]

@[simp] theorem State.applyMaxGroups_sideOk (s : State) (b n r : Nat) :
    (s.applyMaxGroups b).sideOk n r = s.sideOk n r := by
  obtain ⟨words, latched, h⟩ := s.applyMaxGroups_eq b
  rw [h]; rfl

/-! ### Groups placed on their cells (R35, R36, R219) -/

theorem State.placeGroup_block (s : State) (b : Nat) (x : GroupSet) (i c gid j : Nat) :
    (s.placeGroup b x i c gid).1.block j = s.block j := rfl

/-- A placed group's cell loses its line cache, every other cell keeps its own (R219). -/
theorem State.placeGroup_lineCache (s : State) (b : Nat) (x : GroupSet) (i c gid j : Nat) :
    ((s.placeGroup b x i c gid).1.cell j).lineCache = if j = b * 16 + c then [] else (s.cell j).lineCache := by
  simp only [State.placeGroup, State.setCell_cell]
  split <;> rfl

theorem State.placeAll_block (b : Nat) (x : GroupSet) (up : List Nat) (j n : Nat) :
    ∀ (i : Nat) (s : State), (s.placeAll b x up i n).1.block j = s.block j := by
  induction n with
  | zero => exact fun _ _ => rfl
  | succ n ih =>
    intro i s
    rw [State.placeAll, ih, State.placeGroup_block]
    rfl

theorem State.placeAll_length (b : Nat) (x : GroupSet) (up : List Nat) (n : Nat) :
    ∀ (i : Nat) (s : State), (s.placeAll b x up i n).2.length = n := by
  induction n with
  | zero => exact fun _ _ => rfl
  | succ n ih => exact fun i s => by rw [State.placeAll, List.length_cons, ih]

/-- No placement fills a line cache. -/
theorem State.placeAll_keeps_empty_lineCache (b : Nat) (x : GroupSet) (up : List Nat) (j n : Nat) :
    ∀ (i : Nat) (s : State), (s.cell j).lineCache = [] → ((s.placeAll b x up i n).1.cell j).lineCache = [] := by
  induction n with
  | zero => exact fun _ _ h => h
  | succ n ih =>
    intro i s hempty
    rw [State.placeAll]
    refine ih _ _ ?_
    rw [State.placeGroup_lineCache]
    split
    · rfl
    · exact hempty

/-- After all placements the line cache of every cell that took a group is empty (R219). -/
theorem State.placeAll_lineCache (b : Nat) (x : GroupSet) (up : List Nat) (n : Nat) :
    ∀ (i : Nat) (s : State), ∀ p ∈ (s.placeAll b x up i n).2,
      ((s.placeAll b x up i n).1.cell (b * 16 + p.1.1)).lineCache = [] := by
  induction n with
  | zero => exact fun _ _ _ hp => absurd hp List.not_mem_nil
  | succ n ih =>
    intro i s p hp
    rw [State.placeAll] at hp ⊢
    rcases List.mem_cons.mp hp with rfl | hlater
    · refine State.placeAll_keeps_empty_lineCache _ _ _ _ _ _ _ ?_
      rw [State.placeGroup_lineCache, if_pos rfl]
    · exact ih _ _ p hlater

/-! ### The set admitted (R219, R240) -/

/-- The caches of the block that admits a set (R219, R240). -/
theorem State.admitSet_caches (s : State) (b : Nat) (x : GroupSet) :
    ((s.admitSet b x).block b).cache = [] ∧
    ((s.admitSet b x).block b).icache = if x.icinv then [] else (s.block b).icache := by
  simp only [State.admitSet, State.setBlock_block, if_true, State.placeAll_block, and_self]

/-- The admitted set stands on its block with a place for each of its groups, and the line cache of every cell among
those places is empty (R36, R219). -/
theorem State.admitSet_places (s : State) (b : Nat) (x : GroupSet) :
    ∃ y, y ∈ ((s.admitSet b x).block b).sets ∧ y.id = x.id ∧ y.placed.length = x.groups ∧
      ∀ p ∈ y.placed, ((s.admitSet b x).cell (b * 16 + p.1)).lineCache = [] := by
  simp only [State.admitSet, State.setBlock_block, if_true, State.setBlock_cell]
  refine ⟨_, List.mem_append_right _ (List.mem_singleton_self _), rfl, ?_, ?_⟩
  · rw [List.length_map, State.placeAll_length]
  · intro p hp
    obtain ⟨q, hq, rfl⟩ := List.mem_map.mp hp
    exact State.placeAll_lineCache _ _ _ _ _ _ q hq

/-- A state whose block `b` has the head of its launch queue taken, with `rest` behind it (R37). -/
def State.withLaunchQ (s : State) (b : Nat) (rest : List GroupSet) : State :=
  s.setBlock b (Block.refill { s.block b with launchQ := rest })

@[simp] theorem State.withLaunchQ_icache (s : State) (b : Nat) (rest : List GroupSet) :
    ((s.withLaunchQ b rest).block b).icache = (s.block b).icache := by
  simp only [State.withLaunchQ, State.setBlock_block, if_true, Block.refill]

/-- GROUP_SET_ADMIT admits the head of the queue where the block takes it now and its context runs (R36, R317). -/
theorem exec_groupSetAdmit {s : State} {b : Nat} {x : GroupSet} {rest : List GroupSet} (hb : b < 640)
    (hhead : (s.block b).launchQ = x :: rest) (hup : (s.applyMaxGroups b).blockUp b = true)
    (hcan : (s.applyMaxGroups b).neverFits b x = false) (hfits : (s.applyMaxGroups b).fitsNow b x = true)
    (hside : s.sideOk x.ctx (blockRegion b) = true) (hctx : (s.ctx x.ctx).st = 1)
    (hidle : s.host.ctxBusy ≠ some (x.ctx, 7)) :
    exec (.groupSetAdmit b) s = .next (((s.applyMaxGroups b).withLaunchQ b rest).admitSet b x) := by
  have hblock : ¬ nBlocks ≤ b := by unfold nBlocks; omega
  have harm : exec (.groupSetAdmit b) s = execGroupSetAdmit b s := rfl
  rw [harm]
  simp [execGroupSetAdmit, hblock, hhead, hup, hside, hcan, hfits, hctx, hidle, State.withLaunchQ]

/-! ### BLK_ICACHE_INV (R240) -/

/-- The word at offset `o` of a block's window is that block's (Table 12-1). -/
theorem locate_oBlk {b o : Nat} (hb : b < 640) (ho : o < 0x2000) : locate (oBlk b o) = some (.blk b, o) := by
  have hblock : (oBlk b o - 0x1000000) / 0x4000 = b := by unfold oBlk; omega
  have hwithin : (oBlk b o - 0x1000000) % 0x4000 = o := by unfold oBlk; omega
  have hlow : 0x1000000 ≤ oBlk b o := by unfold oBlk; omega
  have hhigh : oBlk b o < 0x1000000 + 640 * 0x4000 := by unfold oBlk; omega
  unfold locate
  simp only [hblock, hwithin]
  rw [if_neg (by omega), if_neg (by omega), if_neg (by omega), if_neg (by omega), if_neg (by omega), if_neg (by omega),
    if_neg (by omega), if_pos hhigh, if_pos ho]

/-- A write of 1 to BLK_ICACHE_INV.GO empties the block's instruction cache and does nothing else (R240). -/
theorem exec_icacheInvalidate {s : State} {b : Nat} {v : Word} (hb : b < 640)
    (htakes : takesWrite s (oBlk b 0x304) = true) (hgo : bit v 0 = true) :
    exec (.icacheInvalidate b v) s = .next (s.icacheClear b) := by
  have hblock : ¬ nBlocks ≤ b := by unfold nBlocks; omega
  have harm : exec (.icacheInvalidate b v) s = execIcacheInvalidate b v s := rfl
  simp [harm, execIcacheInvalidate, hblock, writeWord_of_takesWrite _ (locate_oBlk hb (by decide)) htakes,
    State.writeUnit, State.writeBlk, hgo]

/-! ### A fetch that the instruction cache does not serve (R101, R240) -/

/-- A sector that the instruction cache does not hold is read at its coherence point. -/
theorem State.textSector_of_not_held {s : State} {b sec : Nat} (hmiss : find (s.block b).icache sec = none) :
    (s.textSector b sec).1 = (s.bytes sec 32, true) := by
  simp only [State.textSector, hmiss]

/-- States with the same bytes give the same runs of bytes. -/
theorem State.bytes_congr {s t : State} (h : ∀ a, t.byte a = s.byte a) (n a : Nat) : t.bytes a n = s.bytes a n := by
  induction n generalizing a with
  | zero => rfl
  | succ n ih => rw [State.bytes, State.bytes, h, ih]

/-- A look into the instruction cache changes no byte of memory. -/
theorem State.textSector_bytes (s : State) (b sec a n : Nat) : (s.textSector b sec).2.bytes a n = s.bytes a n :=
  State.bytes_congr (s.textSector_frame b sec).outside.bytes n a

/-- Settles O55: each clause by the rule of its operation, the admission's by induction over the groups placed. -/
theorem cachesInvalidated : Obligations.CachesInvalidated := by
  unfold Obligations.CachesInvalidated
  refine ⟨?admission, ?command, ?fetch⟩
  case admission =>
    intro b s x rest hb hhead hup hcan hfits hside hctx hidle
    obtain ⟨hcache, hicache⟩ := State.admitSet_caches ((s.applyMaxGroups b).withLaunchQ b rest) b x
    rw [State.withLaunchQ_icache, State.applyMaxGroups_block] at hicache
    refine ⟨_, exec_groupSetAdmit hb hhead hup hcan hfits hside hctx hidle, hcache, ?_, ?_, State.admitSet_places _ b x⟩
    · intro hcarries
      rw [hicache, if_pos hcarries]
    · intro hplain
      rw [hicache, if_neg (by simp [hplain])]
  case command =>
    intro b v s hb htakes hgo
    refine ⟨_, exec_icacheInvalidate hb htakes hgo, ?_, rfl, rfl⟩
    rw [State.icacheClear, State.setBlock_block, if_pos rfl]
  case fetch =>
    exact fun s b sec hmiss => ⟨State.textSector_of_not_held hmiss, fun a => s.textSector_bytes b sec a 32⟩

end Sys2Proof.Machine
